-- ==== Sys2Proof/Word.lean ====
section
/-! DEFINITION. The word types of the Biresque Q2: bytes, 32-bit and 64-bit values (R1, R2) and the
lane mask of a bolt (R23: at most 1,024 lanes, 8 to a stitch). -/

namespace Sys2Proof

/-- One byte of memory. -/
abbrev Byte := BitVec 8

/-- One 32-bit word of an instruction stream (R34). -/
abbrev W32 := BitVec 32

/-- One 64-bit value: the widest a name, a register or an address holds. -/
abbrev Word := BitVec 64

/-- One bit per lane of a bolt, lane `l` in bit `l` (R23: 8 to 1,024 lanes). -/
abbrev Mask := BitVec 1024

/-- One bit per stitch of a bolt, stitch `s` in bit `s`. -/
abbrev StitchMask := BitVec 128

end Sys2Proof
end

