-- ==== Sys2Proof/Syntax.lean ====
section
/-! DEFINITION. The syntax of the Biresque Q2: format tags (R100), rounding modes (R102), the base word
(R39), the extended form (R42, R43), the literal (R45), and ONE inductive `Instr` with a constructor for
each row of the opcode table: 64 base forms (R54), 146 extended forms (R55), and the 120 events by which
the hardware, Goloc, the host and the other devices of a domain act on the machine. -/

namespace Sys2Proof

/-- The sixteen format tags in the order of their codes (R100). -/
inductive Tag where
  | bits32 | bits64 | s32 | n32 | s64 | n64 | f32 | f64
  | f16x2 | bf16x2 | s8x4 | e4m3x4 | e5m2x4 | e2m1x8 | pb2x2 | sc8x4
  deriving DecidableEq, Repr, Inhabited

/-- The five rounding modes in the order of their codes (R102); codes 5 to 7 are illegal (R44). -/
inductive Rnd where
  | rne | rtz | rup | rdn | rto
  deriving DecidableEq, Repr, Inhabited

/-- A 10-bit operand code (R46). -/
abbrev Code := BitVec 10

/-- The fields of a base word below L and BOP (R39), with the 64-bit literal when L is 0b10. -/
structure BaseWord where
  g   : Bool
  cnt : BitVec 3
  d   : BitVec 5
  a   : BitVec 5
  b   : BitVec 5
  c   : BitVec 5
  lit : Option Word
  deriving DecidableEq, Repr

/-- The fields of an extended form below L and OPC (R42, R43), with the 64-bit literal when L is 0b11. -/
structure Ext where
  g    : Bool
  cnt  : BitVec 4
  pred : BitVec 3
  pneg : Bool
  fmt  : Tag
  rnd  : Rnd
  mod  : BitVec 2
  ta   : Bool
  tb   : Bool
  tc   : Bool
  dst  : Code
  a    : Code
  b    : Code
  c    : Code
  imm  : BitVec 22
  lit  : Option Word
  deriving DecidableEq, Repr

/-- The fields that every message of a collective operation carries (R355), with the version under which
it was sent (R349). -/
structure CollHdr where
  version : BitVec 32
  seq     : Nat
  mode    : BitVec 2
  op      : BitVec 4
  fmt     : Tag
  rnd     : Rnd
  len     : Nat
  ch      : BitVec 3
  deriving DecidableEq, Repr

/-- A flit of a link, by its number there (R348). -/
structure LinkFlit where
  link : Nat
  flit : Nat
  deriving DecidableEq, Repr

/-- The engines that keep stall counters (R441). -/
inductive EngineId where
  | copy (core : Nat) | request (core : Nat) | matrix (core : Nat) | reloc (die : Nat) | coll
  deriving DecidableEq, Repr

/-- The protected storage in which a bit may change of itself (R419). -/
inductive BitTarget where
  /-- Cell `key` of the register file of a bolt. -/
  | row (core slot key : Nat)
  /-- A 4-byte word of a core's scratchpad array, by byte offset. -/
  | scratch (core offset : Nat)
  /-- An 8-byte word at the L2 or in HBM, by physical address. -/
  | l2 (pa : Nat)
  /-- An 8-byte word of the lines that a launch's copy A or B has staged at the L2, by virtual address (R412). -/
  | staged (launch : Word) (copyB : Bool) (va : Nat)
  /-- A 32-bit word of a tray. -/
  | tray (core tray word : Nat)
  /-- A 32-bit word of an accumulator region. -/
  | region (core region word : Nat)
  /-- A leader of the pattern store. -/
  | leader (core leader : Nat)
  /-- An 8-byte word of an L1 data cache, by physical address. -/
  | l1 (core pa : Nat)
  /-- An instruction-cache line. -/
  | icache (core : Nat)
  /-- A barrier register of a panel. -/
  | barrier (core panel index : Nat)
  /-- The work counter of a launch, graph, phase or job, by level and identifier (R406). -/
  | counter (level : Nat) (id : Word)
  /-- The work counter of a panel. -/
  | panel (core panel : Nat)
  /-- The name table's entry for a cell of a bolt. -/
  | names (core slot key : Nat)
  /-- A swatch's entry in the split table, a join record, a return entry of a bolt. -/
  | split (core slot ent : Nat)
  | join (core slot rec : Nat)
  | ret (core slot entry : Nat)
  deriving DecidableEq, Repr

/-- Where a read of a register comes from: a function of the host link, 0 the physical one and `n + 1` tenancy `n`'s
(R455), or the management port (R457). -/
inductive Port where
  | function (n : Nat) | management
  deriving DecidableEq, Repr

/-- The registers of the control complex and of the cores that are written whole from outside the cores
(R3 and the register maps of the chapters). -/
inductive DevReg where
  | trRoot (ten : Nat) | trAccthr | trInv
  | rlArena (ten : Nat) | rlTtab (ten : Nat) | rlStat (die : Nat)
  | clDom | clLink (link : Nat) | clVer
  | lqBase (ten q : Nat) | lqIdx (ten q : Nat)
  | dbCore (core : Nat) | dbCl (cluster : Nat)
  | dwAddr (cluster w : Nat) | dwCtl (cluster w : Nat)
  | dbPpc (ten p : Nat) | dbPh (ten p : Nat) | dbPlaunch (ten : Nat)
  | peCtl (core : Nat)
  | ubReg (core : Nat) | ubScr (core : Nat) | ubL1 (core : Nat) | ubStat (core : Nat)
  | cqMin (core q : Nat) | cqCap (core q : Nat) | cqQuant (core q : Nat) | cqOcc (core q : Nat)
  | psStat (core : Nat) | psOwner (core : Nat) | mxStat (core : Nat)
  | esRel (die i : Nat) | esCol (i : Nat)
  | dnCtl (cluster unit : Nat) | dnEdge (cluster unit i : Nat)
  | hbNow | hwBase | btStat | btImghash | pwCap | pwStat
  | tenCtl (ten : Nat) | tenAcct (ten i : Nat) | msReg (i : Nat) | tmReg (ten : Nat)
  /-- No registers, but what else reaches the machine from a control core: a store of 8 bytes at a physical address, the
  fence `rw,rw`, the three operations of Zicbom on the line of the address written (R241), and the cancel of the object
  of a level whose identifier is written (R410). -/
  | ccStore (pa : Nat) | ccFence | cboClean | cboFlush | cboInval | workCancel (level : Nat)
  /-- Goloc's mailbox of a function, as Goloc or the host writes it (R455); a `.lai` that Goloc loads for a tenancy (R459);
  a read of a register through a port (R455, R457). -/
  | mailbox (goloc : Bool) (fn : Nat) | laiLoad (ten : Nat) (lai : List (BitVec 8)) | read (port : Port) (reg : DevReg)
  deriving DecidableEq, Repr

/-- One constructor per row of the opcode table. An event's arguments say where it takes place and what
reaches the machine with it; its meaning is the part's own step of that name. -/
inductive Instr where
  /-- NOP_BASE (R54): Base word 0x00: no operation; the all-zero word. -/
  | nopBase (w : BaseWord)
  /-- MOV_B32_BASE (R54): Base mov.b32: copies a 32-bit value with its tag. -/
  | movB32Base (w : BaseWord)
  /-- MOV_B64_BASE (R54): Base mov.b64: copies a 64-bit value with its tag. -/
  | movB64Base (w : BaseWord)
  /-- MOVI_S32_BASE (R54): Base movi.s32: writes a signed 5-bit immediate. -/
  | moviS32Base (w : BaseWord)
  /-- DROP1_BASE (R54): Base drop of one name: cancels one pending read. -/
  | drop1Base (w : BaseWord)
  /-- DROP2_BASE (R54): Base drop of two names. -/
  | drop2Base (w : BaseWord)
  /-- DROP3_BASE (R54): Base drop of three names. -/
  | drop3Base (w : BaseWord)
  /-- EXHAUST_BASE (R54): Base exhaust: ends a name in every active lane. -/
  | exhaustBase (w : BaseWord)
  /-- ADD_S32_BASE (R54): Base add.s32 of two registers. -/
  | addS32Base (w : BaseWord)
  /-- ADD_S32_IMM_BASE (R54): Base add.s32 of a register and a signed immediate. -/
  | addS32ImmBase (w : BaseWord)
  /-- SUB_S32_BASE (R54): Base sub.s32. -/
  | subS32Base (w : BaseWord)
  /-- MUL_S32_BASE (R54): Base mul.s32. -/
  | mulS32Base (w : BaseWord)
  /-- MULHI_S32_BASE (R54): Base mulhi.s32. -/
  | mulhiS32Base (w : BaseWord)
  /-- MAD_S32_BASE (R54): Base mad.s32. -/
  | madS32Base (w : BaseWord)
  /-- NEG_S32_BASE (R54): Base neg.s32. -/
  | negS32Base (w : BaseWord)
  /-- ABS_S32_BASE (R54): Base abs.s32. -/
  | absS32Base (w : BaseWord)
  /-- MIN_S32_BASE (R54): Base min.s32. -/
  | minS32Base (w : BaseWord)
  /-- MAX_S32_BASE (R54): Base max.s32. -/
  | maxS32Base (w : BaseWord)
  /-- MIN_N32_BASE (R54): Base min.n32. -/
  | minN32Base (w : BaseWord)
  /-- MAX_N32_BASE (R54): Base max.n32. -/
  | maxN32Base (w : BaseWord)
  /-- AND_B32_BASE (R54): Base and.b32. -/
  | andB32Base (w : BaseWord)
  /-- OR_B32_BASE (R54): Base or.b32. -/
  | orB32Base (w : BaseWord)
  /-- XOR_B32_BASE (R54): Base xor.b32. -/
  | xorB32Base (w : BaseWord)
  /-- ANDN_B32_BASE (R54): Base andn.b32. -/
  | andnB32Base (w : BaseWord)
  /-- NOT_B32_BASE (R54): Base not.b32. -/
  | notB32Base (w : BaseWord)
  /-- SHL_B32_BASE (R54): Base shl.b32 by a register. -/
  | shlB32Base (w : BaseWord)
  /-- SHL_B32_IMM_BASE (R54): Base shl.b32 by an unsigned immediate. -/
  | shlB32ImmBase (w : BaseWord)
  /-- SHR_B32_BASE (R54): Base shr.b32 by a register. -/
  | shrB32Base (w : BaseWord)
  /-- SHR_B32_IMM_BASE (R54): Base shr.b32 by an unsigned immediate. -/
  | shrB32ImmBase (w : BaseWord)
  /-- SAR_S32_BASE (R54): Base sar.s32 by a register. -/
  | sarS32Base (w : BaseWord)
  /-- SAR_S32_IMM_BASE (R54): Base sar.s32 by an unsigned immediate. -/
  | sarS32ImmBase (w : BaseWord)
  /-- POPC_B32_BASE (R54): Base popc.b32. -/
  | popcB32Base (w : BaseWord)
  /-- CLZ_B32_BASE (R54): Base clz.b32. -/
  | clzB32Base (w : BaseWord)
  /-- ADD_S64_BASE (R54): Base add.s64. -/
  | addS64Base (w : BaseWord)
  /-- ADD_S64_IMM_BASE (R54): Base add.s64 with a signed immediate. -/
  | addS64ImmBase (w : BaseWord)
  /-- SUB_S64_BASE (R54): Base sub.s64. -/
  | subS64Base (w : BaseWord)
  /-- MUL_S64_BASE (R54): Base mul.s64. -/
  | mulS64Base (w : BaseWord)
  /-- SHL_B64_IMM_BASE (R54): Base shl.b64 by an unsigned immediate. -/
  | shlB64ImmBase (w : BaseWord)
  /-- SHR_B64_IMM_BASE (R54): Base shr.b64 by an unsigned immediate. -/
  | shrB64ImmBase (w : BaseWord)
  /-- FADD_F32_BASE (R54): Base fadd.f32. -/
  | faddF32Base (w : BaseWord)
  /-- FSUB_F32_BASE (R54): Base fsub.f32. -/
  | fsubF32Base (w : BaseWord)
  /-- FMUL_F32_BASE (R54): Base fmul.f32. -/
  | fmulF32Base (w : BaseWord)
  /-- FMA_F32_BASE (R54): Base fma.f32. -/
  | fmaF32Base (w : BaseWord)
  /-- FMIN_F32_BASE (R54): Base fmin.f32. -/
  | fminF32Base (w : BaseWord)
  /-- FMAX_F32_BASE (R54): Base fmax.f32. -/
  | fmaxF32Base (w : BaseWord)
  /-- FRCP_F32_BASE (R54): Base frcp.f32 on X. -/
  | frcpF32Base (w : BaseWord)
  /-- FRSQRT_F32_BASE (R54): Base frsqrt.f32 on X. -/
  | frsqrtF32Base (w : BaseWord)
  /-- FSQRT_F32_BASE (R54): Base fsqrt.f32 on X. -/
  | fsqrtF32Base (w : BaseWord)
  /-- FEXP2_F32_BASE (R54): Base fexp2.f32 on X. -/
  | fexp2F32Base (w : BaseWord)
  /-- FLOG2_F32_BASE (R54): Base flog2.f32 on X. -/
  | flog2F32Base (w : BaseWord)
  /-- FADD_F64_BASE (R54): Base fadd.f64. -/
  | faddF64Base (w : BaseWord)
  /-- FMUL_F64_BASE (R54): Base fmul.f64. -/
  | fmulF64Base (w : BaseWord)
  /-- FMA_F64_BASE (R54): Base fma.f64. -/
  | fmaF64Base (w : BaseWord)
  /-- FDOT2_BF16_BASE (R54): Base fdot2.bf16. -/
  | fdot2Bf16Base (w : BaseWord)
  /-- LD_B32_BASE (R54): Base ld.b32 with byte offset 4·i5. -/
  | ldB32Base (w : BaseWord)
  /-- LD_B64_BASE (R54): Base ld.b64 with byte offset 8·i5. -/
  | ldB64Base (w : BaseWord)
  /-- ST_B32_BASE (R54): Base st.b32 with byte offset 4·i5. -/
  | stB32Base (w : BaseWord)
  /-- ST_B64_BASE (R54): Base st.b64 with byte offset 8·i5. -/
  | stB64Base (w : BaseWord)
  /-- RET_BASE (R54): Base ret. -/
  | retBase (w : BaseWord)
  /-- JOIN_BASE (R54): Base join. -/
  | joinBase (w : BaseWord)
  /-- EXIT_BASE (R54): Base exit of every lane of the swatch. -/
  | exitBase (w : BaseWord)
  /-- YIELD_BASE (R54): Base yield. -/
  | yieldBase (w : BaseWord)
  /-- FENCE_ACQ_BASE (R54): Base fence.acq. -/
  | fenceAcqBase (w : BaseWord)
  /-- FENCE_REL_BASE (R54): Base fence.rel. -/
  | fenceRelBase (w : BaseWord)
  /-- MOV (R83): Copies a value with its tag from a register, constant, special register or literal. -/
  | mov (x : Ext)
  /-- MOVI (R84): Writes an immediate or literal value tagged FMT. -/
  | movi (x : Ext)
  /-- DROP (R85): Cancels one pending read of each listed name. -/
  | drop (x : Ext)
  /-- EXHAUST (R85): Ends a name in every active lane whatever its count. -/
  | exhaust (x : Ext)
  /-- HOLD (R86): Makes named values held (count 15). -/
  | hold (x : Ext)
  /-- RECOUNT (R86): Sets or adds to a name's count. -/
  | recount (x : Ext)
  /-- REBIND (R87): Hands a name's storage, state, count, tag and pending delivery to another name. -/
  | rebind (x : Ext)
  /-- NSTAT (R88): Reports a name's state, tag, width and count without consuming it. -/
  | nstat (x : Ext)
  /-- SEL (R89): Chooses between two values by a selector predicate, reading both. -/
  | sel (x : Ext)
  /-- RETAG (R90): Changes a value's tag without changing its bits. -/
  | retag (x : Ext)
  /-- RESERVE (R91): Sets the bolt's reservation of unused rows or group entries. -/
  | reserve (x : Ext)
  /-- CVT (R107): Converts each element between paired floating formats. -/
  | cvt (x : Ext)
  /-- CVTFI (R115): Rounds a floating value to a saturated integer. -/
  | cvtfi (x : Ext)
  /-- CVTIF (R115): Converts an integer to a floating format. -/
  | cvtif (x : Ext)
  /-- PACK2 (R108): Narrows two values into one packed destination. -/
  | pack2 (x : Ext)
  /-- UNPACK (R109): Widens the packed elements selected by idx. -/
  | unpack (x : Ext)
  /-- BSCALE (R110): Computes one block scale per 16-lane group. -/
  | bscale (x : Ext)
  /-- QUANT (R111): Divides elements by a block scale and rounds them to a narrow format. -/
  | quant (x : Ext)
  /-- DEQUANT (R112): Multiplies narrow elements by a block scale into F16 or BF16. -/
  | dequant (x : Ext)
  /-- PBDEC (R113): Decodes pattern-book weights from codewords through the pattern store. -/
  | pbdec (x : Ext)
  /-- PBENC (R114): Finds the closest PB2 codeword to eight E4M3 targets. -/
  | pbenc (x : Ext)
  /-- PBLOAD (R116): Loads leaders into the pattern store from memory and takes ownership. -/
  | pbload (x : Ext)
  /-- ADD (R123): Integer add, wrapping or saturating. -/
  | add (x : Ext)
  /-- SUB (R123): Integer subtract, wrapping or saturating. -/
  | sub (x : Ext)
  /-- MUL (R123): Integer multiply, low half. -/
  | mul (x : Ext)
  /-- MULHI (R123): Integer multiply, high half. -/
  | mulhi (x : Ext)
  /-- MAD (R123): Integer multiply-add. -/
  | mad (x : Ext)
  /-- DIV (R126): Integer division truncated towards zero, on X. -/
  | div (x : Ext)
  /-- REM (R126): Integer remainder, on X. -/
  | rem (x : Ext)
  /-- NEG (R123): Integer negate. -/
  | neg (x : Ext)
  /-- ABS (R123): Integer absolute value. -/
  | abs (x : Ext)
  /-- MIN (R123): Integer minimum. -/
  | minI (x : Ext)
  /-- MAX (R123): Integer maximum. -/
  | maxI (x : Ext)
  /-- AND (R124): Bitwise and. -/
  | andB (x : Ext)
  /-- OR (R124): Bitwise or. -/
  | orB (x : Ext)
  /-- XOR (R124): Bitwise exclusive or. -/
  | xorB (x : Ext)
  /-- NOT (R124): Bitwise not. -/
  | notB (x : Ext)
  /-- ANDN (R124): Bitwise and-not. -/
  | andn (x : Ext)
  /-- SHL (R124): Shift left. -/
  | shl (x : Ext)
  /-- SHR (R124): Logical shift right. -/
  | shr (x : Ext)
  /-- SAR (R124): Arithmetic shift right. -/
  | sar (x : Ext)
  /-- ROTL (R124): Rotate left. -/
  | rotl (x : Ext)
  /-- POPC (R123): Counts one bits. -/
  | popc (x : Ext)
  /-- CLZ (R123): Counts leading zeros. -/
  | clz (x : Ext)
  /-- CTZ (R123): Counts trailing zeros. -/
  | ctz (x : Ext)
  /-- BREV (R123): Reverses bits. -/
  | brev (x : Ext)
  /-- BFX (R125): Extracts a bit field, sign- or zero-extended. -/
  | bfx (x : Ext)
  /-- BFI (R125): Inserts a bit field. -/
  | bfi (x : Ext)
  /-- CMP (R127): Integer comparison writing or combining into a predicate. -/
  | cmp (x : Ext)
  /-- LEA (R128): Computes a 64-bit base plus scaled index. -/
  | lea (x : Ext)
  /-- DOT4 (R128): Four-element S8 dot product with S32 accumulate. -/
  | dot4 (x : Ext)
  /-- FADD (R129): Floating add, rounded once. -/
  | fadd (x : Ext)
  /-- FSUB (R129): Floating subtract. -/
  | fsub (x : Ext)
  /-- FMUL (R129): Floating multiply. -/
  | fmul (x : Ext)
  /-- FMA (R129): Fused multiply-add, rounded once. -/
  | fma (x : Ext)
  /-- FMIN (R131): Floating minimum, exact. -/
  | fmin (x : Ext)
  /-- FMAX (R131): Floating maximum, exact. -/
  | fmax (x : Ext)
  /-- FCMP (R132): Floating comparison writing or combining into a predicate. -/
  | fcmp (x : Ext)
  /-- FCLASS (R132): Classifies a floating value into one bit. -/
  | fclass (x : Ext)
  /-- FDIV (R130): Correctly rounded floating divide on X. -/
  | fdiv (x : Ext)
  /-- FSQRT (R130): Correctly rounded square root on X. -/
  | fsqrt (x : Ext)
  /-- FRSQRT (R130): Correctly rounded reciprocal square root on X. -/
  | frsqrt (x : Ext)
  /-- FRCP (R130): Correctly rounded reciprocal on X. -/
  | frcp (x : Ext)
  /-- FEXP2 (R130): Correctly rounded base-2 exponential on X. -/
  | fexp2 (x : Ext)
  /-- FLOG2 (R130): Correctly rounded base-2 logarithm on X. -/
  | flog2 (x : Ext)
  /-- FRND (R133): Rounds to an integral floating value. -/
  | frnd (x : Ext)
  /-- FSCALE (R133): Multiplies by a power of two. -/
  | fscale (x : Ext)
  /-- FDOT2 (R133): Two-element packed dot product into F32. -/
  | fdot2 (x : Ext)
  /-- SHFL (R137): Takes another active lane's value within a segment. -/
  | shfl (x : Ext)
  /-- LBCAST (R138): Broadcasts one lane's value across each segment or to a g register. -/
  | lbcast (x : Ext)
  /-- VOTE (R139): Computes all, any, uni or ballot of a predicate over active lanes. -/
  | vote (x : Ext)
  /-- ELECT (R139): Sets a predicate in the lowest active lane only. -/
  | elect (x : Ext)
  /-- SCAN (R140): Prefix combination over active lanes of each segment. -/
  | scan (x : Ext)
  /-- LRED (R140): Reduction over active lanes of each segment. -/
  | lred (x : Ext)
  /-- KOP (R141): Applies a truth table to two predicates. -/
  | kop (x : Ext)
  /-- BRA (R166): Branches the lanes whose predicate is true, splitting if needed. -/
  | bra (x : Ext)
  /-- BRX (R166): Branches each lane to its own 64-bit target. -/
  | brx (x : Ext)
  /-- CALL (R167): Pushes a return entry and moves the true lanes to the target. -/
  | call (x : Ext)
  /-- CALLX (R158): Calls per-lane targets serially in ascending target order. -/
  | callx (x : Ext)
  /-- RET (R157): Returns the swatch through its return top. -/
  | ret (x : Ext)
  /-- FORK (R148): Pushes a join record and splits the swatch by condition. -/
  | fork (x : Ext)
  /-- JOIN (R149): Arrives at a join record and fuses when every expected lane is present. -/
  | join (x : Ext)
  /-- EXIT (R154): Ends the active lanes, releasing their names. -/
  | exit (x : Ext)
  /-- YIELD (R164): Leaves the swatch out of selection until others in its class have issued. -/
  | yield (x : Ext)
  /-- LOOP (R171): Counts a group counter down and branches while not zero. -/
  | loop (x : Ext)
  /-- NOP (R54): Takes an issue slot with no effect. -/
  | nop (x : Ext)
  /-- BRK (R173): Raises breakpoint cause 0x29 with a code. -/
  | brk (x : Ext)
  /-- LD (R216): Loads one name per lane, tagged by the access type. -/
  | ld (x : Ext)
  /-- ST (R216): Stores one value per lane. -/
  | st (x : Ext)
  /-- LDM (R216): Loads a range of consecutive names. -/
  | ldm (x : Ext)
  /-- STM (R216): Stores a range of consecutive names. -/
  | stm (x : Ext)
  /-- PF (R218): Prefetches lines into the L1 or L2 without faulting. -/
  | pf (x : Ext)
  /-- CINV (R219): Clears L1 valid and owned bits of addressed lines or of the whole L1. -/
  | cinv (x : Ext)
  /-- CWB (R220): Drains stores and writes addressed lines from the L2 back to HBM. -/
  | cwb (x : Ext)
  /-- AQ (R221): Reports the window, mapping and permissions of each lane's address. -/
  | aq (x : Ext)
  /-- FENCE (R243): Acquire, release or both, selected by MOD. -/
  | fence (x : Ext)
  /-- FENCE_SC (R234): Release, wait for the next heartbeat edge, then acquire. -/
  | fenceSc (x : Ext)
  /-- TICK (R245): Reads HB.NOW, optionally after the next edge. -/
  | tick (x : Ext)
  /-- ISYNC (R247): Acquires and invalidates the instruction cache and prefetched words. -/
  | isync (x : Ext)
  /-- ATOM (R254): Atomic read-modify-write per word, returning old values. -/
  | atom (x : Ext)
  /-- CAS (R255): Atomic compare-and-swap per word. -/
  | cas (x : Ext)
  /-- RED (R254): Atomic reduction with no result. -/
  | red (x : Ext)
  /-- TXBEGIN (R264): Starts a transaction in each active lane. -/
  | txbegin (x : Ext)
  /-- TXEND (R260): Commits or aborts each lane's transaction and writes the outcome predicate. -/
  | txend (x : Ext)
  /-- TXABORT (R264): Dooms each active lane's transaction with a code. -/
  | txabort (x : Ext)
  /-- TXSTAT (R263): Writes each lane's transaction state. -/
  | txstat (x : Ext)
  /-- TCOPY (R278): Hands box or linear copies to the copy engine. -/
  | tcopy (x : Ext)
  /-- TMCAST (R282): Multicasts a copy into the scratchpad of several cores of the group. -/
  | tmcast (x : Ext)
  /-- KICK (R288): Hands a request list to the request engine. -/
  | kick (x : Ext)
  /-- BARINIT (R291): Initialises a barrier with its expected count. -/
  | barinit (x : Ext)
  /-- ARRIVE (R291): Releases and makes an arrival on a local or remote barrier. -/
  | arrive (x : Ext)
  /-- EXPECT (R291): Changes a barrier's expected arrivals. -/
  | expect (x : Ext)
  /-- WAIT (R291): Waits until a barrier's generation moves past the given one. -/
  | waitB (x : Ext)
  /-- BARTEST (R291): Tests a barrier's generation or reads its word. -/
  | bartest (x : Ext)
  /-- CLAIM (R309): Claims and zeroes a run of trays or regions. -/
  | claim (x : Ext)
  /-- RELEASE (R309): Frees a run of claimed trays or regions. -/
  | release (x : Ext)
  /-- MLOAD (R310): Writes each lane's 32-bit value into a tray. -/
  | mload (x : Ext)
  /-- MMA (R311): Queues a matrix multiply-accumulate to the matrix engine. -/
  | mma (x : Ext)
  /-- MMAC (R305): Queues a complex matrix multiply-accumulate. -/
  | mmac (x : Ext)
  /-- ACCRD (R313): Reads accumulator elements into lanes. -/
  | accrd (x : Ext)
  /-- ACCWR (R313): Writes lane values into accumulator elements. -/
  | accwr (x : Ext)
  /-- ACCZERO (R309): Zeroes regions and sets their tag. -/
  | acczero (x : Ext)
  /-- ACCST (R314): Queues a store of a region's rows to memory through the matrix engine. -/
  | accst (x : Ext)
  /-- RELOCATE (R336): Issues tile moves to the die's relocation engine. -/
  | relocate (x : Ext)
  /-- UNPICK (R337): Issues a sweep that rewrites stale pointers in an array. -/
  | unpick (x : Ext)
  /-- TACKQ (R338): Reports where an address lives now, or its tack information. -/
  | tackq (x : Ext)
  /-- PIN (R339): Pins the tile reached by an address. -/
  | pin (x : Ext)
  /-- UNPIN (R339): Releases a pin on the tile reached by an address. -/
  | unpin (x : Ext)
  /-- COLL (R361): Issues an all-reduce, reduce or broadcast to the collective engine. -/
  | coll (x : Ext)
  /-- LINKQ (R362): Reads a link-table entry. -/
  | linkq (x : Ext)
  /-- TREEQ (R363): Reports a device's place in a derived tree. -/
  | treeq (x : Ext)
  /-- COLLQ (R364): Reports the state of a collective operation by sequence. -/
  | collq (x : Ext)
  /-- SVC (R384): Posts a service request record to Goloc and leaves the result EMPTY. -/
  | svc (x : Ext)
  /-- TRAPRET (R379): Returns from a trap handler to TRAP.PC or the next instruction. -/
  | trapret (x : Ext)
  /-- GETSP (R383): Reads a system special register. -/
  | getsp (x : Ext)
  /-- SETSP (R383): Writes a system special register. -/
  | setsp (x : Ext)
  /-- CTXSAVE (R391): Saves the issuing panel to an image. -/
  | ctxsave (x : Ext)
  /-- CTXLOAD (R392): Checks an image and has its panels admitted again. -/
  | ctxload (x : Ext)
  /-- CANCEL (R421): Cancels the issuing panel's ancestor at a level. -/
  | cancel (x : Ext)
  /-- HCNT (R422): Reads a work-hierarchy counter. -/
  | hcnt (x : Ext)
  /-- ERRINJ (R393): Flips one bit of protected storage. -/
  | errinj (x : Ext)
  /-- ENTER (R425): Pushes a region identifier. -/
  | enter (x : Ext)
  /-- LEAVE (R425): Pops a region identifier, optionally checked. -/
  | leave (x : Ext)
  /-- PMRET (R437): Returns from a probe handler to the probed instruction. -/
  | pmret (x : Ext)
  /-- STALLRD (R445): Reads, and optionally clears, a stall counter. -/
  | stallrd (x : Ext)
  /-- DENS (R445): Reads, feeds or clears a densitometer. -/
  | dens (x : Ext)
  /-- HEARTBEAT_TICK (R32): HB.NOW advances by one every 32 ns on every agent at once. -/
  | heartbeatTick
  /-- VALUE_DELIVERY (R70): A long-latency producer delivers a value into an EMPTY lane, making it FULL. -/
  | valueDelivery (id : Nat)
  /-- ALLOCATION_GRANT (R74): Freed rows serve the oldest request, parked bolts and stalled requests in order. -/
  | allocationGrant (core shuttle : Nat)
  /-- WIND_OUT (R76): A bolt's rows and name table are written to its bobbin and it parks. -/
  | windOut (core slot : Nat)
  /-- WIND_IN (R76): A parked bolt takes its rows back and resumes. -/
  | windIn (core slot : Nat)
  /-- WIND_IN_PROTECTION_END (R75): A wound-in bolt's protection ends after 1,024 instructions or idle clocks. -/
  | windInProtectionEnd (core slot : Nat)
  /-- OLDEST_BOLT_SLOT (R163): In every clock 63 mod 64, slot 1 goes to the oldest bolt's ready swatch. -/
  | oldestBoltSlot (core shuttle : Nat)
  /-- YIELD_TIMEOUT (R164): A yielded swatch returns to selection after 64 clocks. -/
  | yieldTimeout (core slot ent : Nat)
  /-- PAGE_WALK_COMPLETE (R208): An outstanding walk returns and the waiting memory instruction proceeds or parks. -/
  | pageWalkComplete (core slot ent : Nat)
  /-- DEFERRED_FAULT_DELIVERY (R373): A delegable fault waiting for another swatch's handler is delivered after its trapret. -/
  | deferredFaultDelivery (core slot ent : Nat)
  /-- FAULT_REPLAY (R375): Goloc's answer resumes the swatch at PC, replaying unfinished lanes or the whole instruction. -/
  | faultReplay (core slot ent : Nat)
  /-- FAULT_SKIP (R375): Goloc's answer resumes the swatch at the following instruction. -/
  | faultSkip (core slot ent : Nat)
  /-- FAULT_DELIVER (R375): Goloc's answer delivers the fault to the bolt's handler. -/
  | faultDeliver (core slot ent : Nat)
  /-- FAULT_END (R375): Goloc's answer ends the launch by a cancel. -/
  | faultEnd (core slot ent : Nat)
  /-- SVC_RESULT (R384): Goloc delivers a service result into the svc destination. -/
  | svcResult (id : Nat) (result : Word)
  /-- TR_INV_VPN (R212): A TR.INV write with SCOPE 0 drops entries covering one virtual page. -/
  | trInvVpn (ten : BitVec 4) (vpn : BitVec 40)
  /-- TR_INV_TENANCY (R212): A TR.INV write with SCOPE 1 drops every entry of a tenancy. -/
  | trInvTenancy (ten : BitVec 4)
  /-- TR_INV_ALL (R212): A TR.INV write with SCOPE 2 drops every entry of every tenancy. -/
  | trInvAll
  /-- TR_INV_COMPLETE (R212): All TLBs and walk caches have dropped the entries; BUSY clears. -/
  | trInvComplete
  /-- ACCESS_EVENT (R214): A 2 MiB access count reaching THR posts an access event and resets. -/
  | accessEvent (region : Nat)
  /-- UB_BOUNDARY_WRITE (R203): A boundary register write is accepted or rejected with REJ. -/
  | ubBoundaryWrite (core : Nat) (which : Nat) (value : Word)
  /-- CQ_QUEUE_WRITE (R286): A copy-queue register write is applied or ignored by validity. -/
  | cqQueueWrite (core : Nat) (which : Nat) (value : Word)
  /-- STORE_PERFORMED (R226): A store is performed at its home slice and registers its owner. -/
  | storePerformed (core : Nat)
  /-- WRITEBACK_ACK (R220): HBM acknowledges a written-back line. -/
  | writebackAck (core : Nat)
  /-- TX_COMMIT (R260): After the drain, lines are locked, validated and the write set performed. -/
  | txCommit (core slot lane : Nat)
  /-- IRREVOCABILITY_TOKEN_GRANT (R261): The device's single token is granted to the oldest waiting lane. -/
  | irrevocabilityTokenGrant
  /-- COPY_START (R280): The copy engine starts a copy after earlier stores are performed and registers its destination. -/
  | copyStart (core id : Nat)
  /-- COPY_CHUNK_LAND (R285): The engine sends and lands the next chunk chosen by deficit round-robin. -/
  | copyChunkLand (core : Nat)
  /-- COPY_CUT_OFF (R283): A copy is cut off, sets ERR, arrives and writes a record. -/
  | copyCutOff (core id status : Nat)
  /-- COPY_RESUME (R283): A copy stopped at a missing page resumes when the page is present. -/
  | copyResume (core id : Nat)
  /-- MULTICAST_COMMAND_ARRIVAL (R282): A tmcast command reaches a receiver and raises its barrier's ENG. -/
  | multicastCommandArrival (core id receiver : Nat)
  /-- REQUEST_END (R287): A request of OP 0 ends the list. -/
  | requestEnd (core : Nat)
  /-- REQUEST_LD (R287): A request of OP 1 becomes a box load copy. -/
  | requestLd (core : Nat)
  /-- REQUEST_ST (R287): A request of OP 2 becomes a box store copy. -/
  | requestSt (core : Nat)
  /-- REQUEST_LIN (R287): A request of OP 3 becomes a linear copy. -/
  | requestLin (core : Nat)
  /-- REQUEST_ARRIVE (R287): A request of OP 4 arrives once earlier copies of the list have landed. -/
  | requestArrive (core : Nat)
  /-- REQUEST_CONTINUE (R287): A request of OP 5 continues the list at ADDR2. -/
  | requestContinue (core : Nat)
  /-- REMOTE_ARRIVAL (R291): An arrive.r is applied at the target barrier, checked for overflow there. -/
  | remoteArrival
  /-- MATRIX_OP_START (R298): The next queued matrix operation starts once its conditions hold. -/
  | matrixOpStart (core : Nat)
  /-- MATRIX_K_STEP (R301): The array performs one K-step, writing every cell by WindowSum. -/
  | matrixKStep (core : Nat)
  /-- ACCST_ROW (R314): The matrix engine writes one region row to memory. -/
  | accstRow (core : Nat)
  /-- MATRIX_RETIRE (R315): A matrix operation retires, freeing trays and region and arriving. -/
  | matrixRetire (core : Nat)
  /-- MATRIX_CUT_OFF (R315): An uncorrectable error cuts off a matrix operation. -/
  | matrixCutOff (core : Nat)
  /-- MOVE_START (R328): A move starts after its waits, dooms transactions and holds Y. -/
  | moveStart (id : Nat)
  /-- MOVE_LINE_COPY (R328): The engine takes the next line of X and writes it to Y. -/
  | moveLineCopy (id : Nat)
  /-- MOVE_SHOOTDOWN_COMPLETE (R328): Translations of X are dropped, its lines released and the move retires. -/
  | moveShootdownComplete (id : Nat)
  /-- MOVE_CUT_OFF (R330): A move cut off before the tack clears M and leaves X authoritative. -/
  | moveCutOff (id status : Nat)
  /-- MOVE_RESUME (R330): A move stopped at a missing page of Y resumes. -/
  | moveResume (id : Nat)
  /-- UNPICK_SWEEP_WORD (R337): The sweep reads one word and rewrites it by cas if stale. -/
  | unpickSweepWord (id : Nat)
  /-- COLL_START (R359): The collective engine accepts an operation after earlier stores are performed. -/
  | collStart (seq : Nat)
  /-- LINK_TRAINING_LOSS (R348): A link loses training and is declared failed. -/
  | linkTrainingLoss (link : Nat)
  /-- FLIT_CRC_ERROR (R348): A flit received in error is replayed; the 16th failed replay fails the link. -/
  | flitCrcError (flit : LinkFlit)
  /-- LINK_ACK_TIMEOUT (R348): A flit unacknowledged for 64 ticks fails the link. -/
  | linkAckTimeout (link : Nat)
  /-- LINK_DOWN_NOTICE (R348): A received link-down notice makes this end declare the link failed. -/
  | linkDownNotice (link : Nat)
  /-- LINK_TABLE_RECEIVED (R349): A flooded table is adopted or merged and forwarded on change. -/
  | linkTableReceived (epoch : BitVec 16) (rows : List (Nat × List Word))
  /-- SETTLE_EXPIRY (R350): After SETTLE quiet ticks the device derives its trees. -/
  | settleExpiry
  /-- EXCHANGE_UP (R356): A child's final-chunk set arrives and is intersected upward. -/
  | exchangeUp (hdr : CollHdr) (link : Nat) (failed : List (Nat × Nat)) (final : List Nat)
  /-- EXCHANGE_DOWN (R356): The intersection arrives from the parent; chunks outside it are reset. -/
  | exchangeDown (hdr : CollHdr) (failed : List (Nat × Nat)) (final : List Nat)
  /-- PARTIAL_RECEIVED (R352): A child's partial for a chunk arrives and is folded in order. -/
  | partialReceived (hdr : CollHdr) (chunk link : Nat) (bytes : List Byte)
  /-- RESULT_RECEIVED (R353): A chunk result arrives from the parent, is written and forwarded. -/
  | resultReceived (hdr : CollHdr) (chunk : Nat) (bytes : List Byte)
  /-- DONE_TOKEN (R354): A done token arrives from a child. -/
  | doneToken (hdr : CollHdr) (link : Nat)
  /-- COMPLETE_MESSAGE (R354): The complete message arrives; the device completes, arrives and records. -/
  | completeMessage (hdr : CollHdr)
  /-- ABORT_FLOOD (R358): A flooded abort ends the operation with status 10. -/
  | abortFlood (hdr : CollHdr)
  /-- CL_DOM_ENABLE (R347): Writing EN from 0 to 1 starts a new epoch and floods the row. -/
  | clDomEnable (value : Word)
  /-- CL_LINK_WRITE (R347): A link register write with no operation in flight starts a new epoch. -/
  | clLinkWrite (link : Nat) (value : Word)
  /-- PE_GO (R385): Writing GO to PE.CTL starts a save, stopping the panel's swatches. -/
  | peGo (core : Nat) (value : Word)
  /-- SAVE_WRITE (R386): After the waits, the image is written, resources freed and a 0x16 record posted. -/
  | saveWrite (core : Nat)
  /-- LQ_PROD_WRITE (R397): Raising PROD makes new launch records available to the dispatcher. -/
  | lqProdWrite (ten q : Nat) (prod : BitVec 32)
  /-- LAUNCH_RECORD_CONSUME (R399): The dispatcher consumes a launch record, refusing it or creating the launch. -/
  | launchRecordConsume (ten q : Nat)
  /-- PANEL_GROUP_ADMIT (R404): A panel group is placed and admitted to a cluster when it fits. -/
  | panelGroupAdmit (ten q : Nat)
  /-- PANEL_COMPLETE (R407): A panel completes after its last bolt and the waits of R289. -/
  | panelComplete (core panel : Nat)
  /-- PATTERN_STORE_REGEN_DONE (R97): Regeneration of the default table completes after 128 clocks. -/
  | patternStoreRegenDone (core : Nat)
  /-- TENANCY_RESET (R465): Writing RST discards queues and cancels the tenancy's work. -/
  | tenancyReset (ten : Nat)
  /-- TENANCY_RESET_COMPLETE (R465): Once engine work ends, translations and memory are cleaned and DONE signalled. -/
  | tenancyResetComplete (ten : Nat)
  /-- COLD_START (R461): A cold start trains and scrubs HBM and boots with measurements. -/
  | coldStart (stages : List (List Byte))
  /-- WARM_START (R461): A warm start keeps HBM training, the reserved region and accounting. -/
  | warmStart (image : List Byte) (stages : List (List Byte))
  /-- WARM_START_REQUEST (R462): Writing WREQ in BT.STAT requests a warm start. -/
  | warmStartRequest
  /-- START_FAILURE_TIMEOUT (R462): A start without DONE within 90 s has failed. -/
  | startFailureTimeout
  /-- HOST_WINDOW_READ (R456): A host read through BAR 2 is performed at HBM. -/
  | hostWindowRead (offset size : Nat)
  /-- HOST_WINDOW_WRITE (R456): A host write through BAR 2 is performed at the L2 with owner 0x90. -/
  | hostWindowWrite (offset : Nat) (bytes : List Byte)
  /-- GET_VERSION (R460): SPDM request answered with supported versions. -/
  | getVersion
  /-- GET_CAPABILITIES (R460): SPDM request answered with capabilities. -/
  | getCapabilities
  /-- NEGOTIATE_ALGORITHMS (R460): SPDM algorithm negotiation. -/
  | negotiateAlgorithms
  /-- GET_DIGESTS (R460): SPDM request for certificate chain digests. -/
  | getDigests
  /-- GET_CERTIFICATE (R460): SPDM request for a certificate chain from slot 0 or 1. -/
  | getCertificate (slot : Nat)
  /-- CHALLENGE (R460): SPDM challenge signed by the device. -/
  | challenge (slot : Nat) (nonce : Word)
  /-- GET_MEASUREMENTS (R460): SPDM request for measurement indices. -/
  | getMeasurements (index : Nat)
  /-- KEY_EXCHANGE (R460): SPDM session key exchange. -/
  | keyExchange (slot : Nat)
  /-- FINISH (R460): SPDM session handshake finish. -/
  | finish
  /-- END_SESSION (R460): SPDM session end. -/
  | endSession
  /-- POWER_CAP_STEP (R467): Measured power above PW.CAP lowers the core clock by a step. -/
  | powerCapStep (watts : Nat)
  /-- THERMAL_TRIP (R467): A junction temperature of 105 °C stops all issue. -/
  | thermalTrip
  /-- L2_SCRUB (R419): An L2 slice scrubs an idle line in the background. -/
  | l2Scrub (line : Nat)
  /-- DB_CORE_STOP (R427): A stop request to one bolt. -/
  | dbCoreStop (core slot : Nat)
  /-- DB_CORE_RESUME (R429): Resumes a stopped bolt. -/
  | dbCoreResume (core slot : Nat)
  /-- DB_CORE_STEP (R430): Releases one swatch of a stopped bolt for one instruction. -/
  | dbCoreStep (core slot ent : Nat)
  /-- DB_CL_STOP (R429): A stop request to every bolt of a tenancy in a cluster. -/
  | dbClStop (cluster ten : Nat)
  /-- DB_CL_RESUME (R429): Resumes every stopped bolt of a tenancy in a cluster. -/
  | dbClResume (cluster ten : Nat)
  /-- STOP_COUNT_EXPIRY (R427): A pending stop lands after 256 instructions and posts its record. -/
  | stopCountExpiry (core slot : Nat)
  /-- STOP_IDLE_EXPIRY (R427): A pending stop lands after 64 idle clocks and posts its record. -/
  | stopIdleExpiry (core slot : Nat)
  /-- PROBE_POINT_STOP (R435): A probe with ACT 1 stops the bolt before the instruction and posts 0x15. -/
  | probePointStop (core slot ent : Nat)
  /-- PROBE_POINT_HANDLER (R435): A probe with ACT 2 runs its handler in the safelight context. -/
  | probePointHandler (core slot ent : Nat)
  /-- DENS_CONFIG_WRITE (R443): A write to DN.CTL or an edge clears the densitometer. -/
  | densConfigWrite (cluster unit : Nat) (which : Nat) (value : Word)
  /-- REGISTER_WRITE (R3): A write to a register with no behaviour of its own updates its fields by access code. -/
  | registerWrite (reg : DevReg) (value : Word)
  /-- LINK_TRAINED (R346): A scale-out link completes training and its UP bit becomes 1. -/
  | linkTrained (link : Nat)
  /-- COLL_CHUNK_RESUME (R358): A collective chunk held at a missing translation resumes once Goloc has made the page present. -/
  | collChunkResume (seq : Nat)
  /-- ACCST_RESUME (R314): An accst stopped at the row that needs a missing page resumes once Goloc has resolved it. -/
  | accstResume (core : Nat)
  /-- UNPICK_RESUME (R337): A sweep waiting on a missing translation resumes once Goloc has made the page present. -/
  | unpickResume (id : Nat)
  /-- SAVE_PAGE_RESUME (R390): A context save that met a missing page continues once Goloc has made the page present. -/
  | savePageResume (core : Nat)
  /-- STALL_CLOCK (R439): In each shuttle clock in which a bolt issues nothing, one counter of its contact sheet is increased. -/
  | stallClock (core shuttle : Nat)
  /-- ENGINE_STALL_CLOCK (R441): In each clock in which an engine holds work and makes no progress, it increases the counter of the lowest applicable cause. -/
  | engineStallClock (engine : EngineId)
  /-- DENSITOMETER_SAMPLE (R442): Each clock, a densitometer whose source is 2, 3 or 4 takes a sample into its bins. -/
  | densitometerSample (cluster unit : Nat)
  /-- GRAPH_CREATE (R406): Goloc creates a graph, phase or job object, whose counter starts at 1 until the object is sealed. -/
  | graphCreate (level : Nat) (id parent : Word)
  /-- GRAPH_SEAL (R406): Goloc seals a graph, phase or job, removing the 1 from its counter and possibly completing it. -/
  | graphSeal (level : Nat) (id : Word)
  /-- STORAGE_BIT_ERROR (R419): A bit of a protected array changes of itself, leaving a correctable or uncorrectable error. -/
  | storageBitError (target : BitTarget) (bit : Nat)
  /-- CORE_FENCE_OFF (R404): Goloc fences off a core that fails in service, after which the dispatcher places no panel on it. -/
  | coreFenceOff (core : Nat)
  /-- NATIVE_FORM_INSTALL (R58): Goloc's background translator installs a native form for hot code, which swatches enter at safe points. -/
  | nativeFormInstall (ten : Nat) (first last : Word)
  /-- NATIVE_FORM_WITHDRAW (R58): Goloc withdraws a native form at an instruction boundary, and the swatch continues in portable form. -/
  | nativeFormWithdraw (ten : Nat) (first last : Word)
  /-- INSTRUCTION_FETCH_FILL (R38): An instruction-cache miss returns its words and start map, making the waiting swatch's next instruction decoded. -/
  | instructionFetchFill (core slot ent : Nat)
  /-- CINV_ALL_COMPLETE (R219): cinv.all finishes clearing the L1 at one clock per 4 KiB, and the waiting swatch is released. -/
  | cinvAllComplete (core slot ent : Nat)  deriving Repr, DecidableEq

end Sys2Proof
end

