-- ==== Sys2Proof/Decode.lean ====
section
/-! DEFINITION. The decoder and the encoder (R34 to R57): from the bytes of an instruction stream to an
`Instr`, or to the name of the first condition of R56 that the bits break; the legality of every form
(the class chapters' encoding tables); and the way back. -/

namespace Sys2Proof

/-- Why a bit pattern is no instruction: the numbered conditions of R56, in its order, and a stream that
ends before the instruction does. -/
inductive DecodeErr where
  | truncated
  | unassigned
  | side
  | unusedField
  | count
  | predicate
  | rounding
  | format
  | trapBit
  | operandCode
  | operandSide
  | constant
  | literal
  | classField
  deriving DecidableEq, Repr

namespace Tag

/-- The code of a tag (R100). -/
def code : Tag → BitVec 4
  | bits32 => 0 | bits64 => 1 | s32 => 2 | n32 => 3 | s64 => 4 | n64 => 5 | f32 => 6 | f64 => 7
  | f16x2 => 8 | bf16x2 => 9 | s8x4 => 10 | e4m3x4 => 11 | e5m2x4 => 12 | e2m1x8 => 13 | pb2x2 => 14
  | sc8x4 => 15

/-- The tag of a code (R100). -/
def ofCode (c : BitVec 4) : Tag :=
  match c.toNat with
  | 0 => bits32 | 1 => bits64 | 2 => s32 | 3 => n32 | 4 => s64 | 5 => n64 | 6 => f32 | 7 => f64
  | 8 => f16x2 | 9 => bf16x2 | 10 => s8x4 | 11 => e4m3x4 | 12 => e5m2x4 | 13 => e2m1x8 | 14 => pb2x2
  | _ => sc8x4

/-- A tag of 64-bit values (R100). -/
def is64 : Tag → Bool
  | bits64 | s64 | n64 | f64 => true
  | _ => false

/-- The width of the value a tag names (R100). -/
def width (t : Tag) : Nat := if t.is64 then 64 else 32

/-- An integer, bit or address type (R50). -/
def isInt : Tag → Bool
  | bits32 | bits64 | s32 | n32 | s64 | n64 => true
  | _ => false

/-- A floating format, packed ones included (R92, R94). -/
def isFloat : Tag → Bool
  | f32 | f64 | f16x2 | bf16x2 | e4m3x4 | e5m2x4 | e2m1x8 => true
  | _ => false

/-- A signed integer type. -/
def isSigned : Tag → Bool
  | s32 | s64 => true
  | _ => false

end Tag

namespace Rnd

/-- The code of a rounding mode (R102). -/
def code : Rnd → BitVec 3
  | rne => 0 | rtz => 1 | rup => 2 | rdn => 3 | rto => 4

/-- The rounding mode of a code; codes 5 to 7 name none (R44). -/
def ofCode (c : BitVec 3) : Option Rnd :=
  match c.toNat with
  | 0 => some rne | 1 => some rtz | 2 => some rup | 3 => some rdn | 4 => some rto
  | _ => none

end Rnd

/-! ### Operand codes (R46, R47, R51) -/

/-- The code names v0 to v255. -/
def Code.isV (c : Code) : Bool := c.toNat < 0x100
/-- The code names g0 to g383. -/
def Code.isG (c : Code) : Bool := 0x100 ≤ c.toNat && c.toNat < 0x280
/-- The code names a register. -/
def Code.isReg (c : Code) : Bool := c.toNat < 0x280
/-- The code names an inline constant (R49). -/
def Code.isConst (c : Code) : Bool := 0x280 ≤ c.toNat && c.toNat < 0x2C0
/-- An inline constant of an integer group. -/
def Code.isIntConst (c : Code) : Bool := 0x280 ≤ c.toNat && c.toNat < 0x2A0
/-- An inline constant of the floating group. -/
def Code.isFloatConst (c : Code) : Bool := 0x2A0 ≤ c.toNat && c.toNat < 0x2B0
/-- A special register that R51 assigns. -/
def Code.isSpecial (c : Code) : Bool := 0x2C0 ≤ c.toNat && c.toNat < 0x2D9
/-- A special register marked "lane" (R51). -/
def Code.isLaneSpecial (c : Code) : Bool := 0x2C0 ≤ c.toNat && c.toNat < 0x2C3
/-- A special register tagged N64 (R51). -/
def Code.isSpecial64 (c : Code) : Bool :=
  c.toNat == 0x2D2 || c.toNat == 0x2D5 || c.toNat == 0x2D6
/-- The code of `SR.ARGBASE`. -/
def Code.argBase : Code := 0x2D2

/-- What a source position asks of the value it reads (R9 `CheckTag`, R101). -/
inductive Req where
  | exact (t : Tag)
  | any32
  | any64
  /-- No tag is checked: `drop`, `exhaust`, `hold`, `rebind`, `nstat`, `retag`, `mov`. -/
  | free
  deriving DecidableEq, Repr

namespace Req

/-- `CheckTag` against a form's tag: BITS32 and BITS64 accept any tag of their width (R9). -/
def ofTag : Tag → Req
  | .bits32 => any32
  | .bits64 => any64
  | t => exact t

/-- The position reads 64 bits. -/
def is64 : Req → Bool
  | exact t => t.is64
  | any64 => true
  | any32 | free => false

/-- The position is a floating one, where a floating constant is converted (R50). -/
def isFloat : Req → Bool
  | exact t => t.isFloat
  | _ => false

/-- The position is of integer, bit or address type (R50). -/
def isInt : Req → Bool
  | exact t => t.isInt
  | any32 | any64 => true
  | free => false

/-- The tag reported as expected in a 0x06 record (R377): the BITS tag for "any" positions. -/
def tag : Req → Tag
  | exact t => t
  | any64 => .bits64
  | any32 | free => .bits32

end Req

/-- What a source position of a form may name. -/
inductive Use where
  /-- The form does not use the position: its field must be zero. -/
  | no
  /-- A register, an inline constant, a special register. -/
  | src
  /-- A register only. -/
  | reg
  /-- A v register only. -/
  | vreg
  /-- A g register only. -/
  | greg
  /-- An address operand: a register, an integer constant or `SR.ARGBASE` (R215). -/
  | addr
  /-- Nothing (field zero), or a register, constant or special register. -/
  | opt
  /-- Nothing (field zero), or a register. -/
  | optReg
  /-- A g register, an integer constant (R384). -/
  | gOrInt
  /-- A uniform operand: a g register, a constant or a special register marked "both" (R138). -/
  | uniform
  deriving DecidableEq, Repr

/-- Where a literal stands (R45). -/
inductive LitPos where
  | none | inA | inB
  /-- In place of the immediate, a 64-bit position. -/
  | imm
  /-- In place of the immediate, a position of the width of FMT. -/
  | immFmt
  /-- In place of IMM22: the field `imm` then holds the literal's value. -/
  | folded
  deriving DecidableEq, Repr

/-- One source position. -/
structure Slot where
  use : Use := .no
  req : Req := .free
  deriving DecidableEq, Repr

/-- The legality of one form: what its class chapter's encoding table admits. -/
structure Form where
  lane  : Bool := true
  group : Bool := true
  /-- The form writes a destination, and CNT is nonzero (R41, R44). -/
  wr    : Bool := true
  /-- CNT is nonzero though DST names no written register (`recount` names DST and writes it). -/
  dstUsed : Bool := true
  /-- A lane-side form may name a g destination (R47). -/
  gdst  : Bool := false
  pred  : Bool := true
  fmts  : List Tag := [.bits32]
  rounds : Bool := false
  mods  : List Nat := [0]
  a     : Slot := {}
  b     : Slot := {}
  c     : Slot := {}
  imm   : Nat := 0
  lit   : LitPos := .none
  trap  : Bool := true
  /-- A lane-side form may not name a g source (R81). -/
  noG   : Bool := false
  /-- The class chapter's further checks. -/
  extra : Bool := true
  deriving DecidableEq, Repr

namespace Ext

/-- Bits [hi:lo] of IMM22. -/
def immF (x : Ext) (lo n : Nat) : Nat := (x.imm.extractLsb' lo n).toNat

/-- IMM22 as a signed number. -/
def immS (x : Ext) : Int := x.imm.toInt

/-- The instruction's length in words (R34). -/
def len (x : Ext) : Nat := if x.lit.isSome then 5 else 3

/-- MOD as a number. -/
def modN (x : Ext) : Nat := x.mod.toNat

/-- CNT as a number; 15 is held. -/
def cntN (x : Ext) : Nat := x.cnt.toNat

end Ext

/-! ### The forms of the class chapters -/

def intTags : List Tag := [.s32, .n32, .s64, .n64]
def bitTags : List Tag := [.bits32, .bits64]
def allTags : List Tag :=
  [.bits32, .bits64, .s32, .n32, .s64, .n64, .f32, .f64, .f16x2, .bf16x2, .s8x4, .e4m3x4, .e5m2x4,
   .e2m1x8, .pb2x2, .sc8x4]
def tags32 : List Tag := allTags.filter (fun t => !t.is64)
def floatTags : List Tag := [.f32, .f64, .f16x2, .bf16x2]
def packed8 : List Tag := [.e4m3x4, .e5m2x4, .s8x4]

/-- Source position of kind `src` checked against a tag. -/
def Slot.of (t : Tag) : Slot := ⟨.src, Req.ofTag t⟩
/-- Address base: checked against BITS64 (R101). -/
def Slot.base : Slot := ⟨.addr, .any64⟩
/-- A register or other source checked against BITS64. -/
def Slot.src64 : Slot := ⟨.src, .any64⟩

/-- Three-operand arithmetic on `T`, with the tags its table admits. -/
def arith (x : Ext) (tags : List Tag) (mods : List Nat := [0]) : Form :=
  { fmts := tags, mods := mods, a := .of x.fmt, b := .of x.fmt, lit := .inB }

/-- Two-operand form on `T`. -/
def unary (x : Ext) (tags : List Tag) (mods : List Nat := [0]) : Form :=
  { fmts := tags, mods := mods, a := .of x.fmt }

/-- The source tag that IMM22[3:0] of a conversion names (R105). -/
def Ext.srcTag (x : Ext) : Tag := Tag.ofCode (x.imm.extractLsb' 0 4)

/-- The admitted pairs (FMT, source) of `cvt`, `pack2` and `unpack` with the largest `idx` (R107 to R109). -/
def cvtPair (d s : Tag) : Bool :=
  match d, s with
  | .f32, .f64 | .f64, .f32 | .bf16x2, .f16x2 | .f16x2, .bf16x2 | .e5m2x4, .e4m3x4 | .e4m3x4, .e5m2x4 => true
  | _, _ => false
def pack2Pair (d s : Tag) : Bool :=
  match d, s with
  | .f16x2, .f32 | .bf16x2, .f32 | .e4m3x4, .f16x2 | .e4m3x4, .bf16x2 | .e5m2x4, .f16x2 | .e5m2x4, .bf16x2
  | .e2m1x8, .e4m3x4 | .e2m1x8, .e5m2x4 => true
  | _, _ => false
def unpackMax (d s : Tag) : Option Nat :=
  match d, s with
  | .f32, .f16x2 | .f32, .bf16x2 => some 1
  | .f16x2, .e4m3x4 | .f16x2, .e5m2x4 | .bf16x2, .e4m3x4 | .bf16x2, .e5m2x4 => some 1
  | .e4m3x4, .e2m1x8 => some 1
  | .s32, .s8x4 | .f32, .sc8x4 => some 3
  | _, _ => none

/-- The FMT set of the operations of `scan` and `lred` (R140). -/
def scanTags : Nat → List Tag
  | 0 | 1 | 2 => intTags
  | 3 | 4 | 5 => bitTags
  | 6 | 7 | 8 => [.f32, .f64]
  | _ => []
/-- The FMT set of the operations of `coll` (R360). -/
def collTags : Nat → List Tag
  | 0 | 1 | 2 => intTags
  | 3 | 4 | 5 => bitTags
  | 6 | 7 | 8 => floatTags
  | _ => []
/-- The FMT set of the operations of `atom` and `red` (R254). -/
def atomTags : Nat → List Tag
  | 0 | 2 | 3 => intTags
  | 1 => floatTags
  | _ => bitTags

/-- The tag of a system special register, with `none` for an index R382 does not list. -/
def sysTag (i : Nat) : Option Tag :=
  if i == 0x000 then some .bits64 else if i == 0x001 then some .n64
  else if i == 0x010 || i == 0x011 then some .bits64
  else if i == 0x012 then some .n64
  else if 0x013 ≤ i && i ≤ 0x016 then some .bits64
  else if i == 0x017 || i == 0x020 || i == 0x021 then some .n64
  else if 0x100 ≤ i && i ≤ 0x103 then some .bits64
  else if 0x110 ≤ i && i ≤ 0x122 then some .bits64
  else if i == 0x130 then some .bits64
  else none

/-- Number of names of `ldm` and `stm` by MOD (R215). -/
def rangeLen (m : Nat) : Nat := 2 <<< m

/-- A range of `n` names from a code stays inside v0 to v255 or g0 to g383 (R215, R277). -/
def rangeOk (c : Code) (n : Nat) : Bool :=
  if c.isV then c.toNat + n ≤ 0x100 else c.isG && c.toNat + n ≤ 0x280

/-- The form of an extended opcode, as its class chapter's table gives it; `none` when R55 leaves the
opcode unassigned. That a register SRCA of `wait` and `bartest` takes no trap bit is the model's choice: R290's table does
not say (DESIGN CHOICE, log 85). -/
def formOf (opc : Nat) (x : Ext) : Option Form :=
  match opc with
  -- register class (R81)
  | 0x000 => some { fmts := bitTags, a := .of x.fmt, lit := .inA
                    extra := x.lit.isSome || !(x.fmt == .bits32 && x.a.isSpecial64) }
  | 0x001 => some { fmts := if x.lit.isSome then allTags else intTags ++ bitTags, imm := 0x3FFFFF, lit := .immFmt }
  | 0x002 => some { wr := false, dstUsed := false, mods := [0, 1, 2], trap := false, noG := true
                    a := ⟨.reg, .free⟩, b := ⟨if 1 ≤ x.modN then .reg else .no, .free⟩
                    c := ⟨if x.modN == 2 then .reg else .no, .free⟩ }
  | 0x003 => some { wr := false, dstUsed := false, trap := false, noG := true, a := ⟨.reg, .free⟩ }
  | 0x004 => some { wr := false, dstUsed := false, mods := [0, 1, 2], trap := false, noG := true
                    a := ⟨.reg, .free⟩, b := ⟨if 1 ≤ x.modN then .reg else .no, .free⟩
                    c := ⟨if x.modN == 2 then .reg else .no, .free⟩ }
  | 0x005 => some { mods := [0, 1], trap := false, extra := !(x.modN == 1 && x.cntN == 15) }
  | 0x006 => some { wr := false, noG := true, a := ⟨.reg, .free⟩ }
  | 0x007 => some { trap := false, noG := true, a := ⟨.reg, .free⟩ }
  | 0x008 => some { fmts := bitTags, a := .of x.fmt, b := .of x.fmt, imm := 0xF, lit := .inB }
  | 0x009 => some { fmts := allTags, a := ⟨.src, if x.fmt.is64 then .any64 else .any32⟩ }
  | 0x00A => some { wr := false, dstUsed := false, imm := 0xFF, lit := .folded }
  -- conversions (R105)
  | 0x030 => some { fmts := allTags, rounds := true, mods := [0, 1], a := .of x.srcTag, imm := 0xF, lit := .folded
                    extra := cvtPair x.fmt x.srcTag }
  | 0x031 => some { fmts := intTags, rounds := true, a := .of x.srcTag, imm := 0xF, lit := .folded
                    extra := x.srcTag == .f32 || x.srcTag == .f64 }
  | 0x032 => some { fmts := [.f32, .f64], rounds := true, a := .of x.srcTag, imm := 0xF, lit := .folded
                    extra := intTags.contains x.srcTag }
  | 0x033 => some { fmts := allTags, rounds := true, mods := [0, 1], a := .of x.srcTag, b := .of x.srcTag
                    imm := 0xF, lit := .inB, extra := pack2Pair x.fmt x.srcTag }
  | 0x034 => some { fmts := allTags, a := .of x.srcTag, imm := 0x70F, lit := .folded
                    extra := match unpackMax x.fmt x.srcTag with
                      | some m => x.immF 8 3 ≤ m | none => false }
  | 0x035 => some { group := false, fmts := packed8 ++ [.e2m1x8], a := .of x.srcTag, b := .of x.srcTag
                    imm := 0xF, lit := .inB, extra := x.srcTag == .f16x2 || x.srcTag == .bf16x2 }
  | 0x036 => some { fmts := packed8, rounds := true, a := .of x.srcTag, b := .of x.srcTag
                    c := .of .sc8x4, imm := 0xCF, lit := .inB
                    extra := x.srcTag == .f16x2 || x.srcTag == .bf16x2 }
  | 0x037 => some { fmts := [.f16x2, .bf16x2], rounds := true, a := .of x.srcTag, b := .of .sc8x4
                    imm := 0x7CF, lit := .inB
                    extra := (packed8.contains x.srcTag && x.immF 8 3 ≤ 1)
                      || (x.srcTag == .e2m1x8 && x.immF 8 3 ≤ 3) }
  | 0x038 => some { fmts := [.f16x2, .bf16x2, .e4m3x4], rounds := true, mods := [0, 1], a := .of x.srcTag
                    b := .of .sc8x4, imm := 0x7CF, lit := .inB
                    extra := x.srcTag == .pb2x2 && (x.fmt != .e4m3x4 || x.immF 8 3 ≤ 3) }
  | 0x039 => some { fmts := [.n32, .pb2x2], a := .of x.srcTag, b := .of x.srcTag
                    c := if x.fmt == .pb2x2 then .of .n32 else {}, imm := 0xF, lit := .inB
                    extra := x.srcTag == .e4m3x4 }
  | 0x03A => some { lane := false, wr := false, dstUsed := false, a := ⟨.greg, .any64⟩, imm := 0x3FF1FF, lit := .folded
                    extra := x.immF 0 9 + (x.immF 12 10 + 1) ≤ 512 }
  -- integer and bit forms (R120)
  | 0x060 | 0x061 => some (arith x intTags [0, 1])
  | 0x062 | 0x063 => some (arith x intTags)
  | 0x064 => some { arith x intTags [0, 1] with c := .of x.fmt }
  | 0x065 | 0x066 => some (arith x intTags)
  | 0x067 | 0x068 => some (unary x [.s32, .s64] [0, 1])
  | 0x069 | 0x06A => some (arith x intTags)
  | 0x06B | 0x06C | 0x06D | 0x06F => some (arith x bitTags)
  | 0x06E => some (unary x bitTags)
  | 0x070 | 0x071 | 0x073 => some { arith x bitTags with b := ⟨.src, .any32⟩ }
  | 0x072 => some { arith x [.s32, .s64] with
                    a := ⟨.src, if x.fmt.is64 then .any64 else .any32⟩, b := ⟨.src, .any32⟩ }
  | 0x074 | 0x075 | 0x076 | 0x077 => some (unary x bitTags)
  | 0x078 => some { fmts := intTags, a := ⟨.src, if x.fmt.is64 then .any64 else .any32⟩
                    c := ⟨.optReg, .any32⟩, imm := 0x1FFF, lit := if x.c == 0 then .folded else .none
                    extra := (x.c == 0 && x.immF 0 6 < x.fmt.width && x.immF 0 6 + x.immF 6 7 ≤ x.fmt.width)
                      || (x.c != 0 && x.imm == 0) }
  | 0x079 => some { fmts := bitTags, a := .of x.fmt, b := .of x.fmt, c := ⟨.optReg, .any32⟩, imm := 0x1FFF
                    lit := .inB
                    extra := (x.c == 0 && x.immF 0 6 < x.fmt.width && x.immF 0 6 + x.immF 6 7 ≤ x.fmt.width)
                      || (x.c != 0 && x.imm == 0) }
  | 0x07A => some { wr := false, dstUsed := false, fmts := intTags ++ bitTags, mods := [0, 1, 2]
                    a := .of x.fmt, b := .of x.fmt, imm := 0x3F, lit := .inB
                    extra := x.immF 0 3 != 0 && x.immF 3 3 ≤ 5
                      && (!(x.fmt == .bits32 || x.fmt == .bits64) || x.immF 3 3 ≤ 1) }
  | 0x07B => some { fmts := intTags, a := .src64, b := .of x.fmt, imm := 7, lit := .inB }
  | 0x07C => some { fmts := [.s32], mods := [0, 1], a := .of .s8x4, b := .of .s8x4, c := .of .s32, lit := .inB }
  -- floating forms (R121)
  | 0x0C0 | 0x0C1 | 0x0C2 => some { arith x floatTags with rounds := true }
  | 0x0C3 => some { arith x floatTags with rounds := true, c := .of x.fmt }
  | 0x0C4 | 0x0C5 => some (arith x floatTags)
  | 0x0C6 => some { wr := false, dstUsed := false, fmts := [.f32, .f64], mods := [0, 1, 2]
                    a := .of x.fmt, b := .of x.fmt, imm := 0x3F, lit := .inB, extra := x.immF 0 3 != 0 }
  | 0x0C7 => some (unary x [.f32, .f64])
  | 0x0C8 => some { arith x [.f32, .f64] with rounds := true }
  | 0x0C9 | 0x0CA | 0x0CB | 0x0CC | 0x0CD => some { unary x [.f32, .f64] with rounds := true }
  | 0x0CE => some { unary x floatTags with rounds := true }
  | 0x0CF => some { arith x [.f32, .f64] with rounds := true, b := .of .s32 }
  | 0x0D0 => some { fmts := [.f16x2, .bf16x2], rounds := true, a := .of x.fmt, b := .of x.fmt, c := .of .f32
                    lit := .inB }
  -- lane exchange (R122)
  | 0x120 => some { group := false, fmts := bitTags, mods := [0, 1, 2, 3], a := .of x.fmt, b := ⟨.src, .any32⟩
                    imm := 0x7F, lit := .inB, extra := x.immF 0 4 ≤ 10 }
  | 0x121 => some { group := false, gdst := true, fmts := bitTags, a := .of x.fmt, b := ⟨.uniform, .any32⟩
                    imm := 0xF, lit := .inB, extra := x.immF 0 4 ≤ 10 && (!x.dst.isG || x.immF 0 4 == 0) }
  | 0x122 => some { group := false, wr := x.modN == 3, dstUsed := x.modN == 3, mods := [0, 1, 2, 3], imm := 0xFF, lit := .folded
                    extra := if x.modN == 3 then x.immF 4 4 == 0 else x.immF 4 3 != 0 }
  | 0x123 => some { group := false, wr := false, dstUsed := false, imm := 0x70, lit := .folded, extra := x.immF 4 3 != 0 }
  | 0x124 => some { group := false, fmts := scanTags (x.immF 4 4), rounds := x.immF 4 4 == 6, mods := [0, 1]
                    a := .of x.fmt, imm := 0xFF, lit := .folded, extra := x.immF 0 4 ≤ 10 }
  | 0x125 => some { group := false, gdst := true, fmts := scanTags (x.immF 4 4), rounds := x.immF 4 4 == 6
                    a := .of x.fmt, imm := 0xFF, lit := .folded
                    extra := x.immF 0 4 ≤ 10 && (!x.dst.isG || x.immF 0 4 == 0) }
  | 0x126 => some { wr := false, dstUsed := false, imm := 0x1FFF, lit := .folded, extra := x.immF 0 3 != 0 }
  -- control (R165)
  | 0x140 => some { wr := false, dstUsed := false, imm := 0x3FFFFF, lit := .imm }
  | 0x141 | 0x143 => some { group := false, wr := false, dstUsed := false, a := ⟨.reg, .any64⟩ }
  | 0x142 => some { group := false, wr := false, dstUsed := false, imm := 0x3FFFFF, lit := .imm }
  | 0x144 | 0x146 | 0x148 => some { group := false, wr := false, dstUsed := false, pred := false }
  | 0x145 => some { group := false, wr := false, dstUsed := false, imm := 0x3FFFFF, lit := .imm }
  | 0x147 => some { group := false, wr := false, dstUsed := false }
  | 0x149 => some { lane := false, pred := false, fmts := intTags, a := ⟨.greg, .ofTag x.fmt⟩
                    imm := 0x3FFFFF, lit := .imm }
  | 0x14A => some { wr := false, dstUsed := false, pred := false }
  | 0x14B => some { group := false, wr := false, dstUsed := false, pred := false, imm := 0xFFFF, lit := .folded }
  -- memory (R215)
  | 0x160 => some { fmts := if x.modN == 0 then allTags else [.bits32, .s32, .n32], mods := [0, 1, 2]
                    a := .base, imm := 0x3FFFFF, lit := .imm }
  | 0x161 => some { wr := false, dstUsed := false
                    fmts := if x.modN == 0 then allTags else [.bits32, .s32, .n32], mods := [0, 1, 2]
                    a := .base, b := .of x.fmt, imm := 0x3FFFFF, lit := .inB }
  | 0x162 => some { fmts := allTags, mods := [0, 1, 2], a := .base, imm := 0x3FFFFF, lit := .imm
                    extra := rangeOk x.dst (rangeLen x.modN) }
  | 0x163 => some { wr := false, dstUsed := false, fmts := allTags, mods := [0, 1, 2], a := .base
                    b := ⟨if x.lit.isSome then .src else .reg, .ofTag x.fmt⟩, imm := 0x3FFFFF, lit := .inB
                    extra := x.lit.isSome || rangeOk x.b (rangeLen x.modN) }
  | 0x164 => some { group := false, wr := false, dstUsed := false, mods := [0, 1], a := .base
                    imm := 0x3FFFFF, lit := .imm }
  | 0x165 => some { wr := false, dstUsed := false, mods := [if x.g then 1 else 0]
                    a := if x.g then {} else .base, imm := if x.g then 0 else 0x3FFFFF
                    lit := if x.g then .none else .imm }
  | 0x166 => some { group := false, wr := false, dstUsed := false, a := .base, imm := 0x3FFFFF, lit := .imm }
  | 0x167 => some { fmts := [.n64], a := .base, imm := 0x3FFFFF, lit := .imm }
  -- ordering (R242)
  | 0x180 => some { group := false, wr := false, dstUsed := false, pred := false, mods := [0, 1, 2] }
  | 0x181 | 0x183 => some { group := false, wr := false, dstUsed := false, pred := false }
  | 0x182 => some { fmts := [.n64], mods := [0, 1] }
  -- atomics and transactions (R253)
  | 0x190 => some { fmts := atomTags (x.immF 0 3), rounds := x.immF 0 3 == 1, mods := [0, 1, 2, 3]
                    a := .base, b := .of x.fmt, imm := 0x3FFF07, lit := .inB }
  | 0x191 => some { fmts := bitTags, mods := [0, 1, 2, 3], a := .base, b := .of x.fmt, c := .of x.fmt
                    imm := 0x3FFF78, lit := .inB }
  | 0x192 => some { wr := false, dstUsed := false, fmts := atomTags (x.immF 0 3), rounds := x.immF 0 3 == 1
                    mods := [0, 1, 2, 3], a := .base, b := .of x.fmt, imm := 0x3FFF07, lit := .inB }
  | 0x193 => some { group := false, wr := false, dstUsed := false }
  | 0x194 => some { group := false, wr := false, dstUsed := false, imm := 7, lit := .folded, extra := x.immF 0 3 != 0 }
  | 0x195 => some { group := false, wr := false, dstUsed := false, imm := 0xFF, lit := .folded }
  | 0x196 => some { group := false, fmts := [.n32] }
  -- copies and barriers (R277, R288, R290)
  | 0x1B0 => some { wr := false, dstUsed := false, mods := [0, 1, 2], a := .src64
                    b := if x.imm.getLsbD 8 then {} else .src64
                    c := if x.modN == 2 then .of .n32 else .of .s32
                    imm := 0x7FFF, lit := if x.imm.getLsbD 8 then .none else .inB
                    extra := (x.imm.getLsbD 4 || x.immF 0 4 == 0)
                      && (x.modN != 2 || x.immF 6 2 == 0)
                      && (!x.imm.getLsbD 8 || x.modN == 0)
                      && (x.imm.getLsbD 8 || x.immF 9 6 == 0)
                      && (x.immF 6 2 == 0 || rangeOk x.c (x.immF 6 2 + 1))
                      && !(x.c.isConst && !x.c.isIntConst && x.modN != 2) }
  | 0x1B1 => some { wr := false, dstUsed := false, mods := [0, 2], a := .src64, b := .src64
                    c := if x.modN == 2 then .of .n32 else .of .s32, imm := 0xFFFF, lit := .inB
                    extra := (x.imm.getLsbD 4 || x.immF 0 4 == 0)
                      && (x.modN != 2 || x.immF 6 2 == 0) && x.immF 8 8 != 0
                      && (x.immF 6 2 == 0 || rangeOk x.c (x.immF 6 2 + 1))
                      && !(x.c.isConst && !x.c.isIntConst && x.modN != 2) }
  | 0x1B2 => some { lane := false, wr := false, dstUsed := false, pred := false, trap := false, a := ⟨.greg, .any64⟩ }
  | 0x1B3 => some { group := false, wr := false, dstUsed := false, imm := 0x3FFFF, lit := .folded, extra := x.immF 4 14 != 0 }
  | 0x1B4 => some { group := false, gdst := true, wr := x.cntN != 0, dstUsed := x.cntN != 0
                    fmts := if x.cntN != 0 then [.n32] else [.bits32], mods := [0, 1, 2, 3], imm := 0x7F, lit := .folded
                    extra := x.mod.getLsbD 1 || x.immF 4 3 == 0 }
  | 0x1B5 => some { group := false, wr := false, dstUsed := false, imm := 0x3FFF0F, lit := .folded, extra := x.immF 8 14 != 0 }
  | 0x1B6 => some { group := false, wr := false, dstUsed := false, a := ⟨.opt, .any32⟩, trap := false, imm := 0x3F, lit := .folded
                    extra := x.a == 0 || x.immF 4 2 == 0 }
  | 0x1B7 => some (if x.modN == 0 then
                    { group := false, wr := false, dstUsed := false, a := ⟨.opt, .any32⟩, trap := false, imm := 0x1FF, lit := .folded
                      extra := (x.a == 0 || x.immF 4 2 == 0) && x.immF 6 3 != 0 }
                  else { group := false, gdst := true, fmts := [.n64], mods := [1], imm := 0xF, lit := .folded })
  -- matrix (R308)
  | 0x1C0 | 0x1C1 => some { wr := false, dstUsed := false, mods := [0, 1], imm := 0xFFF, lit := .folded
                            extra := x.immF 6 6 + (x.immF 0 6 + 1) ≤ 64 }
  | 0x1C2 => some { group := false, wr := false, dstUsed := false, fmts := tags32
                    a := ⟨.vreg, .ofTag x.fmt⟩, imm := 0x3F0FFF, lit := .folded, extra := x.immF 0 2 == 0 }
  | 0x1C3 => some { wr := false, dstUsed := false
                    fmts := [.f16x2, .bf16x2, .s8x4, .e4m3x4, .e5m2x4, .e2m1x8, .pb2x2], mods := [0, 1, 2]
                    b := .src64, imm := 0x3FFC1F, lit := .inB
                    extra := (x.imm.getLsbD 4 || x.immF 0 4 == 0)
                      && !(x.mod.getLsbD 1 && x.fmt == .s8x4) }
  | 0x1C4 => some { wr := false, dstUsed := false, fmts := [.f16x2, .bf16x2, .e4m3x4, .e5m2x4], mods := [0, 1]
                    b := .src64, imm := 0x3FFC1F, lit := .inB
                    extra := x.imm.getLsbD 4 || x.immF 0 4 == 0 }
  | 0x1C5 => some { group := false, fmts := [.f32, .s32], a := ⟨.opt, .exact .n32⟩, imm := 0x3F001F, lit := .folded
                    extra := x.a == 0 || x.immF 0 5 == 0 }
  | 0x1C6 => some { group := false, wr := false, dstUsed := false, fmts := [.f32, .s32], mods := [0, 1]
                    a := .of x.fmt, b := ⟨.opt, .exact .n32⟩, imm := 0x3F001F, lit := .inB
                    extra := (x.b == 0 && x.lit.isNone) || x.immF 0 5 == 0 }
  | 0x1C7 => some { wr := false, dstUsed := false, fmts := [.f32, .s32], imm := 0xFFF, lit := .folded
                    extra := x.immF 6 6 + (x.immF 0 6 + 1) ≤ 64 }
  | 0x1C8 => some { wr := false, dstUsed := false, fmts := [.f32, .s32, .f16x2, .bf16x2]
                    rounds := x.fmt == .f16x2 || x.fmt == .bf16x2, a := .src64, b := .src64, imm := 0x3F003F
                    lit := .inB, extra := x.imm.getLsbD 4 || x.immF 0 4 == 0 }
  -- relocation (R335)
  | 0x1D0 => some { wr := false, dstUsed := false, a := .src64, b := .src64, imm := 0xFFF3F, lit := .inB
                    extra := x.imm.getLsbD 4 || x.immF 0 4 == 0 }
  | 0x1D1 => some { lane := false, fmts := [.n32], a := .src64, b := .of .n32, c := ⟨.opt, .any64⟩, lit := .inB }
  | 0x1D2 => some { fmts := if x.modN == 0 then [.n64] else [.n32], mods := [0, 1], a := .src64
                    imm := 0x3FFFFF, lit := .imm }
  | 0x1D3 => some { wr := x.cntN != 0, dstUsed := x.cntN != 0, fmts := if x.cntN != 0 then [.n64] else [.bits32]
                    a := .src64, imm := 0x3FFFFF, lit := .imm }
  | 0x1D4 => some { wr := false, dstUsed := false, a := .src64, imm := 0x3FFFFF, lit := .imm }
  -- collectives (R360)
  | 0x1D8 => some { lane := false, wr := false, dstUsed := false, mods := [0, 1, 2]
                    fmts := if x.modN == 2 then [.bits32] else collTags (x.immF 8 4)
                    rounds := x.modN != 2 && x.immF 8 4 == 6
                    a := .src64, b := .src64, c := .of .n64, imm := 0x7F3F, lit := .inB
                    extra := x.immF 12 3 ≤ 6 && (x.imm.getLsbD 4 || x.immF 0 4 == 0)
                      && (x.modN != 2 || x.immF 8 4 == 0) }
  | 0x1D9 => some { lane := false, fmts := [.n64], a := ⟨.opt, .any32⟩, imm := 0x1FFF
                    lit := if x.a == 0 then .folded else .none, extra := x.a == 0 || x.imm == 0 }
  | 0x1DA => some { lane := false, fmts := [.n64], a := ⟨.opt, .any32⟩, imm := 0x1FE7
                    lit := if x.a == 0 then .folded else .none, extra := x.a == 0 || x.imm == 0 }
  | 0x1DB => some { lane := false, fmts := [.n64], a := .of .n32 }
  -- system (R394, R420)
  | 0x1E0 => some { lane := false, fmts := [.n64], a := ⟨.gOrInt, .any64⟩, imm := 0xFFFF, lit := .folded }
  | 0x1E1 => some { group := false, wr := false, dstUsed := false, mods := [0, 1], pred := true }
  | 0x1E2 => some { fmts := match sysTag (x.immF 0 12) with | some t => [t] | none => []
                    imm := 0xFFF, lit := .folded, extra := !(x.g && x.immF 0 12 == 0x017) }
  | 0x1E3 => some { lane := false, wr := false, dstUsed := false, a := ⟨.greg, .any64⟩, imm := 0xFFF, lit := .folded
                    extra := (sysTag (x.immF 0 12)).isSome }
  | 0x1E4 => some { lane := false, wr := false, dstUsed := false, a := ⟨.greg, .any64⟩ }
  | 0x1E5 => some { lane := false, fmts := [.n64], a := ⟨.greg, .any64⟩ }
  | 0x1E6 => some { lane := false, wr := false, dstUsed := false, trap := false, imm := 7, lit := .folded
                    extra := x.immF 0 3 ≤ 4 }
  | 0x1E7 => some { fmts := [.n64], trap := false, imm := 7, lit := .folded, extra := x.immF 0 3 ≤ 4 }
  | 0x1E8 => some { wr := false, dstUsed := false, mods := [0, 1, 2, 3], group := x.modN != 3
                    a := if x.modN == 2 then .src64 else if x.modN == 3 then ⟨.reg, .free⟩ else {}
                    imm := if x.modN ≤ 1 then 0x3FFFFF else 0x20003F, lit := .folded, trap := x.modN == 2 }
  -- debug (R444)
  | 0x1F0 => some { lane := false, wr := false, dstUsed := false, trap := false, imm := 0xFFFF, lit := .folded
                    extra := x.immF 0 16 != 0 }
  | 0x1F1 => some { lane := false, wr := false, dstUsed := false, mods := [0, 1], trap := false
                    imm := if x.modN == 1 then 0xFFFF else 0, lit := if x.modN == 1 then .folded else .none }
  | 0x1F2 => some { group := false, wr := false, dstUsed := false, trap := false }
  | 0x1F3 => some { fmts := [.n32], mods := [0, 1, 2], trap := false
                    imm := if x.modN == 2 then 0x3F else 0xF, lit := .folded
                    extra := x.modN != 2 || (x.immF 4 2 == 0 && x.immF 0 4 < 4)
                      || (x.immF 4 2 == 1 && x.immF 0 4 < 2) || (x.immF 4 2 == 2 && x.immF 0 4 < 4) }
  | 0x1F4 => some (if x.modN == 0 then
                    { fmts := [.n64], imm := 0x1F7, lit := .folded, trap := false
                      extra := x.immF 4 5 ≤ 4 || 16 ≤ x.immF 4 5 }
                  else { lane := false, wr := false, dstUsed := false, mods := [1, 2], imm := 7, lit := .folded
                         a := if x.modN == 1 then ⟨.greg, .exact .n32⟩ else {} })
  | _ => none

/-! ### The checks of R56 -/

/-- A value is all zeros or all copies of bit 31 above bit 31 (R45). -/
def upperHalfOk (v : Word) : Bool :=
  v.extractLsb' 32 32 == 0 || v.extractLsb' 32 32 == (if v.getLsbD 31 then BitVec.allOnes 32 else 0)

/-- A floating constant that a format can represent (R50). -/
def floatConstOk (c : Code) (t : Tag) : Bool :=
  match t with
  | .e4m3x4 => c.toNat ≠ 0x2AD && c.toNat ≠ 0x2AE
  | .e2m1x8 => c.toNat < 0x2AD
  | t => t.isFloat

/-- A constant is legal in a position (R50). -/
def constOk (c : Code) (r : Req) : Bool :=
  if c.isIntConst then r.isInt
  else if c.isFloatConst then (match r with | .exact t => floatConstOk c t | _ => false)
  else true

/-- The first failing check of one source position: `g` the side, `noG` as in `Form.noG`, `lit` the
literal when it stands in this position, `trap` whether the form's table allows a trap bit. -/
def Slot.check (s : Slot) (g noG trap tbit : Bool) (c : Code) (lit : Option Word) : Option DecodeErr :=
  match lit with
  | some v =>
    if c != 0 then some .literal
    else if tbit then some .trapBit
    else if !s.req.is64 && s.req != .free && !upperHalfOk v then some .literal
    else none
  | none =>
    let named := !(s.use == .no || ((s.use == .opt || s.use == .optReg) && c == 0))
    if !named then (if c != 0 then some .unusedField else if tbit then some .trapBit else none)
    else if tbit && !(trap && c.isReg) then some .trapBit
    else if !(c.isReg || c.isConst || c.isSpecial) then some .operandCode
    else if g && (c.isV || c.isLaneSpecial) then some .operandSide
    else if noG && !g && c.isG then some .operandSide
    else if c.isConst && !constOk c s.req then some .constant
    else match s.use with
      | .reg | .optReg => if c.isReg then none else some .operandCode
      | .vreg => if c.isV then none else some .operandSide
      | .greg => if c.isG then none else some .operandSide
      | .addr => if c.isReg || c.isIntConst || c == Code.argBase then none else some .constant
      | .gOrInt => if c.isG || c.isIntConst then none else some .operandCode
      | .uniform => if c.isV || c.isLaneSpecial then some .operandSide else none
      | .no | .src | .opt => none

/-- The literal of an instruction where it stands at position `p`. -/
def Ext.litAt (x : Ext) (f : Form) (p : LitPos) : Option Word := if f.lit == p then x.lit else none

/-- A literal in place of an immediate fits it (R45). -/
def Form.litOk (f : Form) (x : Ext) : Bool :=
  match x.lit with
  | none => true
  | some v =>
    match f.lit with
    | .none => false
    | .inA | .inB => true
    | .imm => x.imm == 0
    | .immFmt => x.imm == 0 && (x.fmt.is64 || upperHalfOk v)
    | .folded => x.imm.setWidth 64 == v

/-- The legality of DST (R46, R47). -/
def Form.dstCheck (f : Form) (x : Ext) : Option DecodeErr :=
  if !f.dstUsed then (if x.dst != 0 then some .unusedField else none)
  else if !x.dst.isReg then some .operandCode
  else if x.g then (if x.dst.isG then none else some .operandSide)
  else if x.dst.isV || f.gdst then none else some .operandSide

/-- The first condition of R56 that an extended form breaks, or none. -/
def Form.check (f : Form) (x : Ext) : Option DecodeErr :=
  if (if x.g then !f.group else !f.lane) then some .side
  else if f.wr != (x.cnt != 0) then some .count
  else if (!f.pred && x.pred != 0) || (x.pred == 0 && x.pneg) then some .predicate
  else if !f.rounds && x.rnd != .rne then some .rounding
  else if !f.fmts.contains x.fmt then some .format
  else if !f.mods.contains x.modN then some .classField
  else if x.imm &&& ~~~(BitVec.ofNat 22 f.imm) != 0 then some .classField
  else if !f.litOk x then some .literal
  else (f.dstCheck x).or <|
    (f.a.check x.g f.noG f.trap x.ta x.a (x.litAt f .inA)).or <|
    (f.b.check x.g f.noG f.trap x.tb x.b (x.litAt f .inB)).or <|
    (f.c.check x.g f.noG f.trap x.tc x.c none).or <|
    if f.extra then none else some .classField

/-- The first condition of R56 that an extended opcode with these fields breaks. -/
def extCheck (opc : Nat) (x : Ext) : Option DecodeErr :=
  match formOf opc x with
  | none => some .unassigned
  | some f => f.check x

/-! ### The base word (R39, R40, R41, R54) -/

/-- How a base form uses BSC as an immediate. -/
inductive BaseImm where
  | no | i5 | u5
  /-- `n · i5` as a byte offset. -/
  | off (n : Nat)
  deriving DecidableEq, Repr

/-- One row of the base opcode map. -/
structure BaseRow where
  opc : Nat
  fmt : Tag := .bits32
  mod : BitVec 2 := 0
  d   : Bool := true
  a   : Bool := true
  b   : Bool := false
  c   : Bool := false
  imm : BaseImm := .no
  deriving DecidableEq, Repr

/-- The base opcode map (R54). -/
def baseRow (bop : Nat) : BaseRow :=
  match bop with
  | 0x00 => { opc := 0x14A, d := false, a := false }
  | 0x01 => { opc := 0x000 }
  | 0x02 => { opc := 0x000, fmt := .bits64 }
  | 0x03 => { opc := 0x001, fmt := .s32, a := false, imm := .i5 }
  | 0x04 => { opc := 0x002, d := false }
  | 0x05 => { opc := 0x002, mod := 1, d := false, b := true }
  | 0x06 => { opc := 0x002, mod := 2, d := false, b := true, c := true }
  | 0x07 => { opc := 0x003, d := false }
  | 0x08 => { opc := 0x060, fmt := .s32, b := true }
  | 0x09 => { opc := 0x060, fmt := .s32, imm := .i5 }
  | 0x0A => { opc := 0x061, fmt := .s32, b := true }
  | 0x0B => { opc := 0x062, fmt := .s32, b := true }
  | 0x0C => { opc := 0x063, fmt := .s32, b := true }
  | 0x0D => { opc := 0x064, fmt := .s32, b := true, c := true }
  | 0x0E => { opc := 0x067, fmt := .s32 }
  | 0x0F => { opc := 0x068, fmt := .s32 }
  | 0x10 => { opc := 0x069, fmt := .s32, b := true }
  | 0x11 => { opc := 0x06A, fmt := .s32, b := true }
  | 0x12 => { opc := 0x069, fmt := .n32, b := true }
  | 0x13 => { opc := 0x06A, fmt := .n32, b := true }
  | 0x14 => { opc := 0x06B, b := true }
  | 0x15 => { opc := 0x06C, b := true }
  | 0x16 => { opc := 0x06D, b := true }
  | 0x17 => { opc := 0x06F, b := true }
  | 0x18 => { opc := 0x06E }
  | 0x19 => { opc := 0x070, b := true }
  | 0x1A => { opc := 0x070, imm := .u5 }
  | 0x1B => { opc := 0x071, b := true }
  | 0x1C => { opc := 0x071, imm := .u5 }
  | 0x1D => { opc := 0x072, fmt := .s32, b := true }
  | 0x1E => { opc := 0x072, fmt := .s32, imm := .u5 }
  | 0x1F => { opc := 0x074 }
  | 0x20 => { opc := 0x075 }
  | 0x21 => { opc := 0x060, fmt := .s64, b := true }
  | 0x22 => { opc := 0x060, fmt := .s64, imm := .i5 }
  | 0x23 => { opc := 0x061, fmt := .s64, b := true }
  | 0x24 => { opc := 0x062, fmt := .s64, b := true }
  | 0x25 => { opc := 0x070, fmt := .bits64, imm := .u5 }
  | 0x26 => { opc := 0x071, fmt := .bits64, imm := .u5 }
  | 0x27 => { opc := 0x0C0, fmt := .f32, b := true }
  | 0x28 => { opc := 0x0C1, fmt := .f32, b := true }
  | 0x29 => { opc := 0x0C2, fmt := .f32, b := true }
  | 0x2A => { opc := 0x0C3, fmt := .f32, b := true, c := true }
  | 0x2B => { opc := 0x0C4, fmt := .f32, b := true }
  | 0x2C => { opc := 0x0C5, fmt := .f32, b := true }
  | 0x2D => { opc := 0x0CB, fmt := .f32 }
  | 0x2E => { opc := 0x0CA, fmt := .f32 }
  | 0x2F => { opc := 0x0C9, fmt := .f32 }
  | 0x30 => { opc := 0x0CC, fmt := .f32 }
  | 0x31 => { opc := 0x0CD, fmt := .f32 }
  | 0x32 => { opc := 0x0C0, fmt := .f64, b := true }
  | 0x33 => { opc := 0x0C2, fmt := .f64, b := true }
  | 0x34 => { opc := 0x0C3, fmt := .f64, b := true, c := true }
  | 0x35 => { opc := 0x0D0, fmt := .bf16x2, b := true, c := true }
  | 0x36 => { opc := 0x160, imm := .off 4 }
  | 0x37 => { opc := 0x160, fmt := .bits64, imm := .off 8 }
  | 0x38 => { opc := 0x161, d := false, b := true, imm := .off 4 }
  | 0x39 => { opc := 0x161, fmt := .bits64, d := false, b := true, imm := .off 8 }
  | 0x3A => { opc := 0x144, d := false, a := false }
  | 0x3B => { opc := 0x146, d := false, a := false }
  | 0x3C => { opc := 0x147, d := false, a := false }
  | 0x3D => { opc := 0x148, d := false, a := false }
  | 0x3E => { opc := 0x180, d := false, a := false }
  | _ => { opc := 0x180, mod := 1, d := false, a := false }

/-- The code of a 5-bit register field: v0 to v31, or g0 to g31 (R40). -/
def baseCode (g : Bool) (f : BitVec 5) : Code := if g then 0x100 + f.setWidth 10 else f.setWidth 10

/-- The field is zero: the form does not use it, or a literal stands in its place. -/
def BaseRow.litInB (r : BaseRow) : Bool := r.b
def BaseRow.litInA (r : BaseRow) : Bool := r.opc == 0x000

/-- The unused fields of a base word are zero (R41), and so is the field whose place a literal takes. -/
def BaseRow.fieldsOk (r : BaseRow) (w : BaseWord) : Bool :=
  (r.d || w.d == 0) && ((r.a && !(w.lit.isSome && r.litInA)) || w.a == 0)
    && ((r.b && !w.lit.isSome) || w.b == 0)
    && (if r.c then true else if r.imm == .no then w.c == 0
        else if w.lit.isSome && !r.litInB then w.c == 0 else true)

/-- A base word carries a literal only where R45 gives it a place. -/
def BaseRow.litOk (r : BaseRow) (w : BaseWord) : Bool :=
  w.lit.isNone || r.b || r.litInA || r.imm != .no

/-- The extended form to which a base word is equal (R40, R54). An immediate of an arithmetic or shift
form stands in source B as a literal of the value that i5 or u5 gives. -/
def BaseWord.toExt (w : BaseWord) (bop : Nat) : Ext :=
  let r := baseRow bop
  let base : Ext :=
    { g := w.g, cnt := if w.cnt == 7 then 15 else w.cnt.setWidth 4, pred := 0, pneg := false
      fmt := r.fmt, rnd := .rne, mod := r.mod, ta := false, tb := false, tc := false
      dst := if r.d then baseCode w.g w.d else 0
      a := if r.a && !(r.litInA && w.lit.isSome) then baseCode w.g w.a else 0
      b := if r.b && w.lit.isNone then baseCode w.g w.b else 0
      c := if r.c then baseCode w.g w.c else 0
      imm := 0, lit := w.lit }
  match r.imm with
  | .no => base
  | .i5 =>
    if w.lit.isSome then base
    else if r.opc == 0x001 then { base with imm := w.c.signExtend 22 }
    else { base with lit := some (w.c.signExtend 64) }
  | .u5 => if w.lit.isSome then base else { base with lit := some (w.c.setWidth 64) }
  | .off n =>
    if w.lit.isSome && !r.b then base
    else { base with imm := (w.c.signExtend 22) * BitVec.ofNat 22 n }

/-- The first condition of R56 that a base word breaks. -/
def baseCheck (bop : Nat) (w : BaseWord) : Option DecodeErr :=
  let r := baseRow bop
  if !r.fieldsOk w then some .unusedField
  else if !r.litOk w then some .literal
  else extCheck r.opc (w.toExt bop)

/-! ### Words and fields -/

/-- Word 0 of a base form below L (R39). -/
def BaseWord.pack (bop : BitVec 6) (w : BaseWord) : W32 :=
  (if w.lit.isSome then (2 : BitVec 2) else 0) ++ (BitVec.ofBool w.g) ++ bop ++ w.cnt ++ w.d ++ w.a ++ w.b ++ w.c

/-- Word 0 of an extended form (R42). -/
def Ext.pack0 (opc : BitVec 9) (x : Ext) : W32 :=
  (if x.lit.isSome then (3 : BitVec 2) else 1) ++ (BitVec.ofBool x.g) ++ opc ++ x.cnt ++ x.pred
    ++ (BitVec.ofBool x.pneg) ++ x.fmt.code ++ x.rnd.code ++ x.mod ++ (BitVec.ofBool x.ta)
    ++ (BitVec.ofBool x.tb) ++ (BitVec.ofBool x.tc)

/-- Words 1 and 2 of an extended form (R43). -/
def Ext.pack1 (x : Ext) : W32 := x.dst ++ x.a ++ x.b ++ (0 : BitVec 2)
def Ext.pack2 (c : Code) (imm : BitVec 22) : W32 := c ++ imm

/-- The two words of a literal, the low one first (R45). -/
def litWords : Option Word → List W32
  | none => []
  | some v => [v.setWidth 32, v.extractLsb' 32 32]

/-- The literal of two words. -/
def litOf (lo hi : W32) : Word := hi ++ lo

/-- The fields of a base word. -/
def BaseWord.unpack (w : W32) (lit : Option Word) : BaseWord :=
  { g := w.getLsbD 29, cnt := w.extractLsb' 20 3, d := w.extractLsb' 15 5, a := w.extractLsb' 10 5
    b := w.extractLsb' 5 5, c := w.extractLsb' 0 5, lit := lit }

/-- The fields of an extended form, when RND names a mode and word 1 ends in zeros. -/
def Ext.unpack (w0 w1 w2 : W32) (lit : Option Word) : Except DecodeErr Ext :=
  if w1.extractLsb' 0 2 != 0 then .error .unusedField
  else match Rnd.ofCode (w0.extractLsb' 5 3) with
    | none => .error .rounding
    | some r =>
      .ok { g := w0.getLsbD 29, cnt := w0.extractLsb' 16 4, pred := w0.extractLsb' 13 3
            pneg := w0.getLsbD 12, fmt := Tag.ofCode (w0.extractLsb' 8 4), rnd := r
            mod := w0.extractLsb' 3 2, ta := w0.getLsbD 2, tb := w0.getLsbD 1, tc := w0.getLsbD 0
            dst := w1.extractLsb' 22 10, a := w1.extractLsb' 12 10, b := w1.extractLsb' 2 10
            c := w2.extractLsb' 22 10, imm := w2.extractLsb' 0 22, lit := lit }

/-- IMM22 is what a literal stands for in this form (R45). -/
def Ext.folds (opc : Nat) (x : Ext) : Bool := match formOf opc x with
  | some f => f.lit == .folded
  | none => false

/-- The fields with a literal that stands in place of IMM22 laid into `imm`; IMM22 itself must be zero (R45). -/
def Ext.fold (opc : Nat) (x : Ext) : Except DecodeErr Ext :=
  match x.lit with
  | none => .ok x
  | some v =>
    if !x.folds opc then .ok x
    else if x.imm != 0 || 2 ^ 22 ≤ v.toNat then .error .literal
    else .ok { x with imm := v.setWidth 22 }

/-- IMM22 as it stands in the words: zero where a literal takes its place (R45). -/
def Ext.immWord (opc : Nat) (x : Ext) : BitVec 22 := if x.lit.isSome && x.folds opc then 0 else x.imm

/-- The length in words that L gives (R34). -/
def wordLen (w : W32) : Nat :=
  match (w.extractLsb' 30 2).toNat with
  | 0 => 1 | 1 => 3 | 2 => 3 | _ => 5

/-! ### Opcodes and constructors -/

/-- The instruction of a base opcode (R54). -/
def Instr.ofBop (bop : BitVec 6) (w : BaseWord) : Instr :=
  match bop.toNat with
  | 0 => .nopBase w
  | 1 => .movB32Base w
  | 2 => .movB64Base w
  | 3 => .moviS32Base w
  | 4 => .drop1Base w
  | 5 => .drop2Base w
  | 6 => .drop3Base w
  | 7 => .exhaustBase w
  | 8 => .addS32Base w
  | 9 => .addS32ImmBase w
  | 10 => .subS32Base w
  | 11 => .mulS32Base w
  | 12 => .mulhiS32Base w
  | 13 => .madS32Base w
  | 14 => .negS32Base w
  | 15 => .absS32Base w
  | 16 => .minS32Base w
  | 17 => .maxS32Base w
  | 18 => .minN32Base w
  | 19 => .maxN32Base w
  | 20 => .andB32Base w
  | 21 => .orB32Base w
  | 22 => .xorB32Base w
  | 23 => .andnB32Base w
  | 24 => .notB32Base w
  | 25 => .shlB32Base w
  | 26 => .shlB32ImmBase w
  | 27 => .shrB32Base w
  | 28 => .shrB32ImmBase w
  | 29 => .sarS32Base w
  | 30 => .sarS32ImmBase w
  | 31 => .popcB32Base w
  | 32 => .clzB32Base w
  | 33 => .addS64Base w
  | 34 => .addS64ImmBase w
  | 35 => .subS64Base w
  | 36 => .mulS64Base w
  | 37 => .shlB64ImmBase w
  | 38 => .shrB64ImmBase w
  | 39 => .faddF32Base w
  | 40 => .fsubF32Base w
  | 41 => .fmulF32Base w
  | 42 => .fmaF32Base w
  | 43 => .fminF32Base w
  | 44 => .fmaxF32Base w
  | 45 => .frcpF32Base w
  | 46 => .frsqrtF32Base w
  | 47 => .fsqrtF32Base w
  | 48 => .fexp2F32Base w
  | 49 => .flog2F32Base w
  | 50 => .faddF64Base w
  | 51 => .fmulF64Base w
  | 52 => .fmaF64Base w
  | 53 => .fdot2Bf16Base w
  | 54 => .ldB32Base w
  | 55 => .ldB64Base w
  | 56 => .stB32Base w
  | 57 => .stB64Base w
  | 58 => .retBase w
  | 59 => .joinBase w
  | 60 => .exitBase w
  | 61 => .yieldBase w
  | 62 => .fenceAcqBase w
  | _ => .fenceRelBase w

/-- The instruction of an extended opcode; none where R55 leaves it unassigned. -/
def Instr.ofOpc (opc : BitVec 9) (x : Ext) : Option Instr :=
  match opc.toNat with
  | 0x000 => some (.mov x)
  | 0x001 => some (.movi x)
  | 0x002 => some (.drop x)
  | 0x003 => some (.exhaust x)
  | 0x004 => some (.hold x)
  | 0x005 => some (.recount x)
  | 0x006 => some (.rebind x)
  | 0x007 => some (.nstat x)
  | 0x008 => some (.sel x)
  | 0x009 => some (.retag x)
  | 0x00A => some (.reserve x)
  | 0x030 => some (.cvt x)
  | 0x031 => some (.cvtfi x)
  | 0x032 => some (.cvtif x)
  | 0x033 => some (.pack2 x)
  | 0x034 => some (.unpack x)
  | 0x035 => some (.bscale x)
  | 0x036 => some (.quant x)
  | 0x037 => some (.dequant x)
  | 0x038 => some (.pbdec x)
  | 0x039 => some (.pbenc x)
  | 0x03A => some (.pbload x)
  | 0x060 => some (.add x)
  | 0x061 => some (.sub x)
  | 0x062 => some (.mul x)
  | 0x063 => some (.mulhi x)
  | 0x064 => some (.mad x)
  | 0x065 => some (.div x)
  | 0x066 => some (.rem x)
  | 0x067 => some (.neg x)
  | 0x068 => some (.abs x)
  | 0x069 => some (.minI x)
  | 0x06A => some (.maxI x)
  | 0x06B => some (.andB x)
  | 0x06C => some (.orB x)
  | 0x06D => some (.xorB x)
  | 0x06E => some (.notB x)
  | 0x06F => some (.andn x)
  | 0x070 => some (.shl x)
  | 0x071 => some (.shr x)
  | 0x072 => some (.sar x)
  | 0x073 => some (.rotl x)
  | 0x074 => some (.popc x)
  | 0x075 => some (.clz x)
  | 0x076 => some (.ctz x)
  | 0x077 => some (.brev x)
  | 0x078 => some (.bfx x)
  | 0x079 => some (.bfi x)
  | 0x07A => some (.cmp x)
  | 0x07B => some (.lea x)
  | 0x07C => some (.dot4 x)
  | 0x0C0 => some (.fadd x)
  | 0x0C1 => some (.fsub x)
  | 0x0C2 => some (.fmul x)
  | 0x0C3 => some (.fma x)
  | 0x0C4 => some (.fmin x)
  | 0x0C5 => some (.fmax x)
  | 0x0C6 => some (.fcmp x)
  | 0x0C7 => some (.fclass x)
  | 0x0C8 => some (.fdiv x)
  | 0x0C9 => some (.fsqrt x)
  | 0x0CA => some (.frsqrt x)
  | 0x0CB => some (.frcp x)
  | 0x0CC => some (.fexp2 x)
  | 0x0CD => some (.flog2 x)
  | 0x0CE => some (.frnd x)
  | 0x0CF => some (.fscale x)
  | 0x0D0 => some (.fdot2 x)
  | 0x120 => some (.shfl x)
  | 0x121 => some (.lbcast x)
  | 0x122 => some (.vote x)
  | 0x123 => some (.elect x)
  | 0x124 => some (.scan x)
  | 0x125 => some (.lred x)
  | 0x126 => some (.kop x)
  | 0x140 => some (.bra x)
  | 0x141 => some (.brx x)
  | 0x142 => some (.call x)
  | 0x143 => some (.callx x)
  | 0x144 => some (.ret x)
  | 0x145 => some (.fork x)
  | 0x146 => some (.join x)
  | 0x147 => some (.exit x)
  | 0x148 => some (.yield x)
  | 0x149 => some (.loop x)
  | 0x14A => some (.nop x)
  | 0x14B => some (.brk x)
  | 0x160 => some (.ld x)
  | 0x161 => some (.st x)
  | 0x162 => some (.ldm x)
  | 0x163 => some (.stm x)
  | 0x164 => some (.pf x)
  | 0x165 => some (.cinv x)
  | 0x166 => some (.cwb x)
  | 0x167 => some (.aq x)
  | 0x180 => some (.fence x)
  | 0x181 => some (.fenceSc x)
  | 0x182 => some (.tick x)
  | 0x183 => some (.isync x)
  | 0x190 => some (.atom x)
  | 0x191 => some (.cas x)
  | 0x192 => some (.red x)
  | 0x193 => some (.txbegin x)
  | 0x194 => some (.txend x)
  | 0x195 => some (.txabort x)
  | 0x196 => some (.txstat x)
  | 0x1B0 => some (.tcopy x)
  | 0x1B1 => some (.tmcast x)
  | 0x1B2 => some (.kick x)
  | 0x1B3 => some (.barinit x)
  | 0x1B4 => some (.arrive x)
  | 0x1B5 => some (.expect x)
  | 0x1B6 => some (.waitB x)
  | 0x1B7 => some (.bartest x)
  | 0x1C0 => some (.claim x)
  | 0x1C1 => some (.release x)
  | 0x1C2 => some (.mload x)
  | 0x1C3 => some (.mma x)
  | 0x1C4 => some (.mmac x)
  | 0x1C5 => some (.accrd x)
  | 0x1C6 => some (.accwr x)
  | 0x1C7 => some (.acczero x)
  | 0x1C8 => some (.accst x)
  | 0x1D0 => some (.relocate x)
  | 0x1D1 => some (.unpick x)
  | 0x1D2 => some (.tackq x)
  | 0x1D3 => some (.pin x)
  | 0x1D4 => some (.unpin x)
  | 0x1D8 => some (.coll x)
  | 0x1D9 => some (.linkq x)
  | 0x1DA => some (.treeq x)
  | 0x1DB => some (.collq x)
  | 0x1E0 => some (.svc x)
  | 0x1E1 => some (.trapret x)
  | 0x1E2 => some (.getsp x)
  | 0x1E3 => some (.setsp x)
  | 0x1E4 => some (.ctxsave x)
  | 0x1E5 => some (.ctxload x)
  | 0x1E6 => some (.cancel x)
  | 0x1E7 => some (.hcnt x)
  | 0x1E8 => some (.errinj x)
  | 0x1F0 => some (.enter x)
  | 0x1F1 => some (.leave x)
  | 0x1F2 => some (.pmret x)
  | 0x1F3 => some (.stallrd x)
  | 0x1F4 => some (.dens x)
  | _ => none

/-- What an instruction is made of: an opcode with its fields, or an event, which has no encoding. -/
inductive Instr.Shape where
  | base (bop : BitVec 6) (w : BaseWord)
  | ext (opc : BitVec 9) (x : Ext)
  | event
  deriving DecidableEq, Repr

/-- The opcode and the fields of an instruction. -/
def Instr.shape : Instr → Instr.Shape
  | .nopBase w => .base 0x00 w
  | .movB32Base w => .base 0x01 w
  | .movB64Base w => .base 0x02 w
  | .moviS32Base w => .base 0x03 w
  | .drop1Base w => .base 0x04 w
  | .drop2Base w => .base 0x05 w
  | .drop3Base w => .base 0x06 w
  | .exhaustBase w => .base 0x07 w
  | .addS32Base w => .base 0x08 w
  | .addS32ImmBase w => .base 0x09 w
  | .subS32Base w => .base 0x0A w
  | .mulS32Base w => .base 0x0B w
  | .mulhiS32Base w => .base 0x0C w
  | .madS32Base w => .base 0x0D w
  | .negS32Base w => .base 0x0E w
  | .absS32Base w => .base 0x0F w
  | .minS32Base w => .base 0x10 w
  | .maxS32Base w => .base 0x11 w
  | .minN32Base w => .base 0x12 w
  | .maxN32Base w => .base 0x13 w
  | .andB32Base w => .base 0x14 w
  | .orB32Base w => .base 0x15 w
  | .xorB32Base w => .base 0x16 w
  | .andnB32Base w => .base 0x17 w
  | .notB32Base w => .base 0x18 w
  | .shlB32Base w => .base 0x19 w
  | .shlB32ImmBase w => .base 0x1A w
  | .shrB32Base w => .base 0x1B w
  | .shrB32ImmBase w => .base 0x1C w
  | .sarS32Base w => .base 0x1D w
  | .sarS32ImmBase w => .base 0x1E w
  | .popcB32Base w => .base 0x1F w
  | .clzB32Base w => .base 0x20 w
  | .addS64Base w => .base 0x21 w
  | .addS64ImmBase w => .base 0x22 w
  | .subS64Base w => .base 0x23 w
  | .mulS64Base w => .base 0x24 w
  | .shlB64ImmBase w => .base 0x25 w
  | .shrB64ImmBase w => .base 0x26 w
  | .faddF32Base w => .base 0x27 w
  | .fsubF32Base w => .base 0x28 w
  | .fmulF32Base w => .base 0x29 w
  | .fmaF32Base w => .base 0x2A w
  | .fminF32Base w => .base 0x2B w
  | .fmaxF32Base w => .base 0x2C w
  | .frcpF32Base w => .base 0x2D w
  | .frsqrtF32Base w => .base 0x2E w
  | .fsqrtF32Base w => .base 0x2F w
  | .fexp2F32Base w => .base 0x30 w
  | .flog2F32Base w => .base 0x31 w
  | .faddF64Base w => .base 0x32 w
  | .fmulF64Base w => .base 0x33 w
  | .fmaF64Base w => .base 0x34 w
  | .fdot2Bf16Base w => .base 0x35 w
  | .ldB32Base w => .base 0x36 w
  | .ldB64Base w => .base 0x37 w
  | .stB32Base w => .base 0x38 w
  | .stB64Base w => .base 0x39 w
  | .retBase w => .base 0x3A w
  | .joinBase w => .base 0x3B w
  | .exitBase w => .base 0x3C w
  | .yieldBase w => .base 0x3D w
  | .fenceAcqBase w => .base 0x3E w
  | .fenceRelBase w => .base 0x3F w
  | .mov x => .ext 0x000 x
  | .movi x => .ext 0x001 x
  | .drop x => .ext 0x002 x
  | .exhaust x => .ext 0x003 x
  | .hold x => .ext 0x004 x
  | .recount x => .ext 0x005 x
  | .rebind x => .ext 0x006 x
  | .nstat x => .ext 0x007 x
  | .sel x => .ext 0x008 x
  | .retag x => .ext 0x009 x
  | .reserve x => .ext 0x00A x
  | .cvt x => .ext 0x030 x
  | .cvtfi x => .ext 0x031 x
  | .cvtif x => .ext 0x032 x
  | .pack2 x => .ext 0x033 x
  | .unpack x => .ext 0x034 x
  | .bscale x => .ext 0x035 x
  | .quant x => .ext 0x036 x
  | .dequant x => .ext 0x037 x
  | .pbdec x => .ext 0x038 x
  | .pbenc x => .ext 0x039 x
  | .pbload x => .ext 0x03A x
  | .add x => .ext 0x060 x
  | .sub x => .ext 0x061 x
  | .mul x => .ext 0x062 x
  | .mulhi x => .ext 0x063 x
  | .mad x => .ext 0x064 x
  | .div x => .ext 0x065 x
  | .rem x => .ext 0x066 x
  | .neg x => .ext 0x067 x
  | .abs x => .ext 0x068 x
  | .minI x => .ext 0x069 x
  | .maxI x => .ext 0x06A x
  | .andB x => .ext 0x06B x
  | .orB x => .ext 0x06C x
  | .xorB x => .ext 0x06D x
  | .notB x => .ext 0x06E x
  | .andn x => .ext 0x06F x
  | .shl x => .ext 0x070 x
  | .shr x => .ext 0x071 x
  | .sar x => .ext 0x072 x
  | .rotl x => .ext 0x073 x
  | .popc x => .ext 0x074 x
  | .clz x => .ext 0x075 x
  | .ctz x => .ext 0x076 x
  | .brev x => .ext 0x077 x
  | .bfx x => .ext 0x078 x
  | .bfi x => .ext 0x079 x
  | .cmp x => .ext 0x07A x
  | .lea x => .ext 0x07B x
  | .dot4 x => .ext 0x07C x
  | .fadd x => .ext 0x0C0 x
  | .fsub x => .ext 0x0C1 x
  | .fmul x => .ext 0x0C2 x
  | .fma x => .ext 0x0C3 x
  | .fmin x => .ext 0x0C4 x
  | .fmax x => .ext 0x0C5 x
  | .fcmp x => .ext 0x0C6 x
  | .fclass x => .ext 0x0C7 x
  | .fdiv x => .ext 0x0C8 x
  | .fsqrt x => .ext 0x0C9 x
  | .frsqrt x => .ext 0x0CA x
  | .frcp x => .ext 0x0CB x
  | .fexp2 x => .ext 0x0CC x
  | .flog2 x => .ext 0x0CD x
  | .frnd x => .ext 0x0CE x
  | .fscale x => .ext 0x0CF x
  | .fdot2 x => .ext 0x0D0 x
  | .shfl x => .ext 0x120 x
  | .lbcast x => .ext 0x121 x
  | .vote x => .ext 0x122 x
  | .elect x => .ext 0x123 x
  | .scan x => .ext 0x124 x
  | .lred x => .ext 0x125 x
  | .kop x => .ext 0x126 x
  | .bra x => .ext 0x140 x
  | .brx x => .ext 0x141 x
  | .call x => .ext 0x142 x
  | .callx x => .ext 0x143 x
  | .ret x => .ext 0x144 x
  | .fork x => .ext 0x145 x
  | .join x => .ext 0x146 x
  | .exit x => .ext 0x147 x
  | .yield x => .ext 0x148 x
  | .loop x => .ext 0x149 x
  | .nop x => .ext 0x14A x
  | .brk x => .ext 0x14B x
  | .ld x => .ext 0x160 x
  | .st x => .ext 0x161 x
  | .ldm x => .ext 0x162 x
  | .stm x => .ext 0x163 x
  | .pf x => .ext 0x164 x
  | .cinv x => .ext 0x165 x
  | .cwb x => .ext 0x166 x
  | .aq x => .ext 0x167 x
  | .fence x => .ext 0x180 x
  | .fenceSc x => .ext 0x181 x
  | .tick x => .ext 0x182 x
  | .isync x => .ext 0x183 x
  | .atom x => .ext 0x190 x
  | .cas x => .ext 0x191 x
  | .red x => .ext 0x192 x
  | .txbegin x => .ext 0x193 x
  | .txend x => .ext 0x194 x
  | .txabort x => .ext 0x195 x
  | .txstat x => .ext 0x196 x
  | .tcopy x => .ext 0x1B0 x
  | .tmcast x => .ext 0x1B1 x
  | .kick x => .ext 0x1B2 x
  | .barinit x => .ext 0x1B3 x
  | .arrive x => .ext 0x1B4 x
  | .expect x => .ext 0x1B5 x
  | .waitB x => .ext 0x1B6 x
  | .bartest x => .ext 0x1B7 x
  | .claim x => .ext 0x1C0 x
  | .release x => .ext 0x1C1 x
  | .mload x => .ext 0x1C2 x
  | .mma x => .ext 0x1C3 x
  | .mmac x => .ext 0x1C4 x
  | .accrd x => .ext 0x1C5 x
  | .accwr x => .ext 0x1C6 x
  | .acczero x => .ext 0x1C7 x
  | .accst x => .ext 0x1C8 x
  | .relocate x => .ext 0x1D0 x
  | .unpick x => .ext 0x1D1 x
  | .tackq x => .ext 0x1D2 x
  | .pin x => .ext 0x1D3 x
  | .unpin x => .ext 0x1D4 x
  | .coll x => .ext 0x1D8 x
  | .linkq x => .ext 0x1D9 x
  | .treeq x => .ext 0x1DA x
  | .collq x => .ext 0x1DB x
  | .svc x => .ext 0x1E0 x
  | .trapret x => .ext 0x1E1 x
  | .getsp x => .ext 0x1E2 x
  | .setsp x => .ext 0x1E3 x
  | .ctxsave x => .ext 0x1E4 x
  | .ctxload x => .ext 0x1E5 x
  | .cancel x => .ext 0x1E6 x
  | .hcnt x => .ext 0x1E7 x
  | .errinj x => .ext 0x1E8 x
  | .enter x => .ext 0x1F0 x
  | .leave x => .ext 0x1F1 x
  | .pmret x => .ext 0x1F2 x
  | .stallrd x => .ext 0x1F3 x
  | .dens x => .ext 0x1F4 x
  | .heartbeatTick => .event
  | .valueDelivery _ => .event
  | .allocationGrant _ _ => .event
  | .windOut _ _ => .event
  | .windIn _ _ => .event
  | .windInProtectionEnd _ _ => .event
  | .oldestBoltSlot _ _ => .event
  | .yieldTimeout _ _ _ => .event
  | .pageWalkComplete _ _ _ => .event
  | .deferredFaultDelivery _ _ _ => .event
  | .faultReplay _ _ _ => .event
  | .faultSkip _ _ _ => .event
  | .faultDeliver _ _ _ => .event
  | .faultEnd _ _ _ => .event
  | .svcResult _ _ => .event
  | .trInvVpn _ _ => .event
  | .trInvTenancy _ => .event
  | .trInvAll => .event
  | .trInvComplete => .event
  | .accessEvent _ => .event
  | .ubBoundaryWrite _ _ _ => .event
  | .cqQueueWrite _ _ _ => .event
  | .storePerformed _ => .event
  | .writebackAck _ => .event
  | .txCommit _ _ _ => .event
  | .irrevocabilityTokenGrant => .event
  | .copyStart _ _ => .event
  | .copyChunkLand _ => .event
  | .copyCutOff _ _ _ => .event
  | .copyResume _ _ => .event
  | .multicastCommandArrival _ _ _ => .event
  | .requestEnd _ => .event
  | .requestLd _ => .event
  | .requestSt _ => .event
  | .requestLin _ => .event
  | .requestArrive _ => .event
  | .requestContinue _ => .event
  | .remoteArrival => .event
  | .matrixOpStart _ => .event
  | .matrixKStep _ => .event
  | .accstRow _ => .event
  | .matrixRetire _ => .event
  | .matrixCutOff _ => .event
  | .moveStart _ => .event
  | .moveLineCopy _ => .event
  | .moveShootdownComplete _ => .event
  | .moveCutOff _ _ => .event
  | .moveResume _ => .event
  | .unpickSweepWord _ => .event
  | .collStart _ => .event
  | .linkTrainingLoss _ => .event
  | .flitCrcError _ => .event
  | .linkAckTimeout _ => .event
  | .linkDownNotice _ => .event
  | .linkTableReceived _ _ => .event
  | .settleExpiry => .event
  | .exchangeUp _ _ _ _ => .event
  | .exchangeDown _ _ _ => .event
  | .partialReceived _ _ _ _ => .event
  | .resultReceived _ _ _ => .event
  | .doneToken _ _ => .event
  | .completeMessage _ => .event
  | .abortFlood _ => .event
  | .clDomEnable _ => .event
  | .clLinkWrite _ _ => .event
  | .peGo _ _ => .event
  | .saveWrite _ => .event
  | .lqProdWrite _ _ _ => .event
  | .launchRecordConsume _ _ => .event
  | .panelGroupAdmit _ _ => .event
  | .panelComplete _ _ => .event
  | .patternStoreRegenDone _ => .event
  | .tenancyReset _ => .event
  | .tenancyResetComplete _ => .event
  | .coldStart _ => .event
  | .warmStart _ _ => .event
  | .warmStartRequest => .event
  | .startFailureTimeout => .event
  | .hostWindowRead _ _ => .event
  | .hostWindowWrite _ _ => .event
  | .getVersion => .event
  | .getCapabilities => .event
  | .negotiateAlgorithms => .event
  | .getDigests => .event
  | .getCertificate _ => .event
  | .challenge _ _ => .event
  | .getMeasurements _ => .event
  | .keyExchange _ => .event
  | .finish => .event
  | .endSession => .event
  | .powerCapStep _ => .event
  | .thermalTrip => .event
  | .l2Scrub _ => .event
  | .dbCoreStop _ _ => .event
  | .dbCoreResume _ _ => .event
  | .dbCoreStep _ _ _ => .event
  | .dbClStop _ _ => .event
  | .dbClResume _ _ => .event
  | .stopCountExpiry _ _ => .event
  | .stopIdleExpiry _ _ => .event
  | .probePointStop _ _ _ => .event
  | .probePointHandler _ _ _ => .event
  | .densConfigWrite _ _ _ _ => .event
  | .registerWrite _ _ => .event
  | .linkTrained _ => .event
  | .collChunkResume _ => .event
  | .accstResume _ => .event
  | .unpickResume _ => .event
  | .savePageResume _ => .event
  | .stallClock _ _ => .event
  | .engineStallClock _ => .event
  | .densitometerSample _ _ => .event
  | .graphCreate _ _ _ => .event
  | .graphSeal _ _ => .event
  | .storageBitError _ _ => .event
  | .coreFenceOff _ => .event
  | .nativeFormInstall _ _ _ => .event
  | .nativeFormWithdraw _ _ _ => .event
  | .instructionFetchFill _ _ _ => .event
  | .cinvAllComplete _ _ _ => .event

/-! ### Decoding and encoding -/

/-- The checks of R56 on an instruction. -/
def Instr.check (i : Instr) : Option DecodeErr :=
  match i.shape with
  | .base bop w => baseCheck bop.toNat w
  | .ext opc x => extCheck opc.toNat x
  | .event => some .unassigned

/-- The literal that stands in the given words. -/
def takeLit (has : Bool) : List W32 → Except DecodeErr (Option Word × List W32)
  | lo :: hi :: rest => if has then .ok (some (litOf lo hi), rest) else .ok (none, lo :: hi :: rest)
  | ws => if has then .error .truncated else .ok (none, ws)

/-- Accepts an instruction that breaks no condition of R56. -/
def Instr.accept (i : Instr) (rest : List W32) : Except DecodeErr (Instr × List W32) :=
  match i.check with
  | some e => .error e
  | none => .ok (i, rest)

/-- The instruction at the head of a stream of words, and the words after it (R34 to R57). -/
def decodeWords : List W32 → Except DecodeErr (Instr × List W32)
  | [] => .error .truncated
  | w0 :: ws =>
    let hasLit := w0.getLsbD 31
    if w0.getLsbD 30 then
      match ws with
      | w1 :: w2 :: ws =>
        match takeLit hasLit ws with
        | .error e => .error e
        | .ok (lit, rest) =>
          match (Ext.unpack w0 w1 w2 lit).bind (Ext.fold (w0.extractLsb' 20 9).toNat) with
          | .error e => .error e
          | .ok x =>
            match Instr.ofOpc (w0.extractLsb' 20 9) x with
            | none => .error .unassigned
            | some i => i.accept rest
      | _ => .error .truncated
    else
      match takeLit hasLit ws with
      | .error e => .error e
      | .ok (lit, rest) => (Instr.ofBop (w0.extractLsb' 23 6) (BaseWord.unpack w0 lit)).accept rest

/-- A little-endian word (R2). -/
def wordOfBytes (b0 b1 b2 b3 : Byte) : W32 := b3 ++ b2 ++ b1 ++ b0

/-- The four bytes of a word, the lowest-addressed first (R2). -/
def bytesOfWord (w : W32) : List Byte :=
  [w.extractLsb' 0 8, w.extractLsb' 8 8, w.extractLsb' 16 8, w.extractLsb' 24 8]

/-- The words of a stream of bytes; bytes that do not fill a word are left out. -/
def wordsOfBytes : List Byte → List W32
  | b0 :: b1 :: b2 :: b3 :: rest => wordOfBytes b0 b1 b2 b3 :: wordsOfBytes rest
  | _ => []

/-- The instruction at the head of a stream of bytes. -/
def decodeBytes (bs : List Byte) : Except DecodeErr Instr :=
  match decodeWords (wordsOfBytes bs) with
  | .ok (i, _) => .ok i
  | .error e => .error e

/-- The words of an instruction (R34, R39, R42, R43, R45); an event has none. -/
def encode (i : Instr) : List W32 :=
  match i.shape with
  | .base bop w => w.pack bop :: litWords w.lit
  | .ext opc x => x.pack0 opc :: x.pack1 :: Ext.pack2 x.c (x.immWord opc.toNat) :: litWords x.lit
  | .event => []

/-- The five words of an instruction whose bits are numbered as the opcode table numbers them; the bits
from `nbits` on are zero. -/
def tableWords (nbits w : Nat) : List W32 :=
  let v := w % 2 ^ nbits
  [BitVec.ofNat 32 v, BitVec.ofNat 32 (v >>> 32), BitVec.ofNat 32 (v >>> 64), BitVec.ofNat 32 (v >>> 96),
   BitVec.ofNat 32 (v >>> 128)]

/-- The bytes of those words, as the hardware stores them (R2, R35). -/
def tableBytes (nbits w : Nat) : List Byte := (tableWords nbits w).flatMap bytesOfWord

/-- The instruction that the decoder reads from a table word. -/
def decodeTableWord (nbits w : Nat) : Option Instr :=
  match decodeBytes (tableBytes nbits w) with
  | .ok i => some i
  | .error _ => none

end Sys2Proof
end

