-- ==== Sys2Proof/Machine/Fp.lean ====
section
/-! DEFINITION. The number formats and the rounding that every floating instruction shares (R92 to R104),
and the exact arithmetic behind the conversion and floating forms (R107 to R115, R129 to R133, R140).
A finite number is held exactly, as a sign and `m · 2^e`. A number that no finite expansion holds (a
quotient, a root, a power, a logarithm) is held to more than 200 bits with its last bit set, which rounds
as the exact number does (R129). -/

namespace Sys2Proof.Machine.Fp

/-- How a format uses its highest codes (R92). -/
inductive Kind where
  | ieee | e4m3 | e2m1
  deriving DecidableEq, Repr

/-- A floating format (R92). -/
structure Fmt where
  bits : Nat
  frac : Nat
  bias : Nat
  kind : Kind := .ieee
  deriving DecidableEq, Repr

def f64 : Fmt := { bits := 64, frac := 52, bias := 1023 }
def f32 : Fmt := { bits := 32, frac := 23, bias := 127 }
def f16 : Fmt := { bits := 16, frac := 10, bias := 15 }
def bf16 : Fmt := { bits := 16, frac := 7, bias := 127 }
def e4m3 : Fmt := { bits := 8, frac := 3, bias := 7, kind := .e4m3 }
def e5m2 : Fmt := { bits := 8, frac := 2, bias := 15 }
def e2m1 : Fmt := { bits := 4, frac := 1, bias := 1, kind := .e2m1 }

/-- The element format of a tag (R92, R94); F32 stands for the tags that name no floating format. -/
def ofTag : Tag → Fmt
  | .f64 => f64 | .f16x2 => f16 | .bf16x2 => bf16 | .e4m3x4 => e4m3 | .e5m2x4 => e5m2 | .e2m1x8 => e2m1
  | _ => f32

/-- The elements of a packed tag (R94). -/
def elems : Tag → Nat
  | .f16x2 | .bf16x2 | .pb2x2 => 2
  | .s8x4 | .e4m3x4 | .e5m2x4 | .sc8x4 => 4
  | .e2m1x8 => 8
  | _ => 1

/-- The bits of one element of a tag (R94). -/
def elemBits (t : Tag) : Nat := t.width / elems t

/-- Element `i` of a value, as raw bits (R94). -/
def elemRaw (t : Tag) (v : Word) (i : Nat) : Nat := (v.toNat >>> (i * elemBits t)) % 2 ^ elemBits t

/-- `Pack` of R107: the elements of a list, the first lowest (R94). -/
def pack (w : Nat) : List Nat → Nat
  | [] => 0
  | z :: zs => z % 2 ^ w + 2 ^ w * pack w zs

/-- The flags of `FX.FLAGS` (R134). -/
abbrev Flags := BitVec 5
def NV : Flags := 16
def DZ : Flags := 8
def OF : Flags := 4
def UF : Flags := 2
def NX : Flags := 1
def noFlags : Flags := 0

/-- An exact value, an infinity or a NaN. -/
inductive Num where
  | nan (signalling : Bool)
  | inf (neg : Bool)
  | fin (neg : Bool) (m : Nat) (e : Int)
  deriving DecidableEq, Repr

namespace Fmt

/-- The exponent of the smallest normal. -/
def emin (f : Fmt) : Int := 1 - f.bias
/-- The number of exponent codes. -/
def ecodes (f : Fmt) : Nat := 2 ^ (f.bits - 1 - f.frac)
/-- The sign bit. -/
def signBit (f : Fmt) : Nat := 2 ^ (f.bits - 1)
/-- The code of +∞, where the format has one. -/
def infCode (f : Fmt) : Nat := (f.ecodes - 1) * 2 ^ f.frac
/-- The canonical NaN (R93); +0 in E2M1 (R103). -/
def nanCode (f : Fmt) : Nat :=
  match f.kind with
  | .ieee => f.infCode + 2 ^ (f.frac - 1)
  | .e4m3 => 0x7F
  | .e2m1 => 0
/-- The code of the largest finite value (R92). -/
def maxCode (f : Fmt) : Nat :=
  match f.kind with
  | .ieee => f.infCode - 1
  | .e4m3 => 0x7E
  | .e2m1 => 7
/-- A code with a sign. -/
def signed (f : Fmt) (neg : Bool) (mag : Nat) : Nat := mag + (if neg then f.signBit else 0)

/-- The value of a code (R92). -/
def decode (f : Fmt) (b : Nat) : Num :=
  let neg := b.testBit (f.bits - 1)
  let mag := b % f.signBit
  let ex := mag / 2 ^ f.frac
  let fr := mag % 2 ^ f.frac
  if f.kind == .ieee && ex == f.ecodes - 1 then
    if fr == 0 then .inf neg else .nan (!fr.testBit (f.frac - 1))
  else if f.kind == .e4m3 && mag == 0x7F then .nan false
  else if ex == 0 then .fin neg fr (f.emin - f.frac)
  else .fin neg (2 ^ f.frac + fr) ((ex : Int) - f.bias - f.frac)

end Fmt

/-- Element `i` of a floating value (R107). -/
def elem (t : Tag) (v : Word) (i : Nat) : Num := (ofTag t).decode (elemRaw t v i)

/-- The number of bits of a number. -/
def bitLen (n : Nat) : Nat := if n = 0 then 0 else Nat.log2 n + 1

/-- `m · 2^e` rounded to a multiple of `2^q` under a mode: the multiple, and whether it is inexact (R102). -/
def roundAt (rnd : Rnd) (neg : Bool) (m : Nat) (e q : Int) : Nat × Bool :=
  if q ≤ e then (m * 2 ^ (e - q).toNat, false)
  else
    let sh := (q - e).toNat
    let n := m / 2 ^ sh
    let r := m % 2 ^ sh
    let half := 2 ^ (sh - 1)
    if r == 0 then (n, false)
    else
      let up :=
        match rnd with
        | .rne => half < r || (r == half && n % 2 == 1)
        | .rtz => false
        | .rup => !neg
        | .rdn => neg
        | .rto => n % 2 == 0
      (if up then n + 1 else n, true)

/-- The result of an overflow (R103). -/
def overflow (f : Fmt) (rnd : Rnd) (sat neg : Bool) : Nat :=
  let big := match rnd with
    | .rne => true
    | .rtz | .rto => false
    | .rup => !neg
    | .rdn => neg
  if sat || !big then f.signed neg f.maxCode
  else match f.kind with
    | .ieee => f.signed neg f.infCode
    | .e4m3 => f.signed neg 0x7F
    | .e2m1 => f.signed neg f.maxCode

/-- `Round` of a finite exact value (R102, R103), with the flags of R134. -/
def roundFin (f : Fmt) (rnd : Rnd) (sat neg : Bool) (m : Nat) (e : Int) : Nat × Flags :=
  if m = 0 then (f.signed neg 0, 0)
  else
    let ex : Int := (bitLen m : Int) - 1 + e
    let q : Int := max ex f.emin - f.frac
    let (n, inexact) := roundAt rnd neg m e q
    let code := n + (q - (f.emin - f.frac)).toNat * 2 ^ f.frac
    if f.maxCode < code then (overflow f rnd sat neg, OF ||| NX)
    else
      let tiny := inexact && ex < f.emin
        && !(ex == f.emin - 1 && (roundAt rnd neg m e (ex - f.frac)).1 == 2 ^ (f.frac + 1))
      (f.signed neg code, (if inexact then NX else 0) ||| (if tiny then UF else 0))

/-- `Round` of a number: the code and the flags (R103, R104). -/
def round (f : Fmt) (rnd : Rnd) (sat : Bool) (x : Num) : Nat × Flags :=
  match x with
  | .nan s => (f.nanCode, if s || f.kind == .e2m1 then NV else 0)
  | .inf neg =>
    if sat || f.kind == .e2m1 then (f.signed neg f.maxCode, OF)
    else if f.kind == .e4m3 then (f.signed neg 0x7F, OF)
    else (f.signed neg f.infCode, 0)
  | .fin neg m e => roundFin f rnd sat neg m e

/-- A number times `2^k`. -/
def Num.scale (x : Num) (k : Int) : Num :=
  match x with
  | .fin neg m e => .fin neg m (e + k)
  | x => x

/-- The exact integer part of a rounding to an integer under a mode. -/
def roundInt (rnd : Rnd) (neg : Bool) (m : Nat) (e : Int) : Int × Bool :=
  let (n, inexact) := roundAt rnd neg m e 0
  (if neg then -(n : Int) else n, inexact)

/-- `Sat` of R9. -/
def satInt (x lo hi : Int) : Int := if x < lo then lo else if hi < x then hi else x

/-- An S8 element of `quant` (R111): the byte and the flags. -/
def roundS8 (rnd : Rnd) (x : Num) : Nat × Flags :=
  match x with
  | .nan _ => (0, NV)
  | .inf neg => (if neg then 256 - 127 else 127, OF)
  | .fin neg m e =>
    -- far outside the range, the exponent no longer matters
    let (n, inexact) := roundInt rnd neg m (if 64 < e then 64 else e)
    let z := satInt n (-127) 127
    ((z % 256).toNat, if n < -127 || 127 < n then OF ||| NX else if inexact then NX else 0)

/-! ### Integer roots, powers and logarithms -/

/-- Newton's iteration for the integer square root, from above. -/
def isqrtIter (n : Nat) : Nat → Nat → Nat
  | 0, x => x
  | fuel + 1, x =>
    let y := (x + n / x) / 2
    if x ≤ y then x else isqrtIter n fuel y

/-- The integer square root. -/
def isqrt (n : Nat) : Nat :=
  if n = 0 then 0 else isqrtIter n (2 * bitLen n + 8) (2 ^ ((bitLen n + 1) / 2))

/-- The working precision of the power and the logarithm, in bits. -/
def prec : Nat := 640

/-- ln 2 · 2^640, rounded down. -/
def ln2 : Nat :=
  0xb17217f7d1cf79abc9e3b39803f2f6af40f343267298b62d8a0d175b8baafa2be7b876206debac98559552fb4afa1b10ed2eae35c138214427573b291169b8253e96ca16224ae8c51acbda11317c387e

/-- The terms t^k/k! of the exponential series from the k-th on, with `fuel` of them. -/
def expSeries (t : Nat) : Nat → Nat → Nat → Nat
  | 0, _, _ => 0
  | fuel + 1, k, term => term + expSeries t fuel (k + 1) (term * t / 2 ^ prec / (k + 1))

/-- `2^(x / 2^640) · 2^640` for a fraction `x < 2^640`, to more than 500 bits. -/
def pow2frac (x : Nat) : Nat := expSeries (x * ln2 / 2 ^ prec) 140 0 (2 ^ prec)

/-- The binary digits of the logarithm of `y / 2^640`, from 1 up to 2, by repeated squaring. -/
def logDigits : Nat → Nat → Nat → Nat
  | 0, _, acc => acc
  | fuel + 1, y, acc =>
    let z := y * y / 2 ^ prec
    if 2 ^ (prec + 1) ≤ z then logDigits fuel (z / 2) (2 * acc + 1) else logDigits fuel z (2 * acc)

/-- `2^x` for a finite x that is no integer, its last bit set (R129). -/
def exp2Fin (neg : Bool) (m : Nat) (e : Int) : Num :=
  -- |x| = m·2^e with e < 0
  let sh := (-e).toNat
  let ip := m / 2 ^ sh
  let fr := m % 2 ^ sh
  if 2 ^ 14 < ip then .fin false (2 ^ 256 + 1) ((if neg then -(2 ^ 14) else 2 ^ 14) - 256)
  else
    -- x = i + f with 0 < f < 1
    let i : Int := if neg then -(ip : Int) - 1 else ip
    let f := if neg then 2 ^ sh - fr else fr
    let y :=
      if f * 2 ^ 300 < 2 ^ sh then 2 ^ prec
      else if (2 ^ sh - f) * 2 ^ 300 < 2 ^ sh then 2 ^ (prec + 1) - 1
      else pow2frac (f * 2 ^ prec / 2 ^ sh)
    .fin false (2 * (y / 2 ^ (prec - 256)) + 1) (i - 257)

/-- `log2 x` for a finite positive x that is no power of two, its last bit set (R129). -/
def log2Fin (m : Nat) (e : Int) : Num :=
  let l := bitLen m
  let i : Int := (l : Int) - 1 + e
  -- m = y·2^(l-1) with 1 < y < 2
  let d := logDigits 300 (m * 2 ^ prec / 2 ^ (l - 1)) 0
  let z : Int := i * 2 ^ 300 + d
  -- the exact logarithm lies strictly between z and z + 1
  if 0 ≤ z then .fin false (2 * z.toNat + 1) (-301) else .fin true (2 * (-z - 1).toNat + 1) (-301)

/-! ### Sums and products -/

/-- A finite number as a signed multiple of `2^q`, for `q` at or below its exponent. -/
def atExp (neg : Bool) (m : Nat) (e q : Int) : Int :=
  let n : Int := (m * 2 ^ (e - q).toNat : Nat)
  if neg then -n else n

/-- The exact sum of finite terms (sign, m, e): the zero of opposite signs is +0, or −0 under `.rdn`; a
sum of zeros of one sign keeps it (R129). -/
def sumFin (rnd : Rnd) (ts : List (Bool × Nat × Int)) : Num :=
  let nz := ts.filter (fun t => t.2.1 != 0)
  let q := nz.foldl (fun q t => min q t.2.2) (match nz with | [] => 0 | t :: _ => t.2.2)
  let s := nz.foldl (fun s t => s + atExp t.1 t.2.1 t.2.2 q) 0
  if s = 0 then
    .fin (if ts.all (fun t => t.1 && t.2.1 == 0) && !ts.isEmpty then true
          else if ts.all (fun t => !t.1 && t.2.1 == 0) then false
          else rnd == .rdn) 0 0
  else .fin (decide (s < 0)) s.natAbs q

/-- A product of numbers: none for 0·∞. -/
def mulNum (x y : Num) : Option Num :=
  match x, y with
  | .nan s, _ => some (.nan s)
  | _, .nan s => some (.nan s)
  | .inf a, .inf b => some (.inf (a != b))
  | .inf a, .fin b m _ => if m = 0 then none else some (.inf (a != b))
  | .fin a m _, .inf b => if m = 0 then none else some (.inf (a != b))
  | .fin a m e, .fin b n d => some (.fin (a != b) (m * n) (e + d))

/-- The exact sum of numbers none of which is a NaN: none for ∞ − ∞. -/
def sumNum (rnd : Rnd) (xs : List Num) : Option Num :=
  let pinf := xs.any (fun x => x == .inf false)
  let ninf := xs.any (fun x => x == .inf true)
  if pinf && ninf then none
  else if pinf then some (.inf false)
  else if ninf then some (.inf true)
  else some (sumFin rnd (xs.filterMap (fun x => match x with | .fin n m e => some (n, m, e) | _ => none)))

/-- A number is a NaN. -/
def Num.isNan : Num → Bool
  | .nan _ => true
  | _ => false

/-- A number is a signalling NaN. -/
def Num.isSnan : Num → Bool
  | .nan s => s
  | _ => false

/-- The first NaN among operands, quieted (R130). -/
def firstNan (f : Fmt) (xs : List Nat) : Nat :=
  match xs.find? (fun b => (f.decode b).isNan) with
  | some b => if f.kind == .ieee then b ||| 2 ^ (f.frac - 1) else b
  | none => f.nanCode

/-- The rules of R130 around an exact operation on operand codes: the first NaN propagates, a signalling
NaN sets NV, an invalid operation gives the canonical NaN and NV. -/
def withNans (f : Fmt) (rnd : Rnd) (xs : List Nat) (op : List Num → Option (Num × Flags)) : Nat × Flags :=
  let ns := xs.map f.decode
  let nv := if ns.any Num.isSnan then NV else 0
  if ns.any Num.isNan then (firstNan f xs, nv)
  else match op ns with
    | none => (f.nanCode, NV)
    | some (z, fl) =>
      let (b, fl') := round f rnd false z
      (b, fl ||| fl')

/-- The negative of a number. -/
def Num.neg : Num → Num
  | .nan s => .nan s
  | .inf n => .inf (!n)
  | .fin n m e => .fin (!n) m e

/-- The floating operations that round (R129, R130, R133). -/
inductive Op where
  | add | sub | mul | fma | div | sqrt | rsqrt | rcp | exp2 | log2 | rnd
  deriving DecidableEq, Repr

/-- `z` with no flag. -/
def plain (z : Option Num) : Option (Num × Flags) := z.map (fun z => (z, 0))

/-- A quotient of finite numbers with a non-zero divisor, held to 240 bits and its last bit set when it
does not end there. -/
def divFin (a : Bool) (m : Nat) (e : Int) (b : Bool) (n : Nat) (d : Int) : Num :=
  let sh := 240 + bitLen n
  let q := m * 2 ^ sh / n
  let r := m * 2 ^ sh % n
  .fin (a != b) (2 * q + (if r = 0 then 0 else 1)) (e - d - sh - 1)

/-- The square root of a finite number. -/
def sqrtFin (m : Nat) (e : Int) : Num :=
  let odd := e % 2 != 0
  let m' := (if odd then 2 * m else m) * 2 ^ 480
  let e' := (if odd then e - 1 else e) - 480
  let q := isqrt m'
  .fin false (2 * q + (if q * q = m' then 0 else 1)) (e' / 2 - 1)

/-- The reciprocal square root of a positive finite number. -/
def rsqrtFin (m : Nat) (e : Int) : Num :=
  let odd := e % 2 != 0
  let m' := if odd then 2 * m else m
  let e' := if odd then e - 1 else e
  let k := 240 + bitLen m'
  let n := 2 ^ (2 * k)
  let q := isqrt (n / m')
  .fin false (2 * q + (if q * q * m' = n then 0 else 1)) (-(e' / 2) - k - 1)

/-- `m` is a power of two. -/
def isPow2 (m : Nat) : Bool := m != 0 && m == 2 ^ (bitLen m - 1)

/-- The exact result of an operation on operands that are no NaNs; none when it is invalid (R130). -/
def exact (op : Op) (rnd : Rnd) (xs : List Num) : Option (Num × Flags) :=
  match op, xs with
  | .add, [x, y] => plain (sumNum rnd [x, y])
  | .sub, [x, y] => plain (sumNum rnd [x, y.neg])
  | .mul, [x, y] => plain (mulNum x y)
  | .fma, [x, y, w] => plain ((mulNum x y).bind (fun p => sumNum rnd [p, w]))
  | .div, [x, y] =>
    match x, y with
    | .inf _, .inf _ => none
    | .inf a, .fin b _ _ => some (.inf (a != b), 0)
    | .fin a _ _, .inf b => some (.fin (a != b) 0 0, 0)
    | .fin a m e, .fin b n d =>
      if n = 0 then (if m = 0 then none else some (.inf (a != b), DZ))
      else if m = 0 then some (.fin (a != b) 0 0, 0)
      else some (divFin a m e b n d, 0)
    | _, _ => none
  | .sqrt, [x] =>
    match x with
    | .inf neg => if neg then none else some (.inf false, 0)
    | .fin neg m e =>
      if m = 0 then some (.fin neg 0 0, 0) else if neg then none else some (sqrtFin m e, 0)
    | _ => none
  | .rsqrt, [x] =>
    match x with
    | .inf neg => if neg then none else some (.fin false 0 0, 0)
    | .fin neg m e =>
      if m = 0 then some (.inf neg, DZ) else if neg then none else some (rsqrtFin m e, 0)
    | _ => none
  | .rcp, [x] =>
    match x with
    | .inf neg => some (.fin neg 0 0, 0)
    | .fin neg m e => if m = 0 then some (.inf neg, DZ) else some (divFin false 1 0 neg m e, 0)
    | _ => none
  | .exp2, [x] =>
    match x with
    | .inf neg => if neg then some (.fin false 0 0, 0) else some (.inf false, 0)
    | .fin neg m e =>
      if m = 0 then some (.fin false 1 0, 0)
      else
        let sh := (-e).toNat
        if 0 ≤ e ∨ m % 2 ^ sh = 0 then
          let i : Nat := if 0 ≤ e then m * 2 ^ (min e 64).toNat else m / 2 ^ sh
          let i := min i (2 ^ 14)
          some (.fin false 1 (if neg then -(i : Int) else i), 0)
        else some (exp2Fin neg m e, 0)
    | _ => none
  | .log2, [x] =>
    match x with
    | .inf neg => if neg then none else some (.inf false, 0)
    | .fin neg m e =>
      if m = 0 then some (.inf true, DZ)
      else if neg then none
      else if isPow2 m then
        let i : Int := (bitLen m : Int) - 1 + e
        some (.fin (decide (i < 0)) i.natAbs 0, 0)
      else some (log2Fin m e, 0)
    | _ => none
  | .rnd, [x] =>
    match x with
    | .fin neg m e =>
      let (n, inexact) := roundAt rnd neg m e (max e 0)
      some (.fin neg n (max e 0), if inexact then NX else 0)
    | x => some (x, 0)
  | _, _ => none

/-- One element of a rounding floating form: operand codes to a code and flags. An `fma` whose product is
0·∞ sets NV even when C is a quiet NaN (R130). -/
def elemOp (op : Op) (f : Fmt) (rnd : Rnd) (xs : List Nat) : Nat × Flags :=
  let (b, fl) := withNans f rnd xs (exact op rnd)
  match op, xs with
  | .fma, [x, y, _] =>
    if (mulNum (f.decode x) (f.decode y)).isNone then (b, fl ||| NV) else (b, fl)
  | _, _ => (b, fl)

/-- A form applied to each element of packed operands (R119). -/
def perElem (t : Tag) (xs : List Word) (op : List Nat → Nat × Flags) : Word × Flags :=
  let zs := (List.range (elems t)).map (fun i => op (xs.map (fun x => elemRaw t x i)))
  (BitVec.ofNat 64 (pack (elemBits t) (zs.map Prod.fst)), (zs.map Prod.snd).foldl (· ||| ·) 0)

/-- A rounding floating form on values of tag `t`. -/
def valOp (op : Op) (t : Tag) (rnd : Rnd) (xs : List Word) : Word × Flags :=
  perElem t xs (elemOp op (ofTag t) rnd)

/-! ### Comparisons (R131, R132) -/

/-- A finite or infinite number is below another, with −0 and +0 equal. -/
def ltNum (x y : Num) : Bool :=
  match x, y with
  | .nan _, _ | _, .nan _ => false
  | .inf a, .inf b => a && !b
  | .inf a, .fin _ _ _ => a
  | .fin _ _ _, .inf b => !b
  | .fin a m e, .fin b n d =>
    let q := min e d
    decide (atExp a m e q < atExp b n d q)

/-- −0 and +0 are equal, and each other number equals itself. -/
def eqNum (x y : Num) : Bool :=
  match x, y with
  | .nan _, _ | _, .nan _ => false
  | x, y => !ltNum x y && !ltNum y x

/-- A zero of negative sign. -/
def Num.negZero : Num → Bool
  | .fin neg m _ => neg && m == 0
  | _ => false

/-- `fmin` and `fmax` on codes (R131). -/
def minmax (wantMax : Bool) (f : Fmt) (x y : Nat) : Nat × Flags :=
  let a := f.decode x
  let b := f.decode y
  let nv := if a.isSnan || b.isSnan then NV else 0
  if a.isNan && b.isNan then (firstNan f [x], nv)
  else if a.isNan then (y, nv)
  else if b.isNan then (x, nv)
  else
    let aBelow := ltNum a b || (eqNum a b && a.negZero)
    (if aBelow != wantMax then x else y, nv)

/-- The conditions of `fcmp`: eq, ne, lt, le, gt, ge, un, ord (R121, R132). -/
def fcmp (cond : Nat) (f : Fmt) (x y : Nat) : Bool × Flags :=
  let a := f.decode x
  let b := f.decode y
  let un := a.isNan || b.isNan
  let r := match cond with
    | 0 => eqNum a b
    | 1 => un || !eqNum a b
    | 2 => ltNum a b
    | 3 => !un && !ltNum b a
    | 4 => ltNum b a
    | 5 => !un && !ltNum a b
    | 6 => un
    | _ => !un
  (r, if a.isSnan || b.isSnan then NV else 0)

/-- `fclass` (R132). -/
def fclass (f : Fmt) (x : Nat) : Nat :=
  let bit := match f.decode x with
    | .inf neg => if neg then 0 else 7
    | .nan s => if s then 8 else 9
    | .fin neg m _ =>
      if m = 0 then (if neg then 3 else 4)
      else if m < 2 ^ f.frac then (if neg then 2 else 5)
      else (if neg then 1 else 6)
  2 ^ bit

/-! ### `fscale` and `fdot2` (R133) -/

/-- `a · 2^b` rounded; beyond 8,192 either way the scale no longer changes the result. -/
def fscale (f : Fmt) (rnd : Rnd) (x : Nat) (k : Int) : Nat × Flags :=
  withNans f rnd [x] (fun ns => match ns with
    | [a] => some (a.scale (satInt k (-8192) 8192), 0)
    | _ => none)

/-- `cc + a0·b0 + a1·b1`, exact and rounded once to F32 (R133). -/
def fdot2 (t : Tag) (rnd : Rnd) (x y : Word) (w : Nat) : Nat × Flags :=
  let xs := [elem t x 0, elem t x 1]
  let ys := [elem t y 0, elem t y 1]
  let c := f32.decode w
  let nv := if (xs ++ ys ++ [c]).any Num.isSnan then NV else 0
  if (xs ++ ys ++ [c]).any Num.isNan then
    let bad := (xs.zip ys).any (fun p => (mulNum p.1 p.2).isNone)
    (f32.nanCode, nv ||| (if bad then NV else 0))
  else
    match mulNum (elem t x 0) (elem t y 0), mulNum (elem t x 1) (elem t y 1) with
    | some p, some q =>
      match sumNum rnd [c, p, q] with
      | some z => round f32 rnd false z
      | none => (f32.nanCode, NV)
    | _, _ => (f32.nanCode, NV)

/-! ### Constants (R49, R50) -/

/-- π, ln 2 and log2 e, to 256 bits, rounded down and their last bit set. -/
def piM : Nat := 2 * 0x3243f6a8885a308d313198a2e03707344a4093822299f31d0082efa98ec4e6c89 + 1
def ln2M : Nat := 2 * 0xb17217f7d1cf79abc9e3b39803f2f6af40f343267298b62d8a0d175b8baafa2b + 1
def log2eM : Nat := 2 * 0x171547652b82fe1777d0ffda0d23a7d11d6aef551bad2b4b1164a2cd9a342648f + 1

/-- The floating constants in code order (R49). -/
def constNum (i : Nat) : Num :=
  match i with
  | 0 => .fin false 0 0
  | 1 => .fin true 0 0
  | 2 => .fin false 1 (-1)
  | 3 => .fin false 1 0
  | 4 => .fin false 2 0
  | 5 => .fin false 4 0
  | 6 => .fin true 1 (-1)
  | 7 => .fin true 1 0
  | 8 => .fin true 2 0
  | 9 => .fin true 4 0
  | 10 => .fin false piM (-257)
  | 11 => .fin false ln2M (-257)
  | 12 => .fin false log2eM (-257)
  | 13 => .inf false
  | 14 => .inf true
  | _ => .nan false

/-- A value in every element of a packed format. -/
def splat (t : Tag) (b : Nat) : Word :=
  BitVec.ofNat 64 (pack (elemBits t) (List.replicate (elems t) b))

/-! ### Block scales and conversions (R95, R104 to R115) -/

/-- The exponent of a scale byte; none for the block NaN (R95). -/
def sc8 (e : Nat) : Option Int := if e == 0xFF then none else some ((e : Int) - 127)

/-- Packs elements of a conversion into a value of tag `d` with the flags of all of them (R107). -/
def packElems (d : Tag) (zs : List (Nat × Flags)) : Word × Flags :=
  (BitVec.ofNat 64 (pack (elemBits d) (zs.map Prod.fst)), (zs.map Prod.snd).foldl (· ||| ·) 0)

/-- The elements of a value of tag `s`, as numbers. -/
def elemList (s : Tag) (v : Word) : List Num := (List.range (elems s)).map (elem s v)

/-- `cvt` (R107). -/
def cvt (d s : Tag) (rnd : Rnd) (sat : Bool) (x : Word) : Word × Flags :=
  packElems d ((elemList s x).map (round (ofTag d) rnd sat))

/-- `pack2` (R108). -/
def pack2 (d s : Tag) (rnd : Rnd) (sat : Bool) (x y : Word) : Word × Flags :=
  packElems d ((elemList s x ++ elemList s y).map (round (ofTag d) rnd sat))

/-- A signed byte. -/
def s8 (b : Nat) : Int := if b < 128 then b else (b : Int) - 256

/-- `unpack` (R109). -/
def unpack (d s : Tag) (idx : Nat) (x : Word) : Word × Flags :=
  match s with
  | .s8x4 => (BitVec.ofInt 32 (s8 (elemRaw s x idx)) |>.setWidth 64, 0)
  | .sc8x4 =>
    match sc8 (elemRaw s x idx) with
    | none => (BitVec.ofNat 64 f32.nanCode, 0)
    | some k => (BitVec.ofNat 64 (round f32 .rne false (.fin false 1 k)).1, 0)
  | s =>
    let n := elems d
    packElems d ((List.range n).map (fun k => round (ofTag d) .rne false (elem s x (n * idx + k))))

/-- The exponent above which a format's largest elements stand (R110). -/
def emaxD : Tag → Int
  | .e4m3x4 => 8 | .e5m2x4 => 15 | .s8x4 => 6 | _ => 2

/-- The magnitude of a finite number is below another's. -/
def ltMag (x y : Nat × Int) : Bool :=
  let q := min x.2 y.2
  decide (x.1 * 2 ^ (x.2 - q).toNat < y.1 * 2 ^ (y.2 - q).toNat)

/-- The scale byte of a group of elements (R110). -/
def bscaleByte (d : Tag) (vs : List Num) : Nat :=
  if vs.any Num.isNan then 0xFF
  else if vs.any (fun v => v == .inf false || v == .inf true) then 0xFE
  else
    let mx := (vs.filterMap (fun v => match v with | .fin _ m e => some (m, e) | _ => none)).foldl
      (fun a b => if ltMag a b then b else a) (0, 0)
    if mx.1 = 0 then 127
    else (satInt ((bitLen mx.1 : Int) - 1 + mx.2 - emaxD d + 127) 0 254).toNat

/-- `quant` (R111). DESIGN CHOICE: under a block scale of NaN no element records anything, though it be a NaN itself (R104
says both; log 117). -/
def quant (d s : Tag) (rnd : Rnd) (x y : Word) (e : Nat) : Word × Flags :=
  let xs := elemList s x ++ elemList s y
  match sc8 e with
  | none => packElems d (xs.map (fun _ => (if d == .s8x4 then 0 else (ofTag d).nanCode, 0)))
  | some k =>
    packElems d (xs.map (fun v =>
      if d == .s8x4 then roundS8 rnd (v.scale (-k)) else round (ofTag d) rnd true (v.scale (-k))))

/-- `dequant` (R112). -/
def dequant (d s : Tag) (rnd : Rnd) (idx : Nat) (x : Word) (e : Nat) : Word × Flags :=
  match sc8 e with
  | none => packElems d [((ofTag d).nanCode, 0), ((ofTag d).nanCode, 0)]
  | some k =>
    packElems d ([0, 1].map (fun i =>
      let v := if s == .s8x4 then
          let z := s8 (elemRaw s x (2 * idx + i))
          Num.fin (decide (z < 0)) z.natAbs 0
        else elem s x (2 * idx + i)
      round (ofTag d) rnd false (v.scale k)))

/-! ### Pattern-book weights (R96, R97, R113, R114) -/

/-- The default leader `i` (R97). -/
def defaultLeader (i : Nat) : BitVec 32 :=
  let a := i % 8
  let b := i / 8 % 8
  let c := i / 64 % 8
  let nib := (List.range 7).map (fun j => (a + b * j + c * j * j) % 16)
  let par := ((List.range 9).filter (fun k => i.testBit k)).length % 2
  BitVec.ofNat 32 (pack 4 nib + ((a + 7 * b + 49 * c) % 8) * 2 ^ 28 + par * 2 ^ 31)

/-- The magnitude of weight `j` of a leader, in quarters (R96). -/
def leaderMag (ld : BitVec 32) (j : Nat) : Nat :=
  if j < 7 then (ld.toNat >>> (4 * j)) % 16 else 2 * ((ld.toNat >>> 28) % 8)

/-- The sign of weight `j` (R96). -/
def weightNeg (ld : BitVec 32) (sgn : Nat) (j : Nat) : Bool :=
  if j < 7 then sgn.testBit j
  else (List.range 7).foldl (fun p k => p != sgn.testBit k) (ld.getLsbD 31)

/-- Weight `j` of a leader and signs, in quarters; a zero magnitude is +0 (R96). -/
def weight (ld : BitVec 32) (sgn : Nat) (j : Nat) : Num :=
  let m := leaderMag ld j
  .fin (m != 0 && weightNeg ld sgn j) m (-2)

/-- The same weight as an integer of quarters. -/
def weightInt (ld : BitVec 32) (sgn : Nat) (j : Nat) : Int :=
  let m : Int := leaderMag ld j
  if weightNeg ld sgn j then -m else m

/-- Weight `j` (0 to 15) of the two codewords of a value; `store` reads a leader. -/
def pbWeight (store : Nat → BitVec 32) (x : Word) (j : Nat) : Num :=
  let cw := elemRaw .pb2x2 x (j / 8)
  weight (store (cw / 128)) (cw % 128) (j % 8)

/-- `pbdec` (R113). -/
def pbdec (store : Nat → BitVec 32) (d : Tag) (rnd : Rnd) (sat : Bool) (idx : Nat) (x : Word) (e : Nat) :
    Word × Flags :=
  let n := elems d
  match sc8 e with
  | none => packElems d ((List.range n).map (fun _ => ((ofTag d).nanCode, 0)))
  | some k =>
    packElems d ((List.range n).map (fun i =>
      round (ofTag d) rnd sat ((pbWeight store x (n * idx + i)).scale k)))

/-- A target of `pbenc` in units of 2^−9; a NaN counts as +0 (R114). -/
def targetInt (x : Num) : Int :=
  match x with
  | .fin neg m e => atExp neg m e (-9)
  | _ => 0

/-- The squared error of a leader against eight targets, the signs of weights 0 to 6 copied. -/
def pbError (ld : BitVec 32) (sgn : Nat) (ts : List Int) : Int :=
  ((List.range 8).zip ts).foldl (fun s p =>
    let d := weightInt ld sgn p.1 * 128 - p.2
    s + d * d) 0

/-- The closest codeword, ties to the smallest (R114). -/
def pbenc (store : Nat → BitVec 32) (x y : Word) : Nat :=
  let ns := elemList .e4m3x4 x ++ elemList .e4m3x4 y
  let ts := ns.map targetInt
  let sgn := pack 1 ((ns.take 7).map (fun v => match v with | .fin true _ _ => 1 | _ => 0))
  let best := (List.range 511).foldl (fun (b : Nat × Int) i =>
    let er := pbError (store (i + 1)) sgn ts
    if er < b.2 then (i + 1, er) else b) (0, pbError (store 0) sgn ts)
  best.1 * 128 + sgn

/-! ### Integers and floats (R115) -/

/-- The bounds of an integer tag (R123). -/
def minT (t : Tag) : Int := if t.isSigned then -(2 ^ (t.width - 1)) else 0
def maxT (t : Tag) : Int := if t.isSigned then 2 ^ (t.width - 1) - 1 else 2 ^ t.width - 1

/-- `Val` of R123: signed for S types, unsigned otherwise. -/
def valT (t : Tag) (x : Word) : Int :=
  if t.is64 then (if t.isSigned then x.toInt else x.toNat)
  else (if t.isSigned then (x.setWidth 32).toInt else (x.setWidth 32).toNat)

/-- An integer narrowed to the width of a tag, zero above 32 bits (R119). -/
def narrow (t : Tag) (z : Int) : Word :=
  if t.is64 then BitVec.ofInt 64 z else (BitVec.ofInt 32 z).setWidth 64

/-- `cvtfi` (R115). -/
def cvtfi (d s : Tag) (rnd : Rnd) (x : Word) : Word × Flags :=
  match elem s x 0 with
  | .nan _ => (narrow d 0, NV)
  | .inf neg => (narrow d (if neg then minT d else maxT d), NV)
  | .fin neg m e =>
    let (n, inexact) := roundInt rnd neg m e
    if n < minT d ∨ maxT d < n then (narrow d (satInt n (minT d) (maxT d)), NV)
    else (narrow d n, if inexact then NX else 0)

/-- `cvtif` (R115). -/
def cvtif (d s : Tag) (rnd : Rnd) (x : Word) : Word × Flags :=
  let z := valT s x
  let (b, fl) := round (ofTag d) rnd false (.fin (decide (z < 0)) z.natAbs 0)
  (BitVec.ofNat 64 b, fl &&& NX)

end Sys2Proof.Machine.Fp
end

