-- ==== Sys2Proof/Machine/Alu.lean ====
section
/-! DEFINITION. What the register, conversion, integer, bit and floating forms compute from the values of one
lane (R83 to R91, R107 to R115, R123 to R133): from up to three operands to a value, its tag and the
status flags it records. -/

namespace Sys2Proof.Machine

open Fp (Flags)

/-- An operand as one lane reads it: its bits, its tag, and whether it is a register (R48, R83, R124). -/
structure Opnd where
  val : Word := 0
  tag : Tag := .bits32
  reg : Bool := false
  deriving DecidableEq, Repr, Inhabited

/-- What a lane's computation gives: the value to write, its tag, the flags it records (R135). -/
structure Res where
  val : Word
  tag : Tag
  fl  : Flags := 0
  deriving DecidableEq, Repr, Inhabited

namespace Alu

open Fp

/-- An exact integer narrowed to `T`, saturated under `.sat` and wrapped otherwise (R123). -/
def fit (t : Tag) (sat : Bool) (z : Int) : Word :=
  narrow t (if sat then satInt z (minT t) (maxT t) else z)

/-- The low bits of a width. -/
def maskW (w : Nat) (x : Word) : Word := if w = 64 then x else x &&& BitVec.ofNat 64 (2 ^ w - 1)

/-- The integer forms whose operands and result are all of one type (R123). -/
inductive IntOp where
  | add | sub | mul | mulhi | mad | neg | abs | min | max
  deriving DecidableEq, Repr

/-- F of R123 on exact integers. -/
def intExact (op : IntOp) (w : Nat) (x y z : Int) : Int :=
  match op with
  | .add => x + y
  | .sub => x - y
  | .mul => x * y
  | .mulhi => (x * y) / (2 ^ w : Nat)
  | .mad => x * y + z
  | .neg => -x
  | .abs => if x < 0 then -x else x
  | .min => if x ≤ y then x else y
  | .max => if x ≤ y then y else x

/-- An integer form on a lane's operands. -/
def int (op : IntOp) (x : Ext) (a b c : Opnd) : Res :=
  { val := fit x.fmt (x.mod.getLsbD 0) (intExact op x.fmt.width (valT x.fmt a.val) (valT x.fmt b.val) (valT x.fmt c.val))
    tag := x.fmt }

/-- The quotient and the remainder of R126, with DZ for a divisor of zero. -/
def divRem (t : Tag) (a b : Word) : Word × Word × Flags :=
  let p := valT t a
  let q := valT t b
  if q = 0 then (narrow t (-1), narrow t p, DZ)
  else (narrow t (p.tdiv q), narrow t (p.tmod q), 0)

def div (x : Ext) (a b _ : Opnd) : Res :=
  let r := divRem x.fmt a.val b.val
  { val := r.1, tag := x.fmt, fl := r.2.2 }

def rem (x : Ext) (a b _ : Opnd) : Res :=
  let r := divRem x.fmt a.val b.val
  { val := r.2.1, tag := x.fmt, fl := r.2.2 }

/-- The tag of a bit form's result (R124). -/
def bitTag (t : Tag) (a b : Opnd) : Tag :=
  if a.reg && (!b.reg || b.tag == a.tag) then a.tag else if t.is64 then .bits64 else .bits32

/-- The bitwise forms of two operands. -/
inductive BitOp where
  | and | or | xor | andn
  deriving DecidableEq, Repr

def bitF (op : BitOp) (x y : Word) : Word :=
  match op with
  | .and => x &&& y
  | .or => x ||| y
  | .xor => x ^^^ y
  | .andn => x &&& ~~~y

def bit (op : BitOp) (x : Ext) (a b _ : Opnd) : Res :=
  { val := maskW x.fmt.width (bitF op a.val b.val), tag := bitTag x.fmt a b }

/-- `not` (R123); its result is tagged as with a source B that is no register. -/
def not (x : Ext) (a _ _ : Opnd) : Res :=
  { val := maskW x.fmt.width (~~~a.val), tag := bitTag x.fmt a {} }

/-- Bit `i` goes to bit `w − 1 − i`. -/
def rev (w : Nat) (v : Nat) : Nat :=
  (List.range w).foldl (fun acc i => 2 * acc + (v / 2 ^ i) % 2) 0

def brev (x : Ext) (a _ _ : Opnd) : Res :=
  { val := BitVec.ofNat 64 (rev x.fmt.width a.val.toNat), tag := bitTag x.fmt a {} }

/-- The shifts, by source B's bits [31:0] unsigned (R124). -/
def shl (x : Ext) (a b _ : Opnd) : Res :=
  let s := b.val.toNat % 2 ^ 32
  { val := if x.fmt.width ≤ s then 0 else maskW x.fmt.width (a.val <<< s), tag := bitTag x.fmt a b }

def shr (x : Ext) (a b _ : Opnd) : Res :=
  let s := b.val.toNat % 2 ^ 32
  { val := if x.fmt.width ≤ s then 0 else a.val >>> s, tag := bitTag x.fmt a b }

def sar (x : Ext) (a b _ : Opnd) : Res :=
  let s := min (b.val.toNat % 2 ^ 32) x.fmt.width
  { val := narrow x.fmt ((valT x.fmt a.val) / (2 ^ s : Nat)), tag := x.fmt }

def rotl (x : Ext) (a b _ : Opnd) : Res :=
  let w := x.fmt.width
  let s := b.val.toNat % 2 ^ 32 % w
  { val := maskW w ((a.val <<< s) ||| (a.val >>> (w - s))), tag := bitTag x.fmt a b }

/-- One bits, leading zeros and trailing zeros of a value of `w` bits. -/
def popcN (w v : Nat) : Nat := (List.range w).foldl (fun acc i => acc + (v / 2 ^ i) % 2) 0
def clzN (w v : Nat) : Nat := w - bitLen v
def ctzN (w v : Nat) : Nat := if v = 0 then w else (List.range w).foldr (fun i acc => if v.testBit i then i else acc) w

def popc (x : Ext) (a _ _ : Opnd) : Res :=
  { val := BitVec.ofNat 64 (popcN x.fmt.width a.val.toNat), tag := .n32 }
def clz (x : Ext) (a _ _ : Opnd) : Res :=
  { val := BitVec.ofNat 64 (clzN x.fmt.width a.val.toNat), tag := .n32 }
def ctz (x : Ext) (a _ _ : Opnd) : Res :=
  { val := BitVec.ofNat 64 (ctzN x.fmt.width a.val.toNat), tag := .n32 }

/-- The descriptor of `bfx` and `bfi`: from source C when it names a register, from the immediate otherwise (R120, R125). -/
def fieldDesc (x : Ext) (c : Opnd) (w : Nat) : Nat × Nat :=
  let (pos, len) :=
    if x.c != 0 then (c.val.toNat % 256, c.val.toNat / 256 % 256)
    else (x.immF 0 6, x.immF 6 7)
  let p := min pos w
  (p, min len (w - p))

/-- `bfx` (R125). -/
def bfx (x : Ext) (a _ c : Opnd) : Res :=
  let (p, n) := fieldDesc x c x.fmt.width
  let f := a.val.toNat / 2 ^ p % 2 ^ n
  let z : Int := if x.fmt.isSigned && 0 < n && f.testBit (n - 1) then (f : Int) - (2 ^ n : Nat) else f
  { val := narrow x.fmt z, tag := x.fmt }

/-- `bfi` (R125). -/
def bfi (x : Ext) (a b c : Opnd) : Res :=
  let (p, n) := fieldDesc x c x.fmt.width
  let m : Word := BitVec.ofNat 64 ((2 ^ n - 1) * 2 ^ p)
  { val := maskW x.fmt.width ((a.val &&& ~~~m) ||| ((b.val <<< p) &&& m)), tag := bitTag x.fmt a b }

/-- The conditions of `cmp` (R120, R127). -/
def cmpCond (x : Ext) (a b : Opnd) : Bool :=
  let p := valT x.fmt a.val
  let q := valT x.fmt b.val
  match x.immF 3 3 with
  | 0 => p == q
  | 1 => p != q
  | 2 => decide (p < q)
  | 3 => decide (p ≤ q)
  | 4 => decide (q < p)
  | _ => decide (q ≤ p)

/-- `lea` (R128); where source A is no register the tag is a DESIGN CHOICE (log 61). -/
def lea (x : Ext) (a b _ : Opnd) : Res :=
  { val := a.val + BitVec.ofInt 64 (valT x.fmt b.val * (2 ^ x.immF 0 3 : Nat))
    tag := if a.reg then a.tag else .bits64 }

/-- `dot4` (R128). -/
def dot4 (x : Ext) (a b c : Opnd) : Res :=
  let s := (List.range 4).foldl (fun s i => s + s8 (elemRaw .s8x4 a.val i) * s8 (elemRaw .s8x4 b.val i)) (valT .s32 c.val)
  { val := fit .s32 (x.mod.getLsbD 0) s, tag := .s32 }

/-- A rounding floating form of R129 on the operands it uses. -/
def fp (op : Fp.Op) (x : Ext) (a b c : Opnd) : Res :=
  let xs := match op with
    | .fma => [a.val, b.val, c.val]
    | .add | .sub | .mul | .div => [a.val, b.val]
    | _ => [a.val]
  let r := valOp op x.fmt x.rnd xs
  { val := r.1, tag := x.fmt, fl := r.2 }

/-- `fmin` and `fmax` (R131). -/
def fmm (wantMax : Bool) (x : Ext) (a b _ : Opnd) : Res :=
  let r := perElem x.fmt [a.val, b.val] (fun xs => match xs with
    | [p, q] => minmax wantMax (ofTag x.fmt) p q
    | _ => (0, 0))
  { val := r.1, tag := x.fmt, fl := r.2 }

def fclass (x : Ext) (a _ _ : Opnd) : Res :=
  { val := BitVec.ofNat 64 (Fp.fclass (ofTag x.fmt) (elemRaw x.fmt a.val 0)), tag := .n32 }

def fscale (x : Ext) (a b _ : Opnd) : Res :=
  let r := Fp.fscale (ofTag x.fmt) x.rnd (elemRaw x.fmt a.val 0) (valT .s32 b.val)
  { val := BitVec.ofNat 64 r.1, tag := x.fmt, fl := r.2 }

def fdot2 (x : Ext) (a b c : Opnd) : Res :=
  let r := Fp.fdot2 x.fmt x.rnd a.val b.val (c.val.toNat % 2 ^ 32)
  { val := BitVec.ofNat 64 r.1, tag := .f32, fl := r.2 }

/-- Converts a pair to a result of tag `t`. -/
def ofPair (t : Tag) (r : Word × Flags) : Res := { val := r.1, tag := t, fl := r.2 }

/-- The scale byte that `sb` selects (R107). -/
def scaleByte (x : Ext) (s : Opnd) : Nat := elemRaw .sc8x4 s.val (x.immF 6 2)

def cvt (x : Ext) (a _ _ : Opnd) : Res := ofPair x.fmt (Fp.cvt x.fmt x.srcTag x.rnd (x.mod.getLsbD 0) a.val)
def cvtfi (x : Ext) (a _ _ : Opnd) : Res := ofPair x.fmt (Fp.cvtfi x.fmt x.srcTag x.rnd a.val)
def cvtif (x : Ext) (a _ _ : Opnd) : Res := ofPair x.fmt (Fp.cvtif x.fmt x.srcTag x.rnd a.val)
def pack2 (x : Ext) (a b _ : Opnd) : Res :=
  ofPair x.fmt (Fp.pack2 x.fmt x.srcTag x.rnd (x.mod.getLsbD 0) a.val b.val)
def unpack (x : Ext) (a _ _ : Opnd) : Res := ofPair x.fmt (Fp.unpack x.fmt x.srcTag (x.immF 8 3) a.val)
def quant (x : Ext) (a b c : Opnd) : Res :=
  ofPair x.fmt (Fp.quant x.fmt x.srcTag x.rnd a.val b.val (scaleByte x c))
def dequant (x : Ext) (a b _ : Opnd) : Res :=
  ofPair x.fmt (Fp.dequant x.fmt x.srcTag x.rnd (x.immF 8 3) a.val (scaleByte x b))
def pbdec (store : Nat → BitVec 32) (x : Ext) (a b _ : Opnd) : Res :=
  ofPair x.fmt (Fp.pbdec store x.fmt x.rnd (x.mod.getLsbD 0) (x.immF 8 3) a.val (scaleByte x b))
/-- `pbenc` (R114); with PB2x2 the codeword stands above bits [15:0] of source C. -/
def pbenc (store : Nat → BitVec 32) (x : Ext) (a b c : Opnd) : Res :=
  let w := Fp.pbenc store a.val b.val
  if x.fmt == .n32 then { val := BitVec.ofNat 64 w, tag := .n32 }
  else { val := BitVec.ofNat 64 (w * 2 ^ 16 + c.val.toNat % 2 ^ 16), tag := .pb2x2 }

/-- `mov` (R83): the tag is the source register's own; an N32 special register read by `.b64` is N64. -/
def mov (x : Ext) (a _ _ : Opnd) : Res :=
  { val := a.val
    tag := if a.reg then a.tag
      else if x.a.isSpecial && x.lit.isNone then (if x.fmt.is64 then .n64 else .n32)
      else if x.a.isIntConst && x.lit.isNone then (if x.fmt.is64 then .s64 else .s32)
      else if x.fmt.is64 then .bits64 else .bits32 }

/-- The value of `movi` (R84). -/
def moviVal (x : Ext) : Word :=
  let v : Word := match x.lit with
    | some v => v
    | none => if x.fmt == .n32 || x.fmt == .n64 then x.imm.setWidth 64 else x.imm.signExtend 64
  maskW x.fmt.width v

def movi (x : Ext) (_ _ _ : Opnd) : Res := { val := moviVal x, tag := x.fmt }
def retag (x : Ext) (a _ _ : Opnd) : Res := { val := a.val, tag := x.fmt }

/-! ### `scan` and `lred` (R140) -/

/-- One step of an operation of `scan` and `lred` on two values of type `T`. -/
def combine (op : Nat) (t : Tag) (rnd : Rnd) (a b : Word) : Word × Flags :=
  match op with
  | 0 => (fit t false (valT t a + valT t b), 0)
  | 1 => (if valT t b < valT t a then b else a, 0)
  | 2 => (if valT t a < valT t b then b else a, 0)
  | 3 => (a &&& b, 0)
  | 4 => (a ||| b, 0)
  | 5 => (a ^^^ b, 0)
  | 6 => valOp .add t rnd [a, b]
  | 7 => perElem t [a, b] (fun xs => match xs with | [p, q] => minmax false (ofTag t) p q | _ => (0, 0))
  | _ => perElem t [a, b] (fun xs => match xs with | [p, q] => minmax true (ofTag t) p q | _ => (0, 0))

/-- The identity of an operation (R140). -/
def identity (op : Nat) (t : Tag) : Word :=
  match op with
  | 1 => narrow t (maxT t)
  | 2 => narrow t (minT t)
  | 3 => maskW t.width (BitVec.allOnes 64)
  | 6 => splat t (ofTag t).signBit
  | 7 => splat t (ofTag t).infCode
  | 8 => splat t ((ofTag t).signed true (ofTag t).infCode)
  | _ => 0

/-- The combination of a list of values, taken from the first (R140). -/
def reduce (op : Nat) (t : Tag) (rnd : Rnd) : List Word → Word × Flags
  | [] => (identity op t, 0)
  | v :: vs => vs.foldl (fun acc v => let r := combine op t rnd acc.1 v; (r.1, acc.2 ||| r.2)) (v, 0)

end Alu

end Sys2Proof.Machine
end

