-- ==== Sys2Proof/Config.lean ====
section
/-! DEFINITION. What is fixed for the part: the counts of its units (R12 to R32), and the free values: the
values that the spec leaves open, each a constant without a body, applied to a counter that the machine
advances, so that nothing can be proved of one. -/

namespace Sys2Proof.Config

/-- Cores of the device, and cores of a die (R13). -/
def cores : Nat := 144
def coresPerDie : Nat := 72
/-- Bytes of physical memory (R12): eight stacks of 48 GB, powers of ten (R1). -/
def hbmBytes : Nat := 8 * 48 * 10 ^ 9
/-- Shuttles of a core; swatch entries of a shuttle (R144); stitch slots of a core and of a shuttle (R21). -/
def shuttles : Nat := 6
def entriesPerShuttle : Nat := 256
def stitchSlots : Nat := 512
def boltSlots : Nat := 256
/-- Group-wide entries of a core (R22). -/
def groupEntries : Nat := 32768
/-- Entries of a core's TLB, and of a cluster's. -/
def tlbEntries : Nat := 512
def clusterTlb : Nat := 8192
/-- Scale-out links (R16). -/
def links : Nat := 18
/-- The features whose state the device implements (R184, R392): bit 0, the base set. -/
def features : Word := 1
/-- The number that stands for no tenancy: an access of the host link. -/
def noTenancy : Nat := 16
/-- The first byte of the reserved region: the top 512 MiB (R461). -/
def reservedBase : Nat := hbmBytes - 2 ^ 29

/-- A byte the spec gives no value to: the body of a context image (R389), a spilled
return entry (R156). -/
opaque freeByte : Nat → BitVec 8

/-- The bytes of a context image within its bound: VERSION 1's body is not laid out in the spec (R389, R390). -/
opaque imageBytes : Nat → Nat

/-- A depth of the L2 slices' queues, as a densitometer samples it (R442): the spec gives the queues no state. -/
opaque queueDepth : Nat → Nat

/-- A number of clocks that a densitometer samples: of a load's pass, a flit's round trip, a wait at a barrier (R442): the
spec states no latency. -/
opaque latency : Nat → Nat

/-- The energy coefficient of an accounting counter, in picojoules per unit: part of Goloc's measured
configuration (R466). -/
opaque energyPj : Nat → Nat

/-- Control-core cycles spent for a tenancy, on a translation or a service (R60, R466): the spec states no figure. -/
opaque controlCycles : Nat → Nat

/-- The interrupt vector that Goloc posts for the control program, among 2 to 7: the spec does not say which (R455). -/
opaque hostVector : Nat → Nat

/-- The device identity certificate, and the alias certificate, whose key comes of a fused secret and measurement indices
0 to 2 (R460): the spec gives neither's bytes. -/
opaque deviceCert : List (BitVec 8)
opaque aliasCert : Nat → Nat → Nat → List (BitVec 8)

/-- What an answer of SPDM carries beyond what the spec lays out: signatures, ephemeral keys (R460). -/
opaque spdmAnswer : Nat → List (BitVec 8)

/-- The digest of the fuse settings and ROM, and the keys they hold, are not given (R458): the outcome of
verifying a boot image's signature. -/
opaque imageVerifies : List (BitVec 8) → Bool

/-- The length of the base dies' firmware, of the boot loader and of Goloc in a boot image (R458): its layout is not given. -/
opaque imageCut : List (BitVec 8) → Nat → Nat

end Sys2Proof.Config
end

