-- ==== Sys2Proof/Machine/Tab.lean ====
section
/-! DEFINITION. Sparse tables: lists of key and value with rising keys, from which an absent key reads as a
default. Memories are such lists of bytes in canonical form: rising addresses, and no listed byte equal to
the zero that an unlisted address reads as. -/

namespace Sys2Proof.Machine

/-- A sparse table from numbers to values. -/
structure Tab (α : Type) where
  ents : List (Nat × α) := []
  deriving DecidableEq, Repr

/-- The value under a key. -/
def lookup {α : Type} (k : Nat) : List (Nat × α) → Option α
  | [] => none
  | (j, v) :: r => if j = k then some v else lookup k r

/-- The list with a key's value put in its place. -/
def insertAt {α : Type} (k : Nat) (v : α) : List (Nat × α) → List (Nat × α)
  | [] => [(k, v)]
  | (j, w) :: r =>
    if k < j then (k, v) :: (j, w) :: r
    else if k = j then (k, v) :: r
    else (j, w) :: insertAt k v r

/-- The list without a key. -/
def removeAt {α : Type} (k : Nat) : List (Nat × α) → List (Nat × α)
  | [] => []
  | (j, w) :: r => if j = k then removeAt k r else (j, w) :: removeAt k r

/-- A list with an element put before the first that it does not exceed. -/
def insertBy {α : Type} (le : α → α → Bool) (x : α) : List α → List α
  | [] => [x]
  | y :: r => if le x y then x :: y :: r else y :: insertBy le x r

/-- A list in order; equals keep their order. -/
def sortBy {α : Type} (le : α → α → Bool) : List α → List α
  | [] => []
  | x :: r => insertBy le x (sortBy le r)

namespace Tab

variable {α : Type}

def get? (t : Tab α) (k : Nat) : Option α := lookup k t.ents
def getD (t : Tab α) (k : Nat) (d : α) : α := (lookup k t.ents).getD d
def set (t : Tab α) (k : Nat) (v : α) : Tab α := ⟨insertAt k v t.ents⟩
def erase (t : Tab α) (k : Nat) : Tab α := ⟨removeAt k t.ents⟩
def has (t : Tab α) (k : Nat) : Bool := (lookup k t.ents).isSome
def keys (t : Tab α) : List Nat := t.ents.map Prod.fst
def vals (t : Tab α) : List α := t.ents.map Prod.snd
def size (t : Tab α) : Nat := t.ents.length
def empty : Tab α := ⟨[]⟩

end Tab

/-- A memory: a list of addressed bytes. -/
abbrev Mem := List Host.Cell

/-- What an unlisted address reads as. -/
def unlisted : Byte := 0

/-- The byte at an address. -/
def Mem.read (m : Mem) (a : Nat) : Byte := (lookup a m).getD unlisted

/-- The memory with one byte written; writing the byte that an unlisted address reads as removes the entry. -/
def Mem.write (m : Mem) (a : Nat) (b : Byte) : Mem :=
  if b = unlisted then removeAt a m else insertAt a b m

/-- The keys rise strictly from above `lo` on. -/
def risingFrom {α : Type} : Option Nat → List (Nat × α) → Bool
  | _, [] => true
  | lo, (k, _) :: r => (match lo with | none => true | some l => decide (l < k)) && risingFrom (some k) r

/-- The canonical form of a memory. -/
def Mem.wf (m : Mem) : Bool := risingFrom none m && m.all (fun c => c.2 != unlisted)

/-- `n` bytes from an address. -/
def Mem.bytes (m : Mem) (a : Nat) : Nat → List Byte
  | 0 => []
  | n + 1 => m.read a :: Mem.bytes m (a + 1) n

/-- Bytes written from an address on. -/
def Mem.writeBytes (m : Mem) (a : Nat) : List Byte → Mem
  | [] => m
  | b :: bs => Mem.writeBytes (m.write a b) (a + 1) bs

/-- A little-endian number (R2). -/
def ofLE : List Byte → Nat
  | [] => 0
  | b :: bs => b.toNat + 256 * ofLE bs

/-- The `n` little-endian bytes of a number (R2). -/
def toLE (v : Nat) : Nat → List Byte
  | 0 => []
  | n + 1 => BitVec.ofNat 8 v :: toLE (v / 256) n

/-- The little-endian number of `n` bytes at an address. -/
def Mem.readN (m : Mem) (a n : Nat) : Nat := ofLE (m.bytes a n)

/-- A number stored in `n` bytes. -/
def Mem.writeN (m : Mem) (a n v : Nat) : Mem := m.writeBytes a (toLE v n)

/-- The memory with `n` bytes from an address made zero. -/
def Mem.zero (m : Mem) (a n : Nat) : Mem := m.filter (fun c => c.1 < a || a + n ≤ c.1)

end Sys2Proof.Machine
end

