-- ==== Sys2Proof/Machine/State.lean ====
section
/-! DEFINITION. The state of the Biresque Q2, as plain data: everything the spec gives the machine. A `Tab`
is a sparse table; what an absent key reads as is said where the table is read (`Ops.lean`), and is the
value of reset. -/

namespace Sys2Proof.Machine

/-- Why a step stops the whole model with a fault. -/
inductive Fault where
  /-- Raised by no instruction and no event: a place beyond the installed HBM (R12) has no translation, and its access
  takes cause 0x08 (log entry 6). Kept as the closed list's one member. Safe. -/
  | absentPhysical (pa : Nat)
  deriving DecidableEq, Repr

/-- Why a step has no meaning. -/
inductive Refusal where
  /-- Raised by the dispatch of an instruction that has no meaning yet, by its mnemonic. Safe. -/
  | notModelled (mnemonic : String)
  deriving DecidableEq, Repr

/-! ### Names (R61 to R71) -/

/-- The state of one lane of a name (R61); `discarding` is R71's. -/
inductive CellSt where
  | exhausted | empty | full | discarding
  deriving DecidableEq, Repr

/-- One lane of a vector name, or a group-wide name. -/
structure Cell where
  st   : CellSt := .exhausted
  /-- The remaining count, 0 to 15; 15 is held (R62). -/
  cnt  : Nat := 0
  tag  : Tag := .bits32
  val  : Word := 0
  /-- The mark of an uncorrectable error (R381). -/
  poison : Bool := false
  /-- The pending delivery's identifier; 0 is none. -/
  pend : Nat := 0
  /-- Bits to flip when the value is delivered (R393). -/
  flip : Word := 0
  /-- Bits that differ from what the check bits were formed of (R393, R419), in its row and in the name table. -/
  ecc  : Word := 0
  tecc : Word := 0
  deriving DecidableEq, Repr

/-! ### Records posted to Goloc's event queue -/

/-- A fault record, a service request, a pre-emption record or a stop record: the layout of R374. -/
structure FaultRec where
  cause   : Nat
  shuttle : Nat := 0
  core    : Nat := 0
  bolt    : Nat := 0
  entry   : Nat := 0
  pc      : Word := 0
  addr    : Word := 0
  mask    : StitchMask := 0
  launch  : Word := 0
  time    : Word := 0
  regions : List Nat := []
  deriving DecidableEq, Repr

/-- A completion record or a work record (R380, R408). -/
structure DoneRec where
  type     : Nat
  status   : Nat
  source   : Nat := 0
  seq      : Nat := 0
  object   : Word := 0
  progress : Nat := 0
  time     : Word := 0
  deriving DecidableEq, Repr

/-- A block record (R440). -/
structure BlockRec where
  shuttle : Nat
  core    : Nat
  bolt    : Nat
  launch  : Word
  admitted : Word
  exit    : Word
  issued  : Nat
  regions : List Nat
  sheet   : List Nat
  deriving DecidableEq, Repr

/-- What the machine posts to the outside: records on Goloc's queue, messages on the links, answers to the
host and the management controller, interrupt vectors. -/
inductive Post where
  | fault (r : FaultRec)
  | done (r : DoneRec)
  | block (r : BlockRec)
  /-- An engine waits for a page (R283): engine, core or die, operation. -/
  | page (engine core op : Nat) (va : Word)
  /-- An access event of R214: the 2 MiB region of the physical address. -/
  | access (region : Nat)
  /-- MSI-X vector of a virtual function (R455). -/
  | vector (fn vec : Nat)
  /-- A message on a link: the device's table (R349), a link-down notice (R348). -/
  | table (link : Nat) (version : BitVec 32) (rows : List (Nat × List Word))
  | linkDown (link : Nat)
  | partialMsg (link : Nat) (hdr : CollHdr) (chunk : Nat) (bytes : List Byte)
  | resultMsg (link : Nat) (hdr : CollHdr) (chunk : Nat) (bytes : List Byte)
  | doneTok (link : Nat) (hdr : CollHdr)
  | complete (link : Nat) (hdr : CollHdr)
  | abort (link : Nat) (hdr : CollHdr)
  /-- A set of final chunks, with the failed link ends that its sender knows (R356). -/
  | exchUp (link : Nat) (hdr : CollHdr) (failed : List (Nat × Nat)) (final : List Nat)
  | exchDown (link : Nat) (hdr : CollHdr) (failed : List (Nat × Nat)) (final : List Nat)
  /-- The bytes of a read through the direct window, poisoned where HBM holds an error in them that cannot be corrected (R419),
  or Unsupported Request (R456). -/
  | hostRead (bytes : List Byte) (poison : Bool := false)
  | unsupportedRequest
  /-- An answer of SPDM (R460): the request's name and what it reports. -/
  | spdm (name : String) (data : List Byte)
  /-- A register's word, read through a port (R455, R457). -/
  | regRead (port : Port) (value : Nat)
  /-- A strap or board action of R462. -/
  | coldStrap
  deriving DecidableEq, Repr

/-! ### Translations -/

/-- A leaf of a page table (R210). -/
structure Leaf where
  pa  : Nat
  /-- log2 of the page's bytes: 16, 21 or 30. -/
  log : Nat
  acc : Bool
  tck : Bool
  mov : Bool
  x   : Bool
  w   : Bool
  rd  : Bool
  deriving DecidableEq, Repr

/-- A TLB entry (R208, R327). -/
structure TlbEnt where
  ten  : Nat
  /-- The address of the page's first byte. -/
  base : Nat
  leaf : Leaf
  /-- The tile that a tacked tile's contents live at. -/
  tack : Option Nat := none
  deriving DecidableEq, Repr

/-! ### Swatches, join records, return entries (R144 to R158) -/

/-- Why a swatch does not issue. -/
inductive Wait where
  | ready
  /-- It waits at an instruction that it takes again from its start; the stall cause of R438. -/
  | retry (cause : Nat)
  /-- It has arrived at the join of a record (R149). -/
  | join (rec : Nat)
  /-- It has returned from its piece of a serial record (R158). -/
  | piece (rec : Nat)
  /-- It is parked on a fault, for Goloc to answer (R373). -/
  | parked
  /-- Its delegable fault waits for the bolt's handler to end (R373). -/
  | deferred
  /-- A walk of the page of an address is outstanding (R208). -/
  | walk (va : Word)
  deriving DecidableEq, Repr

/-- The safelight context of a swatch (R436). -/
structure Safe where
  probe : Nat
  pc    : Word
  k     : Tab Mask
  q     : BitVec 8
  /-- The lanes that the probed instruction still has to execute, when it is a replay (R375). -/
  unfin : Option Mask := none
  deriving DecidableEq, Repr

/-- A swatch entry (R144), with what a wait or a fault of its instruction leaves to it. -/
structure Swatch where
  mask  : Mask := 0
  pc    : Word := 0
  depth : Nat := 0
  jtop  : Option Nat := none
  rtop  : Option Nat := none
  st    : Wait := .ready
  /-- The record on which it is parked, and `TRAP.VEC` when its fault was raised (R383). -/
  frec  : Option FaultRec := none
  vec   : Word := 0
  /-- The lanes that a replay executes (R375); none is all. -/
  unfin : Option Mask := none
  /-- The context area's lane masks (R80, R208, R374). -/
  ctx   : Mask := 0
  /-- Pages whose walk failed, for the instruction's next try: page number and cause. -/
  bad   : List (Nat × Nat) := []
  /-- Translations that walks have brought for the instruction (R208). -/
  walked : List TlbEnt := []
  /-- Issue once without the watch comparison (R433), and the instruction at a PC once without
  matching a probe (R435). -/
  noWatch : Bool := false
  noProbe : Option Word := none
  safe  : Option Safe := none
  /-- After `yield`: the swatches (shuttle key) still to issue once (R164). -/
  yield : List Nat := []
  /-- The clock of its shuttle at the `yield` (R164). -/
  yieldAt : Nat := 0
  /-- The rows and the group-wide entries that its stalled allocation asks of the pools (R74). -/
  short : Option (Nat × Nat) := none
  /-- The rows and entries of the pools that a grant keeps for it until it issues again (R74). -/
  grant : Nat × Nat := (0, 0)
  /-- The heartbeat value seen when a wait for the next edge began (R234, R245). -/
  edge  : Option Word := none
  /-- How far an instruction of several waits has come: 0 at its start. -/
  phase : Nat := 0
  /-- A result kept between the waits of one instruction. -/
  hold  : Word := 0
  /-- It runs in native form (R58). -/
  native : Bool := false
  /-- The order of arrival at a join or a piece's end. -/
  order : Nat := 0
  /-- It waits whole on EMPTY lanes (R69): its instruction's active lanes and blocking names. -/
  block  : Option (Mask × List Code) := none
  /-- It runs in the bolt's handler (R373). -/
  hand   : Bool := false
  /-- Bits of the entry that differ from what its check bits were formed of (R419). -/
  ecc    : Word := 0
  deriving DecidableEq, Repr

/-- A join record, or the serial record of a `callx` (R146, R158). -/
structure JoinRec where
  ljoin  : Word := 0
  e      : Mask := 0
  a      : Mask := 0
  rt     : Option Nat := none
  link   : Option Nat := none
  serial : Bool := false
  /-- The pieces not yet begun, by rising target; the current piece; the lanes that have returned. -/
  pieces : List (Word × Mask) := []
  piece  : Mask := 0
  back   : Mask := 0
  /-- The instruction after the `callx`, and the `callx` itself. -/
  after  : Word := 0
  at_    : Word := 0
  /-- The next piece's target has failed, in a swatch in the bolt's handler or not: the `callx`, run again, goes on. -/
  stuck  : Option Bool := none
  /-- Bits that differ from what its check bits were formed of (R419). -/
  ecc    : Word := 0
  deriving DecidableEq, Repr

/-- A return entry (R155). -/
structure RetEnt where
  addr   : Word := 0
  link   : Option Nat := none
  serial : Option Nat := none
  /-- It stands in the spill area (R156). -/
  spilled : Bool := false
  /-- The order of pushing. -/
  order  : Nat := 0
  /-- Bits that differ from what its check bits were formed of (R419). -/
  ecc    : Word := 0
  deriving DecidableEq, Repr

/-! ### Transactions (R256 to R264) -/

/-- The transaction state of a lane. -/
structure Tx where
  act   : Bool := false
  doom  : Bool := false
  irr   : Bool := false
  cause : Nat := 0
  code  : Nat := 0
  att   : Nat := 0
  /-- It is due for the token, and has begun a normal attempt (R261). -/
  waits : Bool := false
  /-- Age: `HB.NOW` at the first attempt's `txbegin`, and its PC (R261). -/
  age   : Word := 0
  pc    : Option Word := none
  /-- The read set: physical words with the value first read. -/
  rd    : List (Nat × Word) := []
  /-- The write set: bytes by physical address, and the words they stand in. -/
  wr    : Tab Byte := {}
  wrw   : List Nat := []
  /-- The virtual addresses of the words of both sets, and the ACC of their leaves. -/
  vas   : Tab (Word × Bool) := {}
  /-- Lines an irrevocable lane holds, or a commit has locked. -/
  lines : List Nat := []
  /-- At `txend`: 0 not there, 1 to be decided, 2 committed, 3 aborted. -/
  dec   : Nat := 0
  /-- Its commit has begun to write (R260, step 5). -/
  begun : Bool := false
  deriving DecidableEq, Repr

/-! ### Bolts -/

/-- The TRAP registers and what `trapret` compares (R378, R379, R382). -/
structure Trap where
  vec   : Word := 0
  deleg : Word := 0
  cause : Nat := 0
  act   : Bool := false
  pc    : Word := 0
  addr  : Word := 0
  mask  : StitchMask := 0
  lfail : Mask := 0
  /-- The swatch at delivery. -/
  ent   : Nat := 0
  lanes : Mask := 0
  depth : Nat := 0
  jtop  : Option Nat := none
  rtop  : Option Nat := none
  deriving DecidableEq, Repr

/-- A stop of a bolt (R426 to R430). -/
structure Stop where
  stopped : Bool := false
  /-- A request has arrived and not landed: its reason. -/
  request : Option Nat := none
  skid    : Nat := 0
  /-- The swatch released for one step. -/
  stepEnt : Option Nat := none
  /-- The swatch that issued last. -/
  last    : Nat := 0
  /-- A region edge has passed since the request, or in the step (R427, R428). -/
  edge    : Bool := false
  /-- The clock of the bolt's shuttle at the request (R427). -/
  since   : Nat := 0
  deriving DecidableEq, Repr

/-- A bolt in a slot of a core. -/
structure Bolt where
  ten     : Nat := 0
  launch  : Word := 0
  panel   : Nat := 0
  index   : Nat := 0
  age     : Nat := 0
  shuttle : Nat := 0
  prio    : Nat := 0
  stitches : Nat := 1
  /-- The split-on-empty setting of the kernel descriptor (R69). -/
  splitEmpty : Bool := false
  peak    : Nat := 0
  floor   : Nat := 0
  gpeak   : Nat := 0
  gfloor  : Nat := 0
  /-- LN.PRIV (R382). -/
  priv    : Bool := false
  errinj  : Bool := false
  staged  : Bool := false
  copyB   : Bool := false
  /-- The shuttle that the special registers of both copies of a twin report (R414). -/
  asShuttle : Option Nat := none
  /-- Names: key `1024·v + lane`, or `262144 + g`; the safelight bank's group names from `263168` on,
  its vector names from `524288` on. Absent is EXHAUSTED. -/
  regs    : Tab Cell := {}
  /-- Predicates k1 to k7; absent is all false. -/
  k       : Tab Mask := {}
  q       : BitVec 8 := 0
  sw      : Tab Swatch := {}
  joins   : Tab JoinRec := {}
  rets    : Tab RetEnt := {}
  flags   : BitVec 5 := 0
  /-- Flags recorded while a `setsp` of `FX.FLAGS` waits, with serial numbers (R135). -/
  flagLog : List (Nat × BitVec 5) := []
  trap    : Trap := {}
  /-- Unused reserved rows by stitch, unused reserved group entries (R91). -/
  resv    : Tab Nat := {}
  gresv   : Nat := 0
  /-- The pin list: tile and count (R333). -/
  pins    : List (Nat × Nat) := []
  /-- The region stack: its depth, the innermost identifiers first (R425). -/
  rdepth  : Nat := 0
  regions : List Nat := []
  /-- The contact sheet (R439). -/
  sheet   : Tab Nat := {}
  issued  : Nat := 0
  admitted : Word := 0
  /-- The clock of its shuttle at its last issue or wind-in (R75, R427). -/
  lastClk : Nat := 0
  /-- Rows that the bobbin cache region holds for it while it is parked (R77). -/
  cached  : Nat := 0
  /-- Being wound out, and wound out to its bobbin (R76); protected after a wind-in (R75): instructions issued
  since. -/
  winding : Bool := false
  parked  : Bool := false
  protect : Option Nat := none
  tx      : Tab Tx := {}
  stop    : Stop := {}
  /-- Its last lane has left. -/
  left    : Bool := false
  /-- The panel stops for a save or a cancel: no swatch issues. -/
  frozen  : Bool := false
  /-- Order stamps for joins, returns. -/
  stamp   : Nat := 0
  deriving DecidableEq, Repr

/-! ### Panels (R25, R270) -/

/-- A barrier register (R270). -/
structure Bar where
  gen : Nat := 0
  err : Bool := false
  exp : Nat := 0
  arr : Nat := 0
  eng : Nat := 0
  /-- Bits that differ from what the check bits were formed of. -/
  ecc : Word := 0
  deriving DecidableEq, Repr

/-- A panel on a core. -/
structure Panel where
  launch : Word := 0
  ten    : Nat := 0
  x : Nat := 0
  y : Nat := 0
  z : Nat := 0
  /-- The group of R401: its first member's linear index, and this panel's member number. -/
  group  : Nat := 0
  member : Nat := 0
  copyB  : Bool := false
  scrOff : Nat := 0
  scrSize : Nat := 0
  nbolt  : Nat := 1
  /-- Bolts that have not left (R406). -/
  out    : Nat := 0
  cancelled : Bool := false
  /-- Bits of its counter that differ from what the check bits were formed of (R419). -/
  ecc    : Word := 0
  /-- The core that the special registers of both copies of a twin report (R414). -/
  asCore : Option Nat := none
  bars   : Tab Bar := {}
  deriving DecidableEq, Repr

/-! ### Deliveries and pending stores (R70, R71, R226) -/

/-- What a pending delivery brings. -/
inductive Bring where
  /-- A value in hand, with the flags its producer records (R135). -/
  | value (v : Word) (tag : Tag) (flags : BitVec 5) (poison : Bool)
  /-- A load of `size` bytes at a physical address, from an address of the tenancy (R216); `acc` is its
  leaf's ACC (R214). -/
  | load (pa : Nat) (va : Word) (size : Nat) (tag : Tag) (signed acc : Bool)
  /-- A value that an agent outside the core brings: an engine's sweep, a remote barrier, a service, the
  admission of an image. -/
  | await (tag : Tag)
  deriving DecidableEq, Repr

/-- A pending delivery. -/
structure Delivery where
  id    : Nat
  core  : Nat
  slot  : Nat
  /-- Where it goes; `rebind` moves it (R87). -/
  key   : Nat
  /-- The lane that issued it; none on the group side. -/
  lane  : Option Nat
  /-- A load or an atomic, for the waits of R231 and R232. -/
  mem   : Bool
  /-- Stall cause 3 rather than 2 (R69). -/
  long  : Bool := false
  bring : Bring
  /-- The pass of the load that missed, for a densitometer's sample at its last delivery (R442); 0 is none. -/
  pass  : Nat := 0
  /-- A load whose tile has moved under it waits to be translated again (R329). -/
  again : Bool := false
  deriving DecidableEq, Repr

/-- An arrival of `arrive.r` on its way: its barrier, its count, the deliveries that get GEN. -/
structure Remote where
  core  : Nat
  panel : Nat
  bar   : Nat
  n     : Nat
  dlvs  : List Nat := []
  deriving DecidableEq, Repr

/-- A store issued and not yet performed (R226). -/
structure PStore where
  id    : Nat
  pa    : Nat
  va    : Word
  bytes : List Byte
  ten   : Nat := 0
  launch : Word := 0
  /-- Its leaf's ACC (R214). -/
  acc   : Bool := false
  /-- A staged store of copy A (false) or B (R412). -/
  stg   : Option Bool := none
  /-- Its tile has moved under it, and it waits to be translated again (R329). -/
  again : Bool := false
  deriving DecidableEq, Repr

/-- A word of an L1 (R205): its owned bit and its bytes, with the bits that parity would find changed. -/
structure L1Word where
  owned : Bool := false
  val   : Word := 0
  bad   : Bool := false
  deriving DecidableEq, Repr

/-- A word of an instruction-cache line, with what the cache keeps of the start map beside it (R36): its bit, the tenancy and
address that it was fetched for, and the bounds of the code object that held it then. -/
structure IWord where
  word  : W32
  start : Bool
  key   : Option (Nat × Nat) := none
  obj   : Option (Nat × Nat) := none
  deriving DecidableEq, Repr

/-! ### Engines -/

/-- What a copy moves (R277, R287). -/
inductive CopyKind where
  | ld | st | lin
  deriving DecidableEq, Repr

/-- Where an access goes: a global address, or an offset in a core's scratchpad array. -/
inductive Place where
  | glob (va : Word)
  | scr (core off : Nat)
  deriving DecidableEq, Repr, Inhabited

/-- A receiver of a multicast: its panel, whether the command has reached it, and whether its barrier counts
the copy. -/
structure Recv where
  core    : Nat
  panel   : Nat
  reached : Bool := false
  counted : Bool := false
  deriving DecidableEq, Repr

/-- A copy in the buffer pool (R278 to R285). -/
structure Copy where
  /-- Its serial number at its engine (R380). -/
  id     : Nat
  kind   : CopyKind
  /-- The record type: 1 tcopy, 2 tmcast, 3 a request. -/
  type   : Nat
  /-- The layout record of a box copy. -/
  lay    : Place := .glob 0
  /-- The source of `.lin` and `.st`, and the destinations of `.lin` and of a load into scratchpad: one, or one
  for each receiver. -/
  src    : Place := .glob 0
  dst    : List Place := []
  coord  : List Int := []
  len    : Nat := 0
  tray   : Option Nat := none
  recv   : List Recv := []
  bar    : Option Nat := none
  /-- A request whose issue overflowed its barrier is not counted there. -/
  counted : Bool := true
  wrec   : Bool := false
  panel  : Nat
  launch : Word
  ten    : Nat
  /-- The staged copy that its writes belong to (R412). -/
  stg    : Option Bool := none
  queue  : Nat
  /-- Stores and atomics issued before it (R237): it starts when none of them is pending. -/
  after  : Nat
  started : Bool := false
  /-- The layout record, as read at the start: its 64 bytes. -/
  layout : List Byte := []
  /-- Waits for a page (R283). -/
  page   : Option Word := none
  /-- Chunks landed, of the bytes in all. -/
  done   : Nat := 0
  total  : Nat := 0
  /-- The list it came from, for an arrive request (R287). -/
  list   : Option Nat := none
  deriving DecidableEq, Repr

/-- An operation of the matrix engine (R298 to R315). -/
structure MxOp where
  /-- Its serial number at its engine (R380). -/
  id     : Nat
  /-- 0 mma, 1 mmac, 2 accst. -/
  kind   : Nat
  /-- The form's FMT: A's format, or an `accst`'s. -/
  afmt   : Tag := .bits32
  desc   : Word := 0
  ta     : Nat := 0
  region : Nat
  pair   : Bool := false
  ck     : Bool := false
  /-- Where an `accst`'s rows go. -/
  dst    : Place := .glob 0
  pitch  : Nat := 0
  rnd    : Rnd := .rne
  bar    : Option Nat := none
  wrec   : Bool := false
  panel  : Nat
  launch : Word
  ten    : Nat
  /-- The staged copy that its writes belong to (R412). -/
  stg    : Option Bool := none
  after  : Nat
  /-- The copies into its trays issued before its acceptance, by core and serial number. -/
  fills  : List (Nat × Nat) := []
  /-- An `accst` that the engine has taken up (R30, R237): its rows are registered (R238). -/
  held   : Bool := false
  started : Bool := false
  /-- K-steps or rows performed. -/
  step   : Nat := 0
  page   : Option Word := none
  /-- The checksum operands of R306, as F32 codes. -/
  ack    : List Nat := []
  bck    : List Nat := []
  /-- A word that forming them has read is uncorrectable. -/
  ckBad  : Bool := false
  /-- The region as read by an `accst`. -/
  rows   : List (BitVec 32) := []
  /-- The pattern store as it stood at the start (R299). -/
  table  : Tab (BitVec 32) := {}
  deriving DecidableEq, Repr

/-- A request list being read, or waiting in the kick register (R287, R288). -/
structure ReqList where
  id    : Nat
  panel : Nat
  addr  : Word
  /-- Stores and atomics issued before it (R237). -/
  after : Nat
  deriving DecidableEq, Repr

/-- A save under way (R386): its panel, the image's address, the slot that its record names; for a `ctxsave` the
swatch and the name of its operand; whether it waits for a page (R390). -/
structure Save where
  panel : Nat
  addr  : Word
  slot  : Nat
  by_   : Option (Nat × Code) := none
  page  : Bool := false
  deriving DecidableEq, Repr

/-- A core (R13 to R29). -/
structure Core where
  ubReg : Nat := 96
  ubScr : Nat := 64
  ubL1  : Nat := 32
  ubRej : Bool := false
  fenced : Bool := false
  /-- The scratchpad array by offset, and its ECC flips by 4-byte word. -/
  scr   : Mem := []
  scrEcc : Tab Word := {}
  bolts : Tab Bolt := {}
  panels : Tab Panel := {}
  ageNext : Nat := 0
  panelNext : Nat := 0
  l1    : Tab L1Word := {}
  icache : Tab IWord := {}
  tlb   : List TlbEnt := []
  /-- Stores in issue order (R226). -/
  stq   : List PStore := []
  /-- Trays: owner by number (panel identifier), bytes at `4096·tray + offset`, ECC flips by word. -/
  trayOwn : Tab Nat := {}
  tray  : Mem := []
  trayEcc : Tab Word := {}
  /-- Accumulator regions: owner, tag S32, words at `1024·region + index`, ECC flips by word. -/
  regOwn : Tab Nat := {}
  regS32 : Tab Bool := {}
  acc   : Tab (BitVec 32) := {}
  accEcc : Tab Word := {}
  /-- The pattern store: leaders that differ from the default, its owner, regeneration, parity errors. -/
  leaders : Tab (BitVec 32) := {}
  psOwner : Option Word := none
  psRegen : Bool := false
  psBad : List Nat := []
  mxq   : List MxOp := []
  copies : List Copy := []
  deficit : Tab Nat := {}
  /-- The queue the engine is visiting, and whether it has added its quantum on this visit. -/
  cqAt  : Nat := 0
  cqIn  : Bool := false
  /-- The copy that a queue sent from last, by queue: the rotation of R285. -/
  cqLast : Tab Nat := {}
  cqMin : Tab Nat := {}
  cqCap : Tab Nat := {}
  cqQuant : Tab Nat := {}
  kicks : List ReqList := []
  /-- The clock of each shuttle (R163): issues and clocks without one. -/
  clock : Tab Nat := {}
  /-- `PE.CTL` (R385): the fields as they are read, and the save running. -/
  peBolt : Nat := 0
  peImg : Nat := 0
  peFail : Bool := false
  peDone : Bool := false
  save  : Option Save := none
  /-- Stop records, each to be posted once the core's stores before its serial number are performed (R428). -/
  stopRecs : List (FaultRec × Nat) := []
  /-- `DB.CORE`: BOLT and ENTRY. -/
  dbBolt : Nat := 0
  dbEntry : Nat := 0
  /-- Engine stall counters: `4·engine + cause` (R441). -/
  es    : Tab Nat := {}
  /-- Corrected errors (R419). -/
  corrected : Nat := 0
  /-- `cinv.all` and `cwb` waits: line acknowledgements outstanding. -/
  acks  : List Nat := []
  deriving DecidableEq, Repr

/-! ### Launches and the work hierarchy (R397 to R417) -/

/-- A launch, from its record (R398) and its kernel's descriptor (R179). -/
structure Launch where
  id     : Word
  ten    : Nat := 0
  q      : Nat := 0
  kdesc  : Word := 0
  entry  : Word := 0
  argbase : Word := 0
  tilekey : Word := 0
  nx : Nat := 1
  ny : Nat := 1
  nz : Nat := 1
  tshift : Nat := 0
  nbolt  : Nat := 1
  group  : Nat := 0
  prio   : Nat := 0
  stage  : Bool := false
  twin   : Bool := false
  priv   : Bool := false
  errinj : Bool := false
  bound  : Nat × Nat × Nat := (96, 64, 32)
  scratch : Nat := 0
  stgcap : Nat := 0
  bobbin : Word := 0
  stack  : Word := 0
  graph  : Word := 0
  phase  : Word := 0
  job    : Word := 0
  lanes  : Nat := 8
  split  : Bool := false
  peak   : Nat := 0
  floor  : Nat := 0
  gpeak  : Nat := 0
  gfloor : Nat := 0
  stkSize : Nat := 0
  features : Word := 0
  /-- Panel groups dispatched; panels not complete, and complete (R406, R408). -/
  sent   : Nat := 0
  out    : Nat := 0
  done   : Nat := 0
  /-- The copies of panels that are complete, or will not run: their places, and whether they are copies B (R407, R414). -/
  ended  : List (Nat × Nat × Nat × Bool) := []
  cancelled : Bool := false
  complete : Bool := false
  /-- Staged bytes of copies A and B by virtual address, and the core that staged each word (R412). -/
  stgA   : Tab Byte := {}
  stgB   : Tab Byte := {}
  stgCore : Tab Nat := {}
  /-- Bits of staged words that differ from what the check bits were formed of (R393), by virtual address, those of copy B
  from 2^64 on. -/
  stgEcc : Tab Word := {}
  /-- Differing runs (R414), rollbacks (R416), a run unstaged after exceeding STGCAP (R417). -/
  differ : Nat := 0
  rolled : Nat := 0
  unstaged : Bool := false
  /-- Its attempt is rolled back; the attempt has ended, and the same record is to come again (R416). -/
  rollback : Bool := false
  requeue : Bool := false
  /-- An engine has consumed an uncorrectable error for it (R381, R416, R417). -/
  engBad : Bool := false
  /-- A status that its record will carry in place of 0. -/
  status : Option Nat := none
  /-- Bits of its counter that differ from what the check bits were formed of. -/
  ecc    : Word := 0
  deriving DecidableEq, Repr

/-- A graph, phase or job (R406). -/
structure Obj where
  level  : Nat
  id     : Word
  parent : Word := 0
  out    : Nat := 0
  children : Nat := 0
  sealed : Bool := false
  cancelled : Bool := false
  complete : Bool := false
  status : Option Nat := none
  ecc    : Word := 0
  deriving DecidableEq, Repr

/-- A launch queue (R397). -/
structure LaunchQ where
  addr  : Nat := 0
  log2n : Nat := 0
  cons  : Nat := 0
  prod  : Nat := 0
  deriving DecidableEq, Repr

/-! ### Relocation (R324 to R340) -/

/-- A move or a sweep (R328, R337). -/
structure RelOp where
  id     : Nat
  /-- Its serial number at its engine (R380). -/
  seq    : Nat := 0
  die    : Nat
  core   : Nat
  /-- A sweep rather than a move. -/
  sweep  : Bool
  ten    : Nat
  launch : Word
  panel  : Nat
  /-- Tiles of a move; HOLD of the command. -/
  x      : Nat := 0
  y      : Nat := 0
  holders : Nat := 0
  bar    : Option Nat := none
  wrec   : Bool := false
  /-- A sweep: its array, count, tile and delivery. -/
  arr    : Place := .glob 0
  n      : Nat := 0
  tile   : Option Nat := none
  dlv    : Nat := 0
  long   : Bool := false
  rewritten : Nat := 0
  /-- 0 waits to start, 1 copying or sweeping, 2 tacked and shooting down. -/
  stage  : Nat := 0
  done   : Nat := 0
  after  : Nat
  page   : Option Word := none
  /-- It has entered the engine's places (R336). -/
  entered : Bool := true
  /-- The lines of Y have been held, and the transactions on them doomed (R328, step 2). -/
  yheld  : Bool := false
  deriving DecidableEq, Repr

/-! ### Collectives (R346 to R364) -/

/-- An operation of the collective engine. -/
structure CollOp where
  seq    : Nat
  hdr    : CollHdr
  dst    : Word
  src    : Word
  core   : Nat
  panel  : Nat
  launch : Word
  bar    : Option Nat
  wrec   : Bool
  after  : Nat
  started : Bool := false
  /-- Notches by chunk (R353). -/
  notch  : Tab Nat := {}
  /-- Partials received: chunk, link, bytes; a result from the parent and a root's own fold stand among them. -/
  parts  : List (Nat × Nat × List Byte) := []
  /-- Done tokens received, by link; whether its own has gone up. -/
  tokens : List Nat := []
  doneUp : Bool := false
  /-- 1 running, 2 settling, 3 exchanging, 4 redoing, 5 aborted, 6 completion wave (R364). -/
  state  : Nat := 1
  /-- The sets of final chunks received in an exchange, by link. -/
  exch   : List (Nat × List Nat) := []
  status : Nat := 0
  page   : Option (Nat × Word) := none
  /-- A chunk waits for a line that a move has taken (R329). -/
  busy   : Bool := false
  deriving DecidableEq, Repr

/-- A message of an operation, as it arrives (R352 to R358). -/
inductive CollMsg where
  | part (hdr : CollHdr) (chunk link : Nat) (bytes : List Byte)
  | result (hdr : CollHdr) (chunk : Nat) (bytes : List Byte)
  | done (hdr : CollHdr) (link : Nat)
  | complete (hdr : CollHdr)
  | up (hdr : CollHdr) (link : Nat) (failed : List (Nat × Nat)) (final : List Nat)
  | down (hdr : CollHdr) (failed : List (Nat × Nat)) (final : List Nat)
  | abort (hdr : CollHdr)
  deriving DecidableEq, Repr

/-- A link of this device (R346, R348). -/
structure Link where
  up      : Bool := false
  fail    : Bool := false
  peerdev : Nat := 0
  peerlink : Nat := 0
  en      : Bool := false
  /-- How often each flit has been received in error, by its number on the link (R348). -/
  replays : Tab Nat := {}
  deriving DecidableEq, Repr

/-- An edge of a tree, from the end nearer the root (R350). -/
structure Edge where
  u : Nat
  i : Nat
  v : Nat
  k : Nat
  deriving DecidableEq, Repr

/-- The collective domain (R346 to R350). -/
structure Dom where
  settle : Nat := 0x400
  abort  : Bool := false
  size   : Nat := 0
  self   : Nat := 0
  ten    : Nat := 0
  en     : Bool := false
  links  : Tab Link := {}
  epoch  : Nat := 0
  /-- The highest epoch that a table or a message has shown, enabled or not (R347). -/
  seen   : Nat := 0
  nfail  : Nat := 0
  /-- The rows of the epoch, by device. -/
  rows   : Tab (List Word) := {}
  /-- `HB.NOW` at the last change of the table. -/
  changed : Word := 0
  trees  : List (List Edge) := []
  current : Bool := false
  seqNext : Nat := 0
  /-- `seqNext` when the device adopted the version (R356). -/
  base   : Nat := 0
  ops    : List CollOp := []
  /-- The last operations that have completed (R354). -/
  past   : List CollOp := []
  /-- Aborted operations not yet reported (R364). -/
  aborted : List CollOp := []
  /-- Flits sent and not acknowledged yet, by link (R348, R442). -/
  unack  : Tab Nat := {}
  /-- Messages of operations that this device has not accepted yet (R355). -/
  early  : List CollMsg := []
  deriving DecidableEq, Repr

/-! ### Debug (R425 to R443) -/

/-- A watch register (R431). -/
structure Watch where
  addr : Nat := 0
  ten  : Nat := 0
  cidx : Nat := 0
  scr  : Bool := false
  at_  : Bool := false
  wr   : Bool := false
  rd   : Bool := false
  en   : Bool := false
  deriving DecidableEq, Repr

/-- A probe point (R434). -/
structure Probe where
  act : Nat := 0
  pc  : Word := 0
  hnd : Word := 0
  deriving DecidableEq, Repr

/-- `DB.CL` (R429). -/
structure DbCl where
  stopped : Bool := false
  widx    : Nat := 0
  ten     : Nat := 0
  deriving DecidableEq, Repr

/-- A densitometer (R442, R443). -/
structure Dens where
  ten   : Nat := 0
  cores : Nat := 0
  src   : Nat := 0
  edges : Tab Nat := {}
  count : Nat := 0
  sum   : Nat := 0
  min   : Nat := 0xFFFFFFFF
  max   : Nat := 0
  drop  : Nat := 0
  bins  : Tab Nat := {}
  deriving DecidableEq, Repr

/-! ### Tenancies, boot, power (R455 to R467) -/

/-- A tenancy's control registers. -/
structure Tenancy where
  weight : Nat := 0x10
  done   : Bool := false
  busy   : Bool := false
  en     : Bool := false
  deficit : Nat := 0
  /-- `TM.REG` (R459), 48 bytes as a number. -/
  tm     : Nat := 0
  /-- TR.ROOT, RL.ARENA, RL.TTAB (R211, R326). -/
  rootEn : Bool := false
  root   : Nat := 0
  arenaBase : Nat := 0
  tiles  : Nat := 0
  ttab   : Nat := 0
  probes : Tab Probe := {}
  plaunch : Word := 0
  /-- Code with native form installed: first and last address (R58). -/
  native : List (Word × Word) := []
  /-- The accounting counters (R466), counter 6 in picojoules. -/
  acct   : Tab Nat := {}
  deriving DecidableEq, Repr

/-- A code object that Goloc has installed, with its start map (R36). -/
structure CodeObj where
  ten    : Nat
  base   : Word
  words  : Nat
  /-- Offsets, in words, of the first word of each instruction. -/
  starts : List Nat
  deriving DecidableEq, Repr

/-- One panel of a saved image (R388): its cluster index, its bolts by slot, its scratchpad region, its
trays by number, its regions by number with S32 tags and words by index, and the pattern table if its launch owned
the store. -/
structure ImgPanel where
  cidx   : Nat
  panel  : Panel
  bolts  : Tab Bolt
  scr    : Mem
  trays  : List Nat
  tray   : Mem
  regions : Tab Bool
  acc    : Tab (BitVec 32)
  pattern : Option (Tab (BitVec 32)) := none
  deriving DecidableEq, Repr

/-- A saved image: what a save wrote beyond its header (R388); `time` is the header's, and names the save. -/
structure Image where
  ten    : Nat
  addr   : Word
  launch : Word
  time   : Word
  members : List ImgPanel
  discarded : Bool := false
  deriving DecidableEq, Repr

/-- A `ctxload` whose panels wait to be admitted (R392): its delivery and its image. -/
structure Restore where
  dlv   : Nat
  image : Image
  /-- Where its panels have been admitted, core and panel; its destination waits until every swatch can issue. -/
  placed : List (Nat × Nat) := []
  deriving DecidableEq, Repr

/-- A service that Goloc has been asked for (R384): its delivery, code, argument, tenancy and launch. -/
structure Service where
  dlv    : Nat
  code   : Nat
  arg    : Word
  ten    : Nat
  launch : Word
  deriving DecidableEq, Repr

/-- A start that is requested (R461, R462): cold, warm with an image fetched, or `BT.STAT`.WREQ. -/
inductive Start where
  | cold (stages : List (List Byte)) | warm (image : List Byte) (stages : List (List Byte)) | request
  deriving DecidableEq, Repr

/-- The registers of boot, the management port and power. -/
structure Platform where
  hwBase  : Nat := 0
  btStage : Nat := 0
  btKind  : Nat := 0
  btDone  : Bool := false
  /-- A start has begun, and has neither completed nor failed; it waits for an image to be fetched; the starts requested
  since (R461, R462). -/
  running : Bool := false
  fetching : Bool := false
  waiting : List Start := []
  /-- The ROM's stage, at the last start, and the length of the image verified last. -/
  rom     : List Byte := []
  imgLen  : Nat := 0
  /-- `BT.IMGHASH`, and the count of failed warm starts, which the management controller keeps (R461, R462). -/
  imgHash : Nat := 0
  failedWarm : Nat := 0
  /-- MS.REG[0–7] as numbers (R458). -/
  ms      : Tab Nat := {}
  pwCap   : Nat := 1600
  pwStep  : Nat := 0
  pwWatts : Nat := 0
  /-- A thermal stop (R467). -/
  tripped : Bool := false
  /-- An SPDM session: its keys have been exchanged; it is open (R460). -/
  keyed   : Bool := false
  session : Bool := false
  /-- Goloc's mailboxes, by function (R455). -/
  mail    : Tab Word := {}
  deriving DecidableEq, Repr

/-- What the current step works on: a bolt of a core, and one of its swatches. -/
structure Cur where
  core : Nat := 0
  slot : Nat := 0
  ent  : Nat := 0
  deriving DecidableEq, Repr

/-- The machine. -/
structure State where
  /-- `HB.NOW` (R246). -/
  hb     : Word := 0
  /-- Physical memory as the L2 holds it, HBM behind it, and owner codes of words (R230); absent is 0xFE. -/
  mem    : Mem := []
  hbm    : Mem := []
  owner  : Tab Nat := {}
  /-- ECC flips of L2 words, by physical word. -/
  ecc    : Tab Word := {}
  /-- Lines held by engines (R238): physical line and operation. -/
  holds  : List (Nat × Nat) := []
  /-- Access counts of R214 by 2 MiB region. -/
  access : Tab Nat := {}
  /-- Access events due, by region. -/
  accDue : Tab Nat := {}
  accThr : Nat := 0x10000
  trBusy : Bool := false
  /-- Writes of `TR.INV` that wait for the one under way (R212). -/
  trPend : List Instr := []
  /-- The second-level TLBs, one for each cluster (R207). -/
  ctlb   : Tab (List TlbEnt) := {}
  /-- The tenancy of a line's last store, for counter 2 of R466. -/
  lineTen : Tab Nat := {}
  /-- The 8-byte words that are valid in the L2 (R28); `mem` holds the others as HBM does. -/
  l2in    : Tab Bool := {}
  /-- Corrected errors by slice (R419). -/
  l2corr  : Tab Nat := {}
  cores  : Tab Core := {}
  tens   : Tab Tenancy := {}
  queues : Tab LaunchQ := {}
  launches : List Launch := []
  objs   : List Obj := []
  codes  : List CodeObj := []
  images : List Image := []
  restores : List Restore := []
  services : List Service := []
  dlv    : List Delivery := []
  /-- Remote arrivals on their way (R291). -/
  remote : List Remote := []
  rel    : List RelOp := []
  dom    : Dom := {}
  watch  : Tab Watch := {}
  dbcl   : Tab DbCl := {}
  dens   : Tab Dens := {}
  /-- Stall counters of the relocation engines, `4·die + cause`, and of the collective engine (R441). -/
  esRel  : Tab Nat := {}
  esCol  : Tab Nat := {}
  plat   : Platform := {}
  /-- The holder of the irrevocability token: core, slot, lane (R261). -/
  token  : Option (Nat × Nat × Nat) := none
  /-- The tenancy the dispatcher visits (R464): its number once the visit is over, 16 more while it lasts. -/
  rrTen  : Nat := 0
  /-- Records and messages posted, the latest first. -/
  posts  : List Post := []
  /-- Serial numbers: of deliveries and stores, and of operations by engine: `4·core + engine`, 1000 + die. -/
  serial : Nat := 1
  opSeq  : Tab Nat := {}
  /-- The model's own fields: events to come from outside or from a schedule, the counter of free values,
  the shuttle whose turn it is, the steps scheduled so far (they turn the schedule), and what a step works on. -/
  agenda : List Instr := []
  fresh  : Nat := 0
  turn   : Nat := 0
  spun   : Nat := 0
  cur    : Cur := {}
  deriving DecidableEq, Repr

/-- The machine right after a start: no panel resident, every register at the value of its map (R3). -/
def State.reset : State := {}

end Sys2Proof.Machine
end

