-- ==== Sys2Proof/Machine/Ops.lean ====
section
/-! DEFINITION. The named operations over the state: its accessors, the names of a bolt, the control of its
swatches, and TAKING A FAULT (R373 to R379) as one shared operation, with the return from a handler beside
it. -/

namespace Sys2Proof.Machine

/-! ### Accessors -/

namespace State

def core (s : State) (n : Nat) : Core := s.cores.getD n {}
def setCore (s : State) (n : Nat) (c : Core) : State := { s with cores := s.cores.set n c }
def modCore (s : State) (n : Nat) (f : Core → Core) : State := s.setCore n (f (s.core n))

/-- Every core changed alike. -/
def mapCores (s : State) (f : Core → Core) : State := { s with cores := ⟨s.cores.ents.map (fun c => (c.1, f c.2))⟩ }

def boltAt (s : State) (n slot : Nat) : Bolt := (s.core n).bolts.getD slot {}
def setBoltAt (s : State) (n slot : Nat) (b : Bolt) : State :=
  s.modCore n (fun c => { c with bolts := c.bolts.set slot b })
def modBoltAt (s : State) (n slot : Nat) (f : Bolt → Bolt) : State := s.setBoltAt n slot (f (s.boltAt n slot))

/-- The core, bolt and swatch that the step works on. -/
def cc (s : State) : Core := s.core s.cur.core
def bolt (s : State) : Bolt := s.boltAt s.cur.core s.cur.slot
def setBolt (s : State) (b : Bolt) : State := s.setBoltAt s.cur.core s.cur.slot b
def modBolt (s : State) (f : Bolt → Bolt) : State := s.setBolt (f s.bolt)
def sw (s : State) : Swatch := s.bolt.sw.getD s.cur.ent {}
def setSw (s : State) (w : Swatch) : State := s.modBolt (fun b => { b with sw := b.sw.set s.cur.ent w })
def modSw (s : State) (f : Swatch → Swatch) : State := s.setSw (f s.sw)

def panelAt (s : State) (n p : Nat) : Panel := (s.core n).panels.getD p {}
def modPanelAt (s : State) (n p : Nat) (f : Panel → Panel) : State :=
  s.modCore n (fun c => { c with panels := c.panels.set p (f (c.panels.getD p {})) })
def panel (s : State) : Panel := s.panelAt s.cur.core s.bolt.panel

def launchOf (s : State) (id : Word) : Launch := (s.launches.find? (fun l => l.id == id)).getD { id := id }
def launch (s : State) : Launch := s.launchOf s.bolt.launch
def modLaunch (s : State) (id : Word) (f : Launch → Launch) : State :=
  { s with launches := s.launches.map (fun l => if l.id == id then f l else l) }

def tenOf (s : State) (n : Nat) : Tenancy := s.tens.getD n {}
def modTen (s : State) (n : Nat) (f : Tenancy → Tenancy) : State :=
  { s with tens := s.tens.set n (f (s.tenOf n)) }
def ten (s : State) : Nat := s.bolt.ten

/-- Adds to an accounting counter (R466). -/
def charge (s : State) (t i n : Nat) : State :=
  s.modTen t (fun x =>
    let a := x.acct.set i (x.acct.getD i 0 + n)
    { x with acct := if i == 6 then a else a.set 6 (a.getD 6 0 + n * Config.energyPj i) })

/-- Posts a record or a message. -/
def post (s : State) (p : Post) : State := { s with posts := p :: s.posts }

/-- A free value's index. -/
def freshId (s : State) : Nat × State := (s.fresh, { s with fresh := s.fresh + 1 })

/-- Control-core cycles spent for a tenancy, on whatever Goloc does for it (a service, a translation, an answer to a fault, a
page made present, a register written): a free number of them each time (R60, R466; log 68). -/
def spend (s : State) (t : Nat) : State :=
  let (n, s) := s.freshId
  s.charge t 5 (Config.controlCycles n)

/-- The tenancy of a launch's, a graph's, a phase's or a job's identifier (R398, R406). -/
def tenOfId (id : Word) : Nat := id.toNat / 2 ^ 32 % 16

/-- The next serial number of a delivery or a store. -/
def takeSerial (s : State) : Nat × State := (s.serial, { s with serial := s.serial + 1 })

/-- The lanes of the current bolt (R23), and of a bolt. -/
def nlanes (s : State) : Nat := 8 * s.bolt.stitches

/-- The swatch runs a handler in the safelight context (R436). -/
def inSafe (s : State) : Bool := s.sw.safe.isSome

end State

/-! ### Masks -/

/-- The lanes of a mask, below `n`, in ascending order (R5). -/
def lanesOf (n : Nat) (m : Mask) : List Nat := (List.range n).filter (fun l => m.getLsbD l)

/-- The mask of a list of lanes. -/
def maskOf (ls : List Nat) : Mask := ls.foldl (fun m l => m ||| BitVec.twoPow 1024 l) 0

/-- The lanes of a bolt of `n` lanes. -/
def fullMask (n : Nat) : Mask := BitVec.ofNat 1024 (2 ^ n - 1)

/-- The stitches of a mask. -/
def stitchesOf (n : Nat) (m : Mask) : StitchMask :=
  (List.range (n / 8)).foldl (fun a i => if m.extractLsb' (8 * i) 8 != 0 then a ||| BitVec.twoPow 128 i else a) 0

/-- The number of lanes of a mask. -/
def popMask (n : Nat) (m : Mask) : Nat := (lanesOf n m).length

/-! ### Outcomes of an instruction -/

/-- How an instruction ends without its effect. -/
inductive Stop' where
  /-- A fault of R6 or R208: its cause, its address field, the lanes recorded with it. -/
  | trap (cause : Nat) (addr : Word) (lanes : Mask)
  /-- The same, after part of the instruction has taken effect (R208): the state that stands. -/
  | partial_ (cause : Nat) (addr : Word) (lanes : Mask) (s : State)
  /-- The swatch waits at the instruction: the reason, and what the wait leaves. -/
  | wait (w : Wait) (s : State)
  /-- The swatch has split on EMPTY lanes, and executes the instruction at once (R69). -/
  | split (s : State)
  deriving DecidableEq, Repr

abbrev R (α : Type) := Except Stop' α

def trap {α : Type} (cause : Nat) (addr : Word := 0) (lanes : Mask := 0) : R α := .error (.trap cause addr lanes)

/-- A wait at the instruction under a stall cause, with nothing taken effect. -/
def retry {α : Type} (s : State) (cause : Nat) : R α := .error (.wait (.retry cause) s)

/-- The stall of an allocation, with the rows and group-wide entries that it asks of the pools (R74); none waits for a
discarding lane (R71). -/
def retryAlloc {α : Type} (s : State) (short : Option (Nat × Nat)) : R α :=
  .error (.wait (.retry 4) (s.modSw (fun w => { w with short := short })))

/-! ### Native form (R58) -/

/-- An address in code with a native form installed. -/
def State.nativeAt (s : State) (ten : Nat) (pc : Word) : Bool :=
  (s.tenOf ten).native.any (fun r => r.1.toNat ≤ pc.toNat && pc.toNat ≤ r.2.toNat)

/-- A swatch whose PC no native form covers is in portable form: it may pass to another only at a safe point. -/
def State.settleForm (s : State) (ten : Nat) (w : Swatch) : Swatch := { w with native := w.native && s.nativeAt ten w.pc }

/-! ### The start map and the words of code (R36, R37) -/

/-- The code object of a tenancy that holds an address. -/
def State.codeAt (s : State) (ten : Nat) (a : Word) : Option CodeObj :=
  s.codes.find? (fun c => c.ten == ten && c.base.toNat ≤ a.toNat && a.toNat < c.base.toNat + 4 * c.words)

/-- The installed start bit of the word at an address: 0 outside every code object, and for an unaligned address. -/
def State.mapBit (s : State) (ten : Nat) (a : Word) : Bool :=
  match s.codeAt ten a with
  | none => false
  | some c => (a.toNat - c.base.toNat) % 4 == 0 && c.starts.contains ((a.toNat - c.base.toNat) / 4)

/-- The word that the core's instruction cache keeps of an address of a tenancy (R36). -/
def State.cached (s : State) (ten : Nat) (a : Word) : Option IWord :=
  s.cc.icache.vals.find? (fun w => w.key == some (ten, a.toNat))

/-- The start bit of the word at an address, as the core sees it: the bit that its instruction cache keeps beside the word,
which may be that of an object installed before (R247), else the installed one. -/
def State.startBit (s : State) (ten : Nat) (a : Word) : Bool :=
  match s.cached ten a with
  | some w => w.start
  | none => s.mapBit ten a

/-- The bounds of the code object that holds an address, as the core sees them. -/
def State.objBounds (s : State) (ten : Nat) (pc : Word) : Option (Nat × Nat) :=
  match s.cached ten pc with
  | some w => w.obj
  | none => (s.codeAt ten pc).map (fun c => (c.base.toNat, c.base.toNat + 4 * c.words))

/-- The word at `a` begins an instruction of the code object that holds `pc` (R37): a word beyond the end of that
object does not. -/
def State.nextBit (s : State) (ten : Nat) (pc a : Word) : Bool :=
  match s.objBounds ten pc with
  | none => false
  | some o => decide (o.1 ≤ a.toNat) && decide (a.toNat < o.2) && s.startBit ten a

/-- The check of R37 on the word at which the swatch would go on after its instruction. -/
def checkNext (s : State) (a : Word) : R Unit :=
  if s.nextBit s.ten s.sw.pc a then .ok () else trap 0x02 a s.sw.mask

/-- The check of R37 on a target. -/
def checkTarget (s : State) (a : Word) : R Unit :=
  if s.startBit s.ten a then .ok () else trap 0x02 a s.sw.mask

/-! ### Faults (R373 to R379) -/

/-- Causes that no bolt's handler takes (R376). -/
def delegable (c : Nat) : Bool :=
  c < 64 && !([0x07, 0x08, 0x09, 0x0C, 0x11, 0x13, 0x14, 0x15, 0x16, 0x18, 0x19, 0x31, 0x33, 0x36, 0x37].contains c)

/-- Causes whose unfinished lanes alone are replayed (R375). -/
def unfinishedCause (c : Nat) : Bool := c == 0x08 || c == 0x09 || c == 0x0C

/-- The top three region identifiers (R426). -/
def Bolt.top3 (b : Bolt) : List Nat := [b.regions.getD 0 0, b.regions.getD 1 0, b.regions.getD 2 0]

/-- The record of a fault of the current swatch (R374); its mask is the swatch's stitches, or the
unfinished ones under R208. -/
def faultRec (s : State) (cause : Nat) (addr : Word) (lanes : Mask) : FaultRec :=
  { cause := cause, shuttle := s.bolt.shuttle, core := s.cur.core, bolt := s.cur.slot, entry := s.cur.ent
    pc := s.sw.pc, addr := addr
    mask := stitchesOf s.nlanes (if unfinishedCause cause then lanes else s.sw.mask)
    launch := s.bolt.launch, time := s.hb, regions := s.bolt.top3 }


/-- The swatch moves into the bolt's handler at a vector (R378). -/
def enterHandler (s : State) (r : FaultRec) (lanes : Mask) (vec : Word) : State :=
  let w := s.sw
  let s := s.modBolt (fun b => { b with trap :=
    { b.trap with cause := r.cause, act := true, pc := r.pc, addr := r.addr, mask := r.mask, lfail := lanes
                  ent := s.cur.ent, lanes := w.mask, depth := w.depth, jtop := w.jtop, rtop := w.rtop } })
  s.setSw { w with pc := vec, st := .ready, frec := none, ctx := lanes, phase := 0, edge := none, bad := [], walked := []
                   unfin := none, hand := true, noWatch := false, noProbe := none, short := none, grant := (0, 0), native := false }

/-- The fault of a swatch released for one step ends the step, without a stop record (R430). -/
def endStep (s : State) : State :=
  if s.bolt.stop.stepEnt = some s.cur.ent then s.modBolt (fun b => { b with stop := { b.stop with stepEnt := none } }) else s

/-- The record goes to Goloc, and the swatch stays parked (R373). -/
def postFault (s : State) (r : FaultRec) (lanes : Mask) : State :=
  let s := endStep s
  (s.modSw (fun w => { w with st := .parked, frec := some r, vec := s.bolt.trap.vec, ctx := lanes, phase := 0, edge := none, bad := [], walked := [], grant := (0, 0)
                              unfin := if unfinishedCause r.cause then some lanes else w.unfin })).post (.fault r)

/-- Taking a fault: delivery to the bolt's handler, to Goloc, or the wait for the handler that runs now
(R373, R378). A vector that no start bit marks sends the fault to Goloc as 0x02. -/
def raise (s : State) (cause : Nat) (addr : Word) (lanes : Mask) : State :=
  let s := endStep s
  let r := faultRec s cause addr lanes
  let b := s.bolt
  let wants := delegable cause && b.trap.deleg.getLsbD cause && b.trap.vec != 0 && !s.inSafe
  if wants && b.trap.act && !s.sw.hand then
    s.modSw (fun w => { w with st := .deferred, frec := some r, vec := b.trap.vec, ctx := lanes, phase := 0, edge := none, bad := [], walked := [], grant := (0, 0) })
  else if wants && !b.trap.act then
    if s.startBit b.ten b.trap.vec then enterHandler s r lanes b.trap.vec
    else postFault s { r with cause := 0x02, addr := BitVec.ofNat 64 (cause % 256) } lanes
  else postFault s r lanes

/-- The swatch waits, and gives up what was granted to it (R74). -/
def block (w : Wait) (s : State) : State := s.modSw (fun x => { x with st := w, grant := (0, 0) })

/-- The outcome of an instruction from what its meaning gives: a fault and a wait are next states. -/
def finish (s : State) (r : R State) : Host.Outcome State Fault Refusal :=
  match r with
  | .ok t => .next t
  | .error (.trap c a l) => .next (raise s c a l)
  | .error (.partial_ c a l t) => .next (raise t c a l)
  | .error (.wait w t) => .next (block w t)
  | .error (.split t) => .next t

/-- Return from the handler (R379): the checks, and the resumption at `t`. -/
def trapReturn (s : State) (t : Word) : R State := do
  let b := s.bolt
  let w := s.sw
  if !b.trap.act then trap 0x32 1 w.mask
  if w.jtop != b.trap.jtop || w.depth != b.trap.depth || w.rtop != b.trap.rtop
      || w.mask &&& ~~~b.trap.lanes != 0 then trap 0x32 2 w.mask
  checkTarget s t
  .ok ((s.modBolt (fun b => { b with trap := { b.trap with act := false } })).modSw
    (fun w => { w with pc := t, native := false, unfin := none, hand := false }))

/-! ### Names (R61 to R71) -/

/-- The place of a name's lane in the register file; in the safelight context the names of its bank. -/
def regKey (safe : Bool) (c : Code) (lane : Nat) : Nat :=
  let n := c.toNat
  if n < 256 then (if safe then 524288 else 0) + 1024 * n + lane
  else (if safe then 263168 else 262144) + (n - 256)

def State.key (s : State) (c : Code) (lane : Nat) : Nat := regKey s.inSafe c lane

def State.cellK (s : State) (k : Nat) : Cell := s.bolt.regs.getD k {}
def State.cell (s : State) (c : Code) (lane : Nat) : Cell := s.cellK (s.key c lane)

/-- A lane's new view; an EXHAUSTED lane is not listed. -/
def Bolt.setCell (b : Bolt) (k : Nat) (c : Cell) : Bolt :=
  { b with regs := if c.st == .exhausted then b.regs.erase k else b.regs.set k c }

def State.setCellK (s : State) (k : Nat) (c : Cell) : State := s.modBolt (fun b => b.setCell k c)
def State.setCell (s : State) (c : Code) (lane : Nat) (x : Cell) : State := s.setCellK (s.key c lane) x

/-- EXHAUSTED to every check: R71's discarding lanes too. -/
def Cell.dead (c : Cell) : Bool := c.st == .exhausted || c.st == .discarding

/-- `Finish` of R85: EXHAUSTED, or discarding when a delivery is pending (R71). -/
def Cell.finish (c : Cell) : Cell :=
  if c.st == .empty || c.st == .discarding then { c with st := .discarding, cnt := 0 } else {}

/-- `n` reads counted off (R9, R62). -/
def Cell.take (c : Cell) (n : Nat) : Cell :=
  if c.cnt = 15 then c else if c.cnt ≤ n then c.finish else { c with cnt := c.cnt - n }

/-- A vector name's key: its name and its stitch. -/
def isVKey (k : Nat) : Bool := k < 262144 || (524288 ≤ k && k < 524288 + 8192)

/-- The rows that a bolt's names hold in a stitch (R63): discarding lanes keep theirs (R71); the safelight
bank holds none of them. -/
def Bolt.rowsIn (b : Bolt) (st : Nat) : Nat :=
  let ns := (b.regs.ents.filter (fun e => e.1 < 262144 && e.1 % 1024 / 8 == st)).map
    (fun e => (e.1 / 1024, if e.2.tag.is64 then 2 else 1))
  ns.eraseDups.foldl (fun a p => a + p.2) 0

/-- All vector rows and group entries of a bolt, its unused reservation included. -/
def Bolt.rows (b : Bolt) : Nat :=
  (List.range b.stitches).foldl (fun a st => a + b.rowsIn st + b.resv.getD st 0) 0
def Bolt.gents (b : Bolt) : Nat :=
  (b.regs.ents.filter (fun e => 262144 ≤ e.1 && e.1 < 263168)).length + b.gresv

/-- The rows and the entries that grants keep for swatches of a bolt (R74). -/
def Bolt.granted (b : Bolt) : Nat × Nat := b.sw.vals.foldl (fun a w => (a.1 + w.grant.1, a.2 + w.grant.2)) (0, 0)

/-- The grants of a bolt's swatches end. -/
def Bolt.ungrant (b : Bolt) : Bolt := { b with sw := ⟨b.sw.ents.map (fun e => (e.1, { e.2 with grant := (0, 0) }))⟩ }

/-- Free rows of a shuttle's pool, and free group entries (R22, R204): what a grant keeps is not free (R74). -/
def Core.freeRows (c : Core) (sh : Nat) : Nat :=
  c.ubReg / 6 * 512
    - (c.bolts.vals.filter (fun b => b.shuttle == sh && !b.parked)).foldl (fun a b => a + (b.rows + b.granted.1)) 0
def Core.freeGroup (c : Core) : Nat :=
  Config.groupEntries - (c.bolts.vals.filter (fun b => !b.parked)).foldl (fun a b => a + (b.gents + b.granted.2)) 0

/-- The rows and entries that the current swatch may take: the free ones, and those granted to it (R74). -/
def State.poolRows (s : State) : Nat := s.cc.freeRows s.bolt.shuttle + s.sw.grant.1
def State.poolGroup (s : State) : Nat := s.cc.freeGroup + s.sw.grant.2

/-! ### Stops at an instruction (R248, R427, R430) -/

/-- Phases 4, 5, 9 to 11 (modulo 16): the instruction has taken effect, and only waits for what follows from it. -/
def Swatch.midway (w : Swatch) : Bool := [4, 5, 9, 10, 11].contains (w.phase % 16)

/-- A swatch whose wait, over or not, begins again from its instruction's start; an effect that has been taken is not
taken again. -/
def Swatch.again (w : Swatch) : Swatch :=
  if w.midway then w else { w with phase := 0, hold := 0, edge := none, short := none, grant := (0, 0), block := none, st := .ready }

/-- The same of a swatch whose bolt stops; a wait on EMPTY lanes goes on (R69). -/
def Swatch.rest (w : Swatch) : Swatch :=
  match w.st with
  | .retry _ => if w.block.isSome then w else w.again
  | .ready => w.again
  | _ => w

/-- The clocks of a bolt's shuttle. -/
def Core.clockOf (c : Core) (b : Bolt) : Nat := c.clock.getD b.shuttle 0

/-- A limit of R75 has come: 1,024 instructions since the wind-in, or 1,024 shuttle clocks without one. -/
def Core.unprotects (c : Core) (b : Bolt) : Bool :=
  b.protect.any (fun n => decide (1024 ≤ n) || decide (1024 ≤ c.clockOf b - b.lastClk))

/-- A bolt is protected from being wound out (R75). -/
def Core.protects (c : Core) (b : Bolt) : Bool := b.protect.isSome && !c.unprotects b

/-- The swatches of a bolt that stops. -/
def Bolt.rest (b : Bolt) : Bolt := { b with sw := ⟨b.sw.ents.map (fun e => (e.1, e.2.rest))⟩ }

/-! ### Predicates (R47) -/

/-- k0 is always true. -/
def State.kMask (s : State) (i : Nat) : Mask :=
  if i = 0 then BitVec.allOnes 1024
  else match s.sw.safe with
    | some sf => sf.k.getD i 0
    | none => s.bolt.k.getD i 0

def State.qBit (s : State) (i : Nat) : Bool :=
  i == 0 || (match s.sw.safe with | some sf => sf.q.getLsbD i | none => s.bolt.q.getLsbD i)

/-- Writes kD in the lanes of `m` with the bits of `v`; k0 is not written (R141). -/
def State.setK (s : State) (i : Nat) (m v : Mask) : State :=
  if i = 0 then s
  else
    let new := (s.kMask i &&& ~~~m) ||| (v &&& m)
    match s.sw.safe with
    | some sf => s.modSw (fun w => { w with safe := some { sf with k := sf.k.set i new } })
    | none => s.modBolt (fun b => { b with k := b.k.set i new })

def State.setQ (s : State) (i : Nat) (v : Bool) : State :=
  if i = 0 then s
  else
    let up (q : BitVec 8) : BitVec 8 := if v then q ||| BitVec.twoPow 8 i else q &&& ~~~(BitVec.twoPow 8 i)
    match s.sw.safe with
    | some sf => s.modSw (fun w => { w with safe := some { sf with q := up sf.q } })
    | none => s.modBolt (fun b => { b with q := up b.q })

/-- The lanes for which a lane-side form is active (R5), a replay's unfinished ones alone (R375). -/
def State.active (s : State) (x : Ext) : Mask :=
  s.sw.mask &&& (if x.pneg then ~~~(s.kMask x.pred.toNat) else s.kMask x.pred.toNat)
    &&& (match s.sw.unfin with | some m => m | none => BitVec.allOnes 1024) &&& fullMask s.nlanes

/-- A group-side form acts (R5). -/
def State.gActive (s : State) (x : Ext) : Bool := s.qBit x.pred.toNat != x.pneg

/-- The lanes an instruction runs over: a group-side form that acts runs once, as lane 0. -/
def State.actLanes (s : State) (x : Ext) : List Nat :=
  if x.g then (if s.gActive x then [0] else []) else lanesOf s.nlanes (s.active x)

/-- The mask recorded for a fault of some lanes; a group-side form's is the swatch's. -/
def State.failMask (s : State) (x : Ext) (ls : List Nat) : Mask := if x.g then s.sw.mask else maskOf ls

/-- Status flags are recorded, and are sticky (R135); those recorded while a `setsp` of `FX.FLAGS` waits (phase 8) are
kept with the serial number of their time, for it overwrites no later ones. -/
def Bolt.record (b : Bolt) (n : Nat) (f : BitVec 5) : Bolt :=
  { b with flags := b.flags ||| f
           flagLog := if b.sw.vals.any (fun w => w.phase == 8) then (n, f) :: b.flagLog else [] }

/-- The current bolt records status flags. -/
def State.orFlags (s : State) (f : BitVec 5) : State := if f = 0 then s else s.modBolt (fun b => b.record s.serial f)

/-! ### Special registers of R51 -/

/-- The core and the shuttle that the special registers report: a twin's two copies report the same (R414). -/
def State.shownCore (s : State) (core panel : Nat) : Nat := (s.panelAt core panel).asCore.getD core
def Bolt.shownShuttle (b : Bolt) : Nat := b.asShuttle.getD b.shuttle

/-- The value of a special register in a lane. -/
def State.special (s : State) (c : Code) (lane : Nat) : Word :=
  let p := s.panel
  let l := s.launch
  let n (v : Nat) : Word := BitVec.ofNat 64 v
  let core := s.shownCore s.cur.core s.bolt.panel
  match c.toNat with
  | 0x2C0 => n lane
  | 0x2C1 => n (lane % 8)
  | 0x2C2 => n (lane / 8)
  | 0x2C3 => n s.bolt.index
  | 0x2C4 => n p.nbolt
  | 0x2C5 => n s.nlanes
  | 0x2C6 => n p.x
  | 0x2C7 => n p.y
  | 0x2C8 => n p.z
  | 0x2C9 => n l.nx
  | 0x2CA => n l.ny
  | 0x2CB => n l.nz
  | 0x2CC => n core
  | 0x2CD => n (core / 8)
  | 0x2CE => n (core / Config.coresPerDie)
  | 0x2CF => n (core % 8)
  | 0x2D0 => n s.bolt.shownShuttle
  | 0x2D1 => n (if core % 2 = 0 then 1 else 0)
  | 0x2D2 => l.argbase
  | 0x2D3 => n p.scrSize
  | 0x2D4 => n l.stkSize
  | 0x2D5 => s.bolt.launch
  | 0x2D6 => l.tilekey
  | 0x2D7 => n s.bolt.ten
  | _ => n s.bolt.prio

/-! ### Swatches: order, entries, splits (R144, R145, R151) -/

/-- Entries in use on a shuttle. -/
def Core.entriesUsed (c : Core) (sh : Nat) : Nat :=
  (c.bolts.vals.filter (fun b => b.shuttle == sh)).foldl (fun a b => a + b.sw.size) 0

/-- The bolt of a shuttle with the least age (R74); parked bolts keep their age. -/
def Core.oldest (c : Core) (sh : Nat) : Option Nat :=
  ((c.bolts.ents.filter (fun e => e.2.shuttle == sh && !e.2.left)).foldl
    (fun (m : Option (Nat × Nat)) e => match m with
      | none => some (e.1, e.2.age)
      | some (k, a) => if e.2.age < a then some (e.1, e.2.age) else some (k, a)) none).map Prod.fst

/-- A split may take an entry (R145). -/
def State.canSplit (s : State) (n : Nat) : Bool :=
  let b := s.bolt
  let c := s.cc
  b.sw.size + n ≤ 16
    && (16 + n ≤ Config.entriesPerShuttle - c.entriesUsed b.shuttle || c.oldest b.shuttle == some s.cur.slot)
    && n ≤ Config.entriesPerShuttle - c.entriesUsed b.shuttle

/-- The lowest entry number of the shuttle that no bolt uses, for a split to take (R145 does not say which: DESIGN CHOICE,
log 118). -/
def State.freeEntry (s : State) : Nat :=
  let used := (s.cc.bolts.vals.filter (fun b => b.shuttle == s.bolt.shuttle)).flatMap (fun b => b.sw.keys)
  ((List.range Config.entriesPerShuttle).find? (fun e => !used.contains e)).getD 0

/-- An entry (shuttle key) is no longer one that an earlier `yield` waits for (R164): its swatch has issued, or another swatch
takes it. -/
def Swatch.passed (key : Nat) (w : Swatch) : Swatch := { w with yield := w.yield.filter (· != key) }
def Bolt.passed (key : Nat) (b : Bolt) : Bolt := { b with sw := ⟨b.sw.ents.map (fun p => (p.1, p.2.passed key))⟩ }
def Core.passed (c : Core) (key : Nat) : Core :=
  if c.bolts.vals.any (fun b => b.sw.vals.any (fun w => w.yield.contains key)) then
    { c with bolts := ⟨c.bolts.ents.map (fun e => (e.1, e.2.passed key))⟩ }
  else c

/-- A new swatch of the current bolt. -/
def State.addSwatch (s : State) (w : Swatch) : State :=
  let e := s.freeEntry
  (s.modCore s.cur.core (fun c => c.passed (s.bolt.shuttle * 65536 + e))).modBolt (fun b => { b with sw := b.sw.set e (s.settleForm s.ten w) })

/-- The bolt's own order stamp. -/
def State.takeStamp (s : State) : Nat × State :=
  (s.bolt.stamp, s.modBolt (fun b => { b with stamp := b.stamp + 1 }))

/-! ### Errors of storage (R419) -/

/-- One bits of a word. -/
def ones (w : Word) : Nat := Alu.popcN 64 w.toNat

/-- A core corrects errors, and counts them. -/
def State.correct (s : State) (n k : Nat) : State := s.modCore n (fun c => { c with corrected := c.corrected + k })

/-- An accounting counter as `TEN.ACCT` reports it: the energy, kept in picojoules, in microjoules (R466). -/
def State.acctWord (s : State) (ten i : Nat) : Nat :=
  let t := s.tenOf ten
  if i = 6 then t.acct.getD 6 0 / 10 ^ 6 else t.acct.getD i 0

/-! ### Barriers (R270 to R273) -/

def Panel.bar (p : Panel) (i : Nat) : Bar := p.bars.getD i {}

/-- The phase completes at once when ARR = EXP and ENG = 0 (R271). -/
def Bar.settle (b : Bar) : Bar :=
  if b.exp ≠ 0 ∧ b.arr = b.exp ∧ b.eng = 0 then { b with gen := (b.gen + 1) % 4, arr := 0 } else b

/-- An arrival of `m` members; none when it overflows (R272). -/
def Bar.arrive (b : Bar) (m : Nat) : Option Bar :=
  if b.exp = 0 ∨ b.exp < b.arr + m then none else some ({ b with arr := b.arr + m }).settle

/-- The issue of `n` engine operations; none when it overflows (R272). -/
def Bar.issue (b : Bar) : Nat → Option Bar
  | 0 => some b
  | n + 1 =>
    if b.exp = 0 ∨ b.exp ≤ b.arr + b.eng ∨ 255 ≤ b.eng then none
    else Bar.issue ({ b with eng := b.eng + 1 }).settle n

/-- An engine operation ends: ENG falls and an arrival follows, as one event; an overflow or a cut-off sets
ERR (R271, R272, R283). -/
def Bar.engineEnd (b : Bar) (cut : Bool) : Bar :=
  let b := { b with eng := b.eng - 1, err := b.err || cut }
  if b.exp = 0 ∨ b.exp < b.arr + 1 then ({ b with err := true }).settle
  else ({ b with arr := b.arr + 1 }).settle

/-- The word of R270. -/
def Bar.word (b : Bar) : Word :=
  BitVec.ofNat 64 (b.gen % 4 * 2 ^ 62 + (if b.err then 2 ^ 61 else 0) + b.exp % 2 ^ 14 * 2 ^ 47
    + b.arr % 2 ^ 14 * 2 ^ 33 + b.eng % 256 * 2 ^ 25)

def State.barAt (s : State) (n p i : Nat) : Bar := (s.panelAt n p).bar i
/-- A barrier register is written, with fresh check bits; a single-bit error that its reading has corrected is counted
(R419). -/
def State.setBarAt (s : State) (n p i : Nat) (b : Bar) : State :=
  let s := if (s.barAt n p i).ecc == 0 then s else s.correct n 1
  s.modPanelAt n p (fun x => { x with bars := x.bars.set i { b with ecc := 0 } })

/-- A barrier register is read: a single-bit error is corrected in place (R419). -/
def State.readBarAt (s : State) (n p i : Nat) : State :=
  if (s.barAt n p i).ecc == 0 then s else s.setBarAt n p i (s.barAt n p i)

/-- A panel's work counter is used: a single-bit error is corrected in place, and counted at its core (R419). -/
def State.usedPanel (s : State) (n p : Nat) : State :=
  if (s.panelAt n p).ecc == 0 then s else (s.correct n 1).modPanelAt n p (fun x => { x with ecc := 0 })

/-- An engine operation of a panel ends at its barrier. -/
def State.barEnd (s : State) (n p : Nat) (bar : Option Nat) (cut : Bool) : State :=
  match bar with
  | none => s
  | some i => if (s.core n).panels.has p then s.setBarAt n p i ((s.barAt n p i).engineEnd cut) else s

/-- The panel of a launch's group on the core at a cluster index, as its special registers count (R196, R414): core and
panel identifier. -/
def State.groupPanel (s : State) (n p cidx : Nat) : Option (Nat × Nat) :=
  let me := s.panelAt n p
  let shown := s.shownCore n p % 8
  let m := n / 8 * 8 + (cidx + n % 8 - shown)
  if cidx + n % 8 < shown || 8 ≤ cidx + n % 8 - shown then none
  else if m = n then some (n, p)
  else ((s.core m).panels.ents.find? (fun e =>
    e.2.launch == me.launch && e.2.group == me.group && e.2.copyB == me.copyB && (s.launchOf me.launch).group != 0)).map
      (fun e => (m, e.1))

/-! ### Records of engines (R380) -/

/-- The next serial number of an operation at an engine (R380). -/
def State.takeOp (s : State) (engine : Nat) : Nat × State :=
  let n := s.opSeq.getD engine 0
  (n, { s with opSeq := s.opSeq.set engine (n + 1) })

def State.postDone (s : State) (type status source seq : Nat) (object : Word) (progress : Nat) : State :=
  s.post (.done { type := type, status := status, source := source, seq := seq, object := object
                  progress := progress, time := s.hb })

end Sys2Proof.Machine
end

