-- ==== Sys2Proof/Machine/Operands.lean ====
section
/-! DEFINITION. Every operand form, and the order of R6 written once: the checks of the sources, the
destination check, the wait on EMPTY lanes, the consumption of reads, the allocation of the destination;
then what completes an instruction. -/

namespace Sys2Proof

/-- `CheckTag` (R9). -/
def Req.accepts (r : Req) (t : Tag) : Bool :=
  match r with
  | .exact e => t == e
  | .any32 => !t.is64
  | .any64 => t.is64
  | .free => true

/-- A source position in use: its position (R80), the names it lists (one, or a range), or its literal. -/
structure Src where
  pos   : Nat
  codes : List Code := []
  lit   : Option Word := none
  trap  : Bool := false
  req   : Req := .free
  deriving DecidableEq, Repr

/-- `n` consecutive codes. -/
def codesFrom (c : Code) (n : Nat) : List Code := (List.range n).map (fun i => c + BitVec.ofNat 10 i)

/-- A source position of a form, when the instruction uses it (R44): `n` names from its code. -/
def Slot.src (sl : Slot) (pos : Nat) (c : Code) (t : Bool) (lit : Option Word) (n : Nat) : List Src :=
  match lit with
  | some v => [{ pos := pos, lit := some v, req := sl.req }]
  | none =>
    if sl.use == .no || ((sl.use == .opt || sl.use == .optReg) && c == 0) then []
    else [{ pos := pos, codes := codesFrom c n, trap := t, req := sl.req }]

/-- The source positions that a form uses, in the order A, B, C; `nb` and `nc` names in B and C. -/
def Form.srcs (f : Form) (x : Ext) (nb : Nat := 1) (nc : Nat := 1) : List Src :=
  f.a.src 1 x.a x.ta (x.litAt f .inA) 1 ++ f.b.src 2 x.b x.tb (x.litAt f .inB) nb ++ f.c.src 3 x.c x.tc none nc

end Sys2Proof

namespace Sys2Proof.Machine

/-! ### Values of operands (R45, R48 to R51) -/

/-- The low 32 bits, or all of a 64-bit position. -/
def fitW (w64 : Bool) (v : Word) : Word := if w64 then v else v &&& 0xFFFFFFFF

/-- The bit patterns in code order from 0x2B0 (R49). -/
def bitConst (i : Nat) : Word :=
  match i with
  | 0 => 0xFFFFFFFF | 1 => 0x0000FFFF | 2 => 0xFFFF0000 | 3 => 0x00FF00FF | 4 => 0x0F0F0F0F
  | 5 => 0x33333333 | 6 => 0x55555555 | 7 => 0x80000000 | 8 => 32 | 9 => 64 | 10 => 128 | 11 => 256
  | 12 => 512 | 13 => 1024 | 14 => 2048 | _ => 4096

/-- The value that an inline constant supplies to a position (R50). -/
def constVal (r : Req) (c : Code) : Word :=
  if c.isIntConst then
    fitW r.is64 (BitVec.ofInt 64 (if c.toNat < 0x290 then (c.toNat : Int) - 0x280 else (c.toNat : Int) - 0x2A0))
  else if c.isFloatConst then
    match r with
    | .exact t => Fp.splat t (Fp.round (Fp.ofTag t) .rne false (Fp.constNum (c.toNat - 0x2A0))).1
    | _ => 0
  else bitConst (c.toNat - 0x2B0)

/-- The form of an opcode with these fields; an unassigned one reads nothing. -/
def form (opc : Nat) (x : Ext) : Form := (formOf opc x).getD {}

/-- The names a source reads. -/
def srcRegs (r : Src) : List Code := r.codes.filter Code.isReg

/-- What a source position reads in a lane: its `i`-th name. -/
def State.opnd (s : State) (r : Src) (lane : Nat) (i : Nat := 0) : Opnd :=
  match r.lit with
  | some v => { val := fitW r.req.is64 v }
  | none =>
    let c := r.codes.getD i 0
    if c.isReg then { val := (s.cell c lane).val, tag := (s.cell c lane).tag, reg := true }
    else if c.isConst then { val := constVal r.req c }
    else { val := fitW r.req.is64 (s.special c lane) }

/-! ### The checks of R6, steps 2 and 3 -/

/-- A check made of some names over every lane (R6): the first of the names that fails in some lane, its lowest
failing lane, and all lanes in which one of the names fails. Which name of a range the record gives is a DESIGN CHOICE
(log 64). -/
def State.firstBad (s : State) (ls : List Nat) (cs : List Code) (bad : Code → Cell → Bool) :
    Option (Code × Nat × List Nat) :=
  cs.findSome? (fun c => (ls.find? (fun l => bad c (s.cell c l))).map (fun l =>
    (c, l, ls.filter (fun l => cs.any (fun c => bad c (s.cell c l))))))

/-- The fault-address field of R80. -/
def nameAddr (pos : Nat) (c : Code) : Word := BitVec.ofNat 64 (pos * 2 ^ 16 + c.toNat)

/-- The state check of one source (R6, R68). -/
def State.checkState (s : State) (x : Ext) (ls : List Nat) (r : Src) : R Unit :=
  match s.firstBad ls (srcRegs r) (fun _ c => c.dead || (c.st == .empty && r.trap)) with
  | some (c, l, fs) => trap (if (s.cell c l).dead then 0x03 else 0x05) (nameAddr r.pos c) (s.failMask x fs)
  | none => .ok ()

/-- The state check, the count check, the tag check and the poison check of one source (R6, R7, R68, R381);
`reads` gives the reads that the instruction makes of a name. -/
def State.checkSrc (s : State) (x : Ext) (ls : List Nat) (reads : Code → Nat) (poisonOk : Bool) (r : Src) : R Unit := do
  s.checkState x ls r
  match s.firstBad ls (srcRegs r) (fun n c => c.cnt != 15 && decide (c.cnt < reads n)) with
  | some (c, _, fs) => trap 0x03 (nameAddr r.pos c) (s.failMask x fs)
  | none => .ok ()
  match s.firstBad ls (srcRegs r) (fun _ c => !r.req.accepts c.tag) with
  | some (c, l, fs) =>
    trap 0x06 (nameAddr r.pos c + BitVec.ofNat 64 (r.req.tag.code.toNat * 2 ^ 24
      + (s.cell c l).tag.code.toNat * 2 ^ 28)) (s.failMask x fs)
  | none => .ok ()
  match s.firstBad ls (srcRegs r) (fun _ c => !(poisonOk && r.pos == 1) && c.st == .full && c.poison) with
  | some (c, _, fs) => trap 0x13 (BitVec.ofNat 64 c.toNat) (s.failMask x fs)
  | none => .ok ()

/-- Each source in turn. -/
def State.checkSrcs (s : State) (x : Ext) (ls : List Nat) (reads : Code → Nat) (poisonOk : Bool) : List Src → R Unit
  | [] => .ok ()
  | r :: rs => do
    s.checkSrc x ls reads poisonOk r
    s.checkSrcs x ls reads poisonOk rs

/-- The reads an instruction makes of a name (R7). -/
def readsOf (srcs : List Src) (c : Code) : Nat := (srcs.flatMap srcRegs).count c

/-- The single-bit errors of a name's row and of its entry in the name table. -/
def Cell.errors (c : Cell) : Nat := (if c.ecc == 0 then 0 else 1) + (if c.tecc == 0 then 0 else 1)

/-- A read corrects the single-bit errors of a name, and counts them (R419). -/
def State.regCorrect (s : State) (c : Code) (l : Nat) : State :=
  if (s.cell c l).errors == 0 || (s.cell c l).poison then s else s.correct s.cur.core (s.cell c l).errors

/-- Step 4: every read is counted off, a group-wide name's once for the issue (R65). -/
def State.consume (s : State) (ls : List Nat) (srcs : List Src) : State :=
  if ls.isEmpty then s
  else (srcs.flatMap srcRegs).eraseDups.foldl (fun s c =>
    let n := readsOf srcs c
    (if c.isG then [0] else ls).foldl (fun s l => (s.regCorrect c l).setCell c l (({ s.cell c l with ecc := 0, tecc := 0 }).take n)) s) s

/-- The lanes of `ls` whose stitch is `st`. -/
def inStitch (ls : List Nat) (st : Nat) : List Nat := ls.filter (fun l => l / 8 == st)

/-- The stitches of some lanes, rising. -/
def stitchList (ls : List Nat) : List Nat := (ls.map (· / 8)).eraseDups

/-- The row that a vector name holds in a stitch: whether it is a 64-bit one, and whether some lane of it is
not EXHAUSTED (R63); none when it holds none. -/
def State.rowOf (s : State) (c : Code) (st : Nat) : Option (Bool × Bool) :=
  let cs := (List.range 8).filterMap (fun i => s.bolt.regs.get? (s.key c (8 * st + i)))
  match cs with
  | [] => none
  | v :: _ => some (v.tag.is64, cs.any (fun d => !d.dead))

/-- What allocating a name costs in a stitch: rows to take, rows of the other width given back (R63). -/
def State.rowNeed (pre post : State) (c : Code) (w64 : Bool) (st : Nat) : Nat × Nat :=
  let w (b : Bool) : Nat := if b then 2 else 1
  match post.rowOf c st with
  | some _ => (0, 0)
  | none =>
    match pre.rowOf c st with
    | some (b, _) => if b == w64 then (0, 0) else (w w64, w b)
    | none => (w w64, 0)

/-- A lane fails step 3 for a destination name: it is live, or its row is live in the other width (R63). -/
def State.dstLive (post : State) (w64 : Bool) (c : Code) (l : Nat) : Bool :=
  !(post.cell c l).dead || (c.isV && (match post.rowOf c (l / 8) with | some (b, v) => b != w64 && v | none => false))

/-- A lane of a destination name waits for a discarding lane (R71). -/
def State.dstWaits (post : State) (w64 : Bool) (c : Code) (l : Nat) : Bool :=
  (post.cell c l).st == .discarding
    || (c.isV && (match post.rowOf c (l / 8) with | some (b, _) => b != w64 | none => false))

/-- Step 3 for the names of a destination: 0x04, or whether one of them meets a discarding lane. -/
def State.checkDsts (pre post : State) (x : Ext) (ls : List Nat) (w64 : Bool) (cs : List Code) : R Bool :=
  match cs.find? (fun c => ls.any (post.dstLive w64 c)) with
  | some c => trap 0x04 (nameAddr 0 c) (pre.failMask x (ls.filter (fun l => cs.any (fun c => post.dstLive w64 c l))))
  | none => .ok (cs.any (fun c => ls.any (post.dstWaits w64 c)))

/-! ### Allocation (R63, R74, R78, R91) -/

/-- Rows taken so far, by stitch: taken, given back; and entries taken. -/
structure Need where
  rows : List (Nat × Nat × Nat) := []
  ents : Nat := 0
  deriving DecidableEq, Repr

def Need.at (n : Need) (st : Nat) : Nat × Nat := ((n.rows.find? (fun p => p.1 == st)).map Prod.snd).getD (0, 0)

/-- The need with a name's allocation added, and the lanes in which it passes the peak (R78). -/
def State.addNeed (pre post : State) (ls : List Nat) (w64 : Bool) (n : Need) (c : Code) : Need × List Nat :=
  if pre.inSafe then (n, [])
  else if c.isG then
    let k := if pre.bolt.regs.has (pre.key c 0) then 0 else 1
    let e := n.ents + k
    ({ n with ents := e },
      if k != 0 && pre.bolt.gpeak < pre.bolt.gents - pre.bolt.gresv + max e pre.bolt.gresv then ls else [])
  else
    let rows := (stitchList ls).map (fun st =>
      let p := pre.rowNeed post c w64 st
      (st, p.1 + (n.at st).1, p.2 + (n.at st).2, p.1))
    let past := rows.filter (fun q => q.2.2.2 != 0
      && pre.bolt.peak < pre.bolt.rowsIn q.1 - q.2.2.1 + max q.2.1 (pre.bolt.resv.getD q.1 0))
    ({ n with rows := rows.map (fun q => (q.1, q.2.1, q.2.2.1)) }, ls.filter (fun l => past.any (fun q => q.1 == l / 8)))

/-- The need of the names of a destination: what has been added, the first name that passes the peak, and the lanes
in which one of them does. -/
def State.growNeed (pre post : State) (ls : List Nat) (w64 : Bool) (a : Need × Option Code × List Nat) (c : Code) :
    Need × Option Code × List Nat :=
  let r := pre.addNeed post ls w64 a.1 c
  (r.1, if r.2.isEmpty then a.2.1 else a.2.1.or (some c), a.2.2 ++ r.2)

/-- The need of the names of a destination, or 0x21 (R78). -/
def State.needAll (pre post : State) (x : Ext) (ls : List Nat) (w64 : Bool) (n : Need) (cs : List Code) : R Need :=
  let r := cs.foldl (pre.growNeed post ls w64) (n, none, [])
  match r.2.1 with
  | some c => trap 0x21 (nameAddr 0 c) (pre.failMask x r.2.2)
  | none => .ok r.1

/-- Rows and entries beyond the reservation, and the rows given back. -/
def Need.fromPool (n : Need) (b : Bolt) : Nat := n.rows.foldl (fun a p => a + (p.2.1 - b.resv.getD p.1 0)) 0
def Need.back (n : Need) : Nat := n.rows.foldl (fun a p => a + p.2.2) 0

/-- The pools can serve a need (R74). -/
def State.canTake (s : State) (n : Need) : Bool :=
  decide (n.fromPool s.bolt ≤ s.poolRows + n.back) && decide (n.ents - s.bolt.gresv ≤ s.poolGroup)

/-- The stall of R74 when the pools cannot serve a need: what it asks of them is kept. -/
def State.mustTake (s : State) (n : Need) : R Unit :=
  if s.canTake n then .ok () else retryAlloc s (some (n.fromPool s.bolt - n.back, n.ents - s.bolt.gresv))

/-- The reservation after an allocation has drawn on it (R91). -/
def Bolt.draw (b : Bolt) (n : Need) : Bolt :=
  { b with resv := n.rows.foldl (fun t p =>
             let r := t.getD p.1 0
             if r = 0 ∨ p.2.1 = 0 then t else if r ≤ p.2.1 then t.erase p.1 else t.set p.1 (r - p.2.1)) b.resv
           gresv := b.gresv - n.ents }

/-! ### R6 up to step 5 -/

/-- An instruction that has passed steps 1 to 5: the state in which its operands are read, the state with
reads counted off and rows drawn, its lanes and its sources. -/
structure Prep where
  pre   : State
  post  : State
  lanes : List Nat
  srcs  : List Src
  deriving DecidableEq, Repr

/-- How an instruction meets EMPTY lanes and poison. -/
structure Mode where
  /-- It may split on EMPTY lanes (R69); lane exchange and `bscale` wait whole (R106, R136). -/
  split : Bool := true
  /-- It hands a poisoned value on (R381). -/
  poisonOk : Bool := false
  deriving DecidableEq, Repr

/-- The stall cause of a wait on an EMPTY lane (R69): 3 when an X-pipe form delivers it. -/
def State.emptyCause (s : State) (c : Cell) : Nat :=
  if s.dlv.any (fun d => d.id == c.pend && d.long) then 3 else 2

/-- The lanes that are EMPTY in some source. -/
def State.emptyLanes (s : State) (ls : List Nat) (srcs : List Src) : List Nat :=
  ls.filter (fun l => (srcs.flatMap srcRegs).any (fun c => (s.cell c l).st == .empty))

/-- The wait on EMPTY lanes `es`, or the split into a ready and a waiting swatch (R69), which the safelight context does
not make (R436). A swatch that waits keeps its active lanes and blocking names, all of which must be non-EMPTY before it
goes on; lanes that are not active stay with the ready swatch (DESIGN CHOICE, log 65). The ready swatch keeps its entry,
and the waiting one takes the new one (R152 does not say which: DESIGN CHOICE, log 119). -/
def State.waitEmpty (s : State) (x : Ext) (m : Mode) (ls es : List Nat) (srcs : List Src) : R Unit :=
  let l0 := es.headD 0
  let c0 := ((srcs.flatMap srcRegs).find? (fun c => (s.cell c l0).st == .empty)).getD 0
  let cause := s.emptyCause (s.cell c0 l0)
  let names := (srcs.flatMap srcRegs).eraseDups
  if m.split && !x.g && !s.inSafe && s.bolt.splitEmpty && es.length < ls.length && s.canSplit 1 then
    let w := s.sw
    let wm := maskOf es
    .error (.split ((s.addSwatch
      { w with mask := w.mask &&& wm, st := .retry cause, block := some (wm, names), yield := [], grant := (0, 0) }).setSw
      { w with mask := w.mask &&& ~~~wm, yield := [] }))
  else retry (s.modSw (fun w => { w with block := some (maskOf ls, names) })) cause

/-- Steps 2 and 3 of R6 and the waits that follow them, for the sources `srcs` and the destination names
`dsts` of width `w64`: the lanes that go on. DESIGN CHOICE: the wait and the split on EMPTY lanes come before the checks of
memory and of translation (R197, R208), which R6 and R68 both place before the consumption (log 114). -/
def State.ready (s : State) (x : Ext) (srcs : List Src) (dsts : List Code) (w64 : Bool) (m : Mode := {}) :
    R (List Nat) := do
  let ls := s.actLanes x
  if ls.isEmpty then .ok []
  else do
    s.checkSrcs x ls (readsOf srcs) m.poisonOk srcs
    let disc ← s.checkDsts (s.consume ls srcs) x ls w64 dsts
    let es := s.emptyLanes ls srcs
    if !es.isEmpty then s.waitEmpty x m ls es srcs
    if disc then retryAlloc s none
    .ok ls

/-- Steps 4 and 5 of R6 in the lanes `ls`. -/
def State.takeUp (s : State) (x : Ext) (ls : List Nat) (srcs : List Src) (dsts : List Code) (w64 : Bool) : R Prep :=
  if ls.isEmpty then .ok { pre := s, post := s, lanes := [], srcs := srcs }
  else do
    let post := s.consume ls srcs
    let n ← s.needAll post x ls w64 {} dsts
    s.mustTake n
    .ok { pre := s, post := post.modBolt (fun b => b.draw n), lanes := ls, srcs := srcs }

/-- Steps 2 to 5 of R6. -/
def State.prep (s : State) (x : Ext) (srcs : List Src) (dsts : List Code) (w64 : Bool) (m : Mode := {}) : R Prep := do
  let ls ← s.ready x srcs dsts w64 m
  s.takeUp x ls srcs dsts w64

/-- What the instruction reads at a position in a lane. -/
def Prep.opnd (p : Prep) (pos lane : Nat) (i : Nat := 0) : Opnd :=
  match p.srcs.find? (fun r => r.pos == pos) with
  | some r => p.pre.opnd r lane i
  | none => {}

/-- A source of the instruction in this lane is poisoned. -/
def Prep.poisoned (p : Prep) (lane : Nat) : Bool :=
  (p.srcs.flatMap srcRegs).any (fun c => (p.pre.cell c lane).poison)

/-! ### Writes (R9) -/

/-- `Alloc` and `Write` of one lane. -/
def State.write (s : State) (c : Code) (l : Nat) (cnt : Nat) (t : Tag) (v : Word) (poison : Bool := false) : State :=
  s.setCell c l { st := .full, cnt := cnt, tag := t, val := v, poison := poison }

/-- `Alloc` and `Empty` of one lane, with the delivery that will fill it. -/
def State.owe (s : State) (c : Code) (l : Nat) (cnt : Nat) (t : Tag) (lane : Option Nat) (mem long : Bool)
    (b : Bring) (pass : Nat := 0) : State :=
  let (id, s) := s.takeSerial
  let k := s.key c l
  let s := s.setCellK k { st := .empty, cnt := cnt, tag := t, pend := id }
  { s with dlv := s.dlv ++ [{ id := id, core := s.cur.core, slot := s.cur.slot, key := k, lane := lane
                              mem := mem, long := long, bring := b, pass := pass }] }

/-! ### Completion -/

/-- The forms that issue to E (R292, R318, R341, R366, R395, R423). -/
def issuesToE (opc : Nat) (x : Ext) : Bool :=
  [0x1B0, 0x1B1, 0x1B2, 0x1C0, 0x1C1, 0x1C3, 0x1C4, 0x1C7, 0x1C8, 0x1D0, 0x1D1, 0x1D8, 0x1E4, 0x1E5, 0x1E6].contains opc
    || (opc == 0x1E8 && x.modN ≤ 1)

/-- The forms that the safelight context forbids (R436); `bra` is checked where it acts. -/
def notInSafelight (opc : Nat) (x : Ext) : Bool :=
  [0x145, 0x146, 0x142, 0x143, 0x144, 0x141, 0x147, 0x193, 0x194, 0x195, 0x196, 0x1B3, 0x1B4, 0x1B5, 0x1B6, 0x1B7,
   0x1E0, 0x1E1, 0x00A, 0x1F0, 0x1F1].contains opc || issuesToE opc x

/-- A name of the safelight bank (R436). -/
def inBank (c : Code) : Bool := c.toNat < 8 || (0x100 ≤ c.toNat && c.toNat < 0x120)

/-- The check of R436 and R437 on an instruction with the names it lists. -/
def safeCheck (s : State) (opc : Nat) (x : Ext) (names : List Code) : R Unit :=
  if !s.inSafe then (if opc == 0x1F2 then trap 0x37 (BitVec.ofNat 64 opc) s.sw.mask else .ok ())
  else if notInSafelight opc x then trap 0x37 (BitVec.ofNat 64 opc) s.sw.mask
  else match names.find? (fun c => c.isReg && !inBank c) with
    | some c => trap 0x37 (BitVec.ofNat 64 (c.toNat * 2 ^ 16 + opc)) s.sw.mask
    | none => .ok ()

/-- The instructions of R262. -/
def txForbidden (opc : Nat) (x : Ext) : Bool :=
  [0x180, 0x181, 0x183, 0x166, 0x1E0, 0x1E4, 0x1E5, 0x1E6, 0x1E8].contains opc || (opc == 0x165 && x.g)
    || (0x1B0 ≤ opc && opc ≤ 0x1B7) || (0x1C0 ≤ opc && opc ≤ 0x1C8) || (0x1D0 ≤ opc && opc ≤ 0x1DB)

/-- The lanes an instruction concerns: the active ones, or on the group side the swatch's. -/
def State.concerned (s : State) (x : Ext) : List Nat :=
  if x.g then (if s.gActive x then lanesOf s.nlanes s.sw.mask else []) else s.actLanes x

def State.txAt (s : State) (l : Nat) : Tx := s.bolt.tx.getD l {}
def State.setTx (s : State) (l : Nat) (t : Tx) : State := s.modBolt (fun b => { b with tx := b.tx.set l t })

/-- A running transaction is doomed; an irrevocable one never is (R258, R259), nor one whose commit writes or has
written (R260). -/
def Tx.doomBy (t : Tx) (cause : Nat) : Tx :=
  if t.act && !t.irr && !t.doom && !t.begun && t.dec != 2 then { t with doom := true, cause := cause } else t

/-- R262: the doom of each lane concerned, or 0x2A in an irrevocable transaction. -/
def State.txGuard (s : State) (opc : Nat) (x : Ext) : R State :=
  if !txForbidden opc x || s.bolt.tx.ents.isEmpty then .ok s
  else
    let ls := (s.concerned x).filter (fun l => (s.txAt l).act)
    let irr := ls.filter (fun l => (s.txAt l).irr)
    if !irr.isEmpty then trap 0x2A 3 (maskOf irr)
    else .ok (ls.foldl (fun s l => s.setTx l ((s.txAt l).doomBy 7)) s)

/-- Every lane that the instruction concerns runs dry (R258): it has no effect beyond its registers. -/
def State.dry (s : State) (x : Ext) : Bool :=
  let ls := s.concerned x
  !ls.isEmpty && ls.all (fun l => (s.txAt l).act && (s.txAt l).doom)

/-- What a swatch that waits at a join keeps between instructions: where it goes on. -/
def Swatch.kept (w : Swatch) : Word := match w.st with
  | .join _ => w.hold
  | _ => 0

/-- What every instruction leaves that completes with `n` lane-issues: the counts of R60, R75, R164, R427 and R466, and the
swatch free of what the instruction's waits and replays kept, in portable form where no native form covers its PC (R58).
`pre` is the state at issue. -/
def State.completed (pre : State) (n : Nat) (t : State) : State :=
  let me := pre.bolt.shuttle * 65536 + pre.cur.ent
  let clean (w : Swatch) : Swatch :=
    { w with unfin := none, bad := [], walked := [], noWatch := false, noProbe := none, phase := 0, edge := none, block := none
             short := none, grant := (0, 0), hold := w.kept, native := w.native && t.nativeAt pre.ten w.pc }
  let t := t.modBolt (fun b => { b with
    issued := b.issued + 1
    lastClk := pre.cc.clock.getD pre.bolt.shuttle 0
    protect := if 1024 < pre.cc.clock.getD pre.bolt.shuttle 0 - b.lastClk then none else b.protect.map (· + 1)
    stop := { b.stop with skid := if b.stop.request.isSome then b.stop.skid + 1 else b.stop.skid, last := pre.cur.ent }
    sw := if b.sw.has pre.cur.ent then b.sw.set pre.cur.ent (clean (b.sw.getD pre.cur.ent {})) else b.sw })
  (t.modCore t.cur.core (fun c => c.passed me)).charge pre.ten 0 n

/-- What an issue leaves: a lane-issue is one active lane's, or a group-side form's one (R466). -/
def State.retire (pre : State) (x : Ext) (t : State) : State :=
  pre.completed (if x.g then 1 else popMask pre.nlanes (if [4, 5, 9].contains (pre.sw.phase % 16) then pre.sw.ctx else pre.active x)) t

/-- The address of the following word (R34). -/
def State.nextPc (s : State) (len : Nat) : Word := s.sw.pc + BitVec.ofNat 64 (4 * len)

/-- The names that an extended form lists, ranges included. -/
def listed (x : Ext) (f : Form) (nd nb nc : Nat) : List Code :=
  (if f.dstUsed then codesFrom x.dst nd else []) ++ ((f.srcs x nb nc).flatMap (fun r => r.codes))

/-- Names of the range in DST, in SRCB and in SRCC of a form (R215, R277). -/
def ranges (opc : Nat) (x : Ext) : Nat × Nat × Nat :=
  if opc == 0x162 then (rangeLen x.modN, 1, 1)
  else if opc == 0x163 then (1, rangeLen x.modN, 1)
  else if (opc == 0x1B0 || opc == 0x1B1) && x.modN != 2 then (1, 1, x.immF 6 2 + 1)
  else (1, 1, 1)

/-- The sources of an extended form. -/
def srcsOf (opc : Nat) (x : Ext) : List Src := (form opc x).srcs x (ranges opc x).2.1 (ranges opc x).2.2

/-- An issue: the checks before R6's step 2, the instruction's own effect, and its completion. A form that is
no transfer of control goes on to the following word, which it checks (R37). That 0x37 of R436 and 0x2A of R262 come
before R6's step 2 is a DESIGN CHOICE (log 62). -/
def issueOn (opc len : Nat) (x : Ext) (transfer : Bool) (body : State → R State) (s : State) : R State := do
  safeCheck s opc x (listed x (form opc x) (ranges opc x).1 (ranges opc x).2.1 (ranges opc x).2.2)
  if !transfer then checkNext s (s.nextPc len)
  let s1 ← s.txGuard opc x
  let t ← body s1
  let t := if transfer then t else t.modSw (fun w => { w with pc := s.nextPc len })
  .ok (s.retire x t)

/-- The issue of an extended form, or of the base word equal to it: a split on EMPTY issues the ready part
at once (R69). -/
def issue (opc len : Nat) (x : Ext) (transfer : Bool) (body : State → R State) (s : State) :
    Host.Outcome State Fault Refusal :=
  match issueOn opc len x transfer body s with
  | .error (.split t) => finish t (issueOn opc len x transfer body t)
  | r => finish s r

end Sys2Proof.Machine
end

