-- ==== Sys2Proof/Machine/Flags.lean ====
section
/-! DEFINITION. The status flags (R134, R135) and the predicates that forms write (R127, R132, R139 to R141);
and the two moulds of the computing forms: results written at once, with their flags recorded when the
instruction completes, and results delivered later, with their flags recorded at the delivery. -/

namespace Sys2Proof.Machine

/-- The length in words of a base form (R34). -/
def baseLen (w : BaseWord) : Nat := if w.lit.isSome then 3 else 1

/-- A form's function of one lane. -/
abbrev LaneFn := Ext → Opnd → Opnd → Opnd → Res

/-- A lane's result. -/
def Prep.res (p : Prep) (x : Ext) (f : LaneFn) (l : Nat) : Res := f x (p.opnd 1 l) (p.opnd 2 l) (p.opnd 3 l)

/-- Step 6 of a form that writes at once. -/
def Prep.results (p : Prep) (x : Ext) (m : Mode) (f : LaneFn) : State :=
  p.lanes.foldl (fun s l =>
    let r := p.res x f l
    (s.write x.dst l x.cntN r.tag r.val (m.poisonOk && p.poisoned l)).orFlags r.fl) p.post

/-- Step 6 of a form of the X pipe: its lanes are EMPTY, and deliver later (R106, R142). -/
def Prep.owed (p : Prep) (x : Ext) (f : LaneFn) : State :=
  p.lanes.foldl (fun s l =>
    let r := p.res x f l
    s.owe x.dst l x.cntN r.tag (if x.g then none else some l) false true (.value r.val r.tag r.fl false)) p.post

/-- A computing form that writes at once: `w64` the width of its destination. -/
def laneForm (opc len : Nat) (x : Ext) (w64 : Bool) (f : LaneFn) (s : State) (m : Mode := {}) :
    Host.Outcome State Fault Refusal :=
  issue opc len x false (fun s => do
    let p ← s.prep x (srcsOf opc x) [x.dst] w64 m
    .ok (p.results x m f)) s

/-- A computing form of the X pipe. -/
def longForm (opc len : Nat) (x : Ext) (w64 : Bool) (f : LaneFn) (s : State) : Host.Outcome State Fault Refusal :=
  issue opc len x false (fun s => do
    let p ← s.prep x (srcsOf opc x) [x.dst] w64
    .ok (p.owed x f)) s

/-- A predicate result combined under MOD: written, and, or (R127, R132). -/
def combineK (m : Nat) (old new : Bool) : Bool :=
  if m == 1 then old && new else if m == 2 then old || new else new

/-- A predicate form: the bit each lane computes goes to kD or qD, combined under MOD (R127, R132). -/
def Prep.predicate (p : Prep) (x : Ext) (d : Nat) (f : Opnd → Opnd → Bool × Fp.Flags) : State :=
  let r (l : Nat) := f (p.opnd 1 l) (p.opnd 2 l)
  let s := p.lanes.foldl (fun s l => s.orFlags (r l).2) p.post
  if p.lanes.isEmpty then s
  else if x.g then s.setQ d (combineK x.modN (s.qBit d) (r 0).1)
  else s.setK d (maskOf p.lanes)
    (maskOf (p.lanes.filter (fun l => combineK x.modN ((s.kMask d).getLsbD l) (r l).1)))

end Sys2Proof.Machine
end

