-- ==== Sys2Proof/Machine/Register.lean ====
section
/-! DEFINITION. The register management class: the eleven forms that work on names (R81 to R91), and the
base forms equal to them (R54). -/

namespace Sys2Proof.Machine

abbrev Out := Host.Outcome State Fault Refusal

/-! ### mov, movi, sel, retag, nstat -/

/-- `mov` (R83): the value with its tag and its poison mark (R381). -/
def movForm (len : Nat) (x : Ext) (s : State) : Out :=
  laneForm 0x000 len x x.fmt.is64 Alu.mov s { poisonOk := true }

def execMov (x : Ext) (s : State) : Out := movForm x.len x s
def execMovB32Base (w : BaseWord) (s : State) : Out := movForm (baseLen w) (w.toExt 0x01) s
def execMovB64Base (w : BaseWord) (s : State) : Out := movForm (baseLen w) (w.toExt 0x02) s

/-- `movi` (R84). -/
def moviForm (len : Nat) (x : Ext) (s : State) : Out := laneForm 0x001 len x x.fmt.is64 Alu.movi s

def execMovi (x : Ext) (s : State) : Out := moviForm x.len x s
def execMoviS32Base (w : BaseWord) (s : State) : Out := moviForm (baseLen w) (w.toExt 0x03) s

/-- The tag that an operand passes on in a position of width W: for an operand that is no register `mov`'s (R83), which
R89 does not state for `sel` (DESIGN CHOICE, log 61). -/
def passTag (r : Src) (w64 : Bool) (o : Opnd) : Tag :=
  let c := r.codes.headD 0
  if o.reg then o.tag
  else if r.lit.isNone && c.isSpecial then (if w64 then .n64 else .n32)
  else if r.lit.isNone && c.isIntConst then (if w64 then .s64 else .s32)
  else if w64 then .bits64 else .bits32

/-- The selector of `sel` in a lane (R89). -/
def selects (s : State) (x : Ext) (l : Nat) : Bool :=
  (if x.g then s.qBit (x.immF 0 3) else (s.kMask (x.immF 0 3)).getLsbD l) != x.imm.getLsbD 3

/-- `sel` (R89). -/
def execSel (x : Ext) (s : State) : Out :=
  issue 0x008 x.len x false (fun s => do
    let p ← s.prep x (srcsOf 0x008 x) [x.dst] x.fmt.is64
    .ok (p.lanes.foldl (fun t l =>
      let pos := if selects p.pre x l then 1 else 2
      let o := p.opnd pos l
      t.write x.dst l x.cntN (passTag ((p.srcs.find? (fun r => r.pos == pos)).getD { pos := 0 }) x.fmt.is64 o) o.val) p.post)) s

/-- `retag` (R90). -/
def execRetag (x : Ext) (s : State) : Out := laneForm 0x009 x.len x x.fmt.is64 Alu.retag s

/-- The value of `nstat` (R88). DESIGN CHOICE: W64 of a group-wide name, which has no row, is 1 while the name is in use with
a 64-bit tag (log 125). -/
def nstatVal (s : State) (c : Code) (l : Nat) : Word :=
  let e := s.cell c l
  let w64 := if c.isV then (match s.rowOf c (l / 8) with | some (b, _) => b | none => false) else !e.dead && e.tag.is64
  BitVec.ofNat 64 ((if w64 then 2 ^ 12 else 0)
    + (if e.dead then 0 else e.tag.code.toNat * 2 ^ 8 + (if e.st == .empty then 1 else 2) * 2 ^ 4 + e.cnt))

/-- `nstat` (R88): no read, no fault and no wait on its source. -/
def execNstat (x : Ext) (s : State) : Out :=
  issue 0x007 x.len x false (fun s => do
    let p ← s.prep x [] [x.dst] false
    .ok (p.lanes.foldl (fun t l => t.write x.dst l x.cntN .n32 (nstatVal p.pre x.a l)) p.post)) s

/-! ### drop, exhaust, hold, recount -/

/-- The names of `drop` and `hold` with their positions (R80). -/
def namesOf (x : Ext) : List (Nat × Code) := [(1, x.a), (2, x.b), (3, x.c)].take (x.modN + 1)

/-- The first listed name that fails in some lane raises 0x03. -/
def checkNames (s : State) (x : Ext) (bad : Code → Cell → Bool) : List (Nat × Code) → R Unit
  | [] => .ok ()
  | (pos, c) :: r =>
    match (s.actLanes x).filter (fun l => bad c (s.cell c l)) with
    | [] => checkNames s x bad r
    | fs => trap 0x03 (nameAddr pos c) (s.failMask x fs)

/-- A change of each active lane of some names. -/
def modNames (s : State) (x : Ext) (cs : List Code) (f : Cell → Cell) : State :=
  cs.foldl (fun s c => (s.actLanes x).foldl (fun s l => s.setCell c l (f (s.cell c l))) s) s

/-- One dropped read: a held lane ends (R85). -/
def Cell.drop (c : Cell) : Cell := if c.st == .exhausted || c.st == .discarding then c else if c.cnt = 15 then c.finish else c.take 1

/-- `drop` (R85): it checks no tag and never waits. -/
def dropForm (len : Nat) (x : Ext) (s : State) : Out :=
  issue 0x002 len x false (fun s => do
    let ns := namesOf x
    checkNames s x (fun n c => c.cnt != 15 && decide (c.cnt < (ns.map Prod.snd).count n)) ns
    .ok (modNames s x (ns.map Prod.snd) Cell.drop)) s

def execDrop (x : Ext) (s : State) : Out := dropForm x.len x s
def execDrop1Base (w : BaseWord) (s : State) : Out := dropForm (baseLen w) (w.toExt 0x04) s
def execDrop2Base (w : BaseWord) (s : State) : Out := dropForm (baseLen w) (w.toExt 0x05) s
def execDrop3Base (w : BaseWord) (s : State) : Out := dropForm (baseLen w) (w.toExt 0x06) s

/-- `exhaust` (R85): it makes no read, and leaves an EXHAUSTED lane as it is. -/
def exhaustForm (len : Nat) (x : Ext) (s : State) : Out :=
  issue 0x003 len x false (fun s => .ok (modNames s x [x.a] (fun c => if c.dead then c else c.finish))) s

def execExhaust (x : Ext) (s : State) : Out := exhaustForm x.len x s
def execExhaustBase (w : BaseWord) (s : State) : Out := exhaustForm (baseLen w) (w.toExt 0x07) s

/-- `hold` (R86). -/
def execHold (x : Ext) (s : State) : Out :=
  issue 0x004 x.len x false (fun s => do
    let ns := namesOf x
    checkNames s x (fun _ c => c.dead) ns
    .ok (modNames s x (ns.map Prod.snd) (fun c => { c with cnt := 15 }))) s

/-- `recount` and `recount.add` (R86). -/
def execRecount (x : Ext) (s : State) : Out :=
  issue 0x005 x.len x false (fun s => do
    checkNames s x (fun _ c => c.dead) [(0, x.dst)]
    let past := (s.actLanes x).filter (fun l =>
      let c := s.cell x.dst l
      x.modN == 1 && c.cnt != 15 && decide (14 < c.cnt + x.cntN))
    if !past.isEmpty then trap 0x22 (nameAddr 0 x.dst) (s.failMask x past)
    .ok (modNames s x [x.dst] (fun c =>
      { c with cnt := if x.modN == 0 then x.cntN else if c.cnt = 15 then 15 else c.cnt + x.cntN }))) s

/-! ### rebind -/

/-- A row of `a` passes by relabelling (R87): its every live lane is active and `d` has no row in the stitch. A discarding
lane keeps its row (R71), and counts as live here: DESIGN CHOICE, log 78. -/
def relabels (s : State) (x : Ext) (ls : List Nat) (st : Nat) : Bool :=
  (s.rowOf x.dst st).isNone
    && (List.range 8).all (fun i => ls.contains (8 * st + i) || (s.cell x.a (8 * st + i)).st == .exhausted)

/-- One lane of `a` becomes that lane of `d`, its pending delivery with it. -/
def moveLane (s : State) (x : Ext) (l : Nat) : State :=
  let c := s.cell x.a l
  let k := s.key x.dst l
  let s := (s.setCell x.a l {}).setCell x.dst l c
  if c.st == .empty then
    { s with dlv := s.dlv.map (fun d => if d.id == c.pend then { d with key := k } else d) }
  else s

/-- The width of `a`'s row is what `d`'s stitch must hold (R63, R87). -/
def rebindWidth (s : State) (x : Ext) (l : Nat) : Bool := (s.cell x.a l).tag.is64

/-- The rows that the moves take: `thin` lanes of 32-bit rows, `wide` ones of 64-bit rows; or 0x21 with the lanes of both
that pass the peak (R78, R80). -/
def rebindNeed (s : State) (x : Ext) (thin wide : List Nat) : R Need :=
  if x.dst.isG || s.inSafe then .ok {}
  else do
    let n := s.growNeed s thin false ({}, none, []) x.dst
    let m := s.growNeed s wide true ({}, none, []) x.dst
    match n.2.1.or m.2.1 with
    | some c => trap 0x21 (nameAddr 0 c) (s.failMask x (n.2.2 ++ m.2.2))
    | none => .ok { rows := n.1.rows ++ m.1.rows }

/-- `rebind` (R87): no read, no tag check, no wait on EMPTY; under a trap bit an EMPTY lane fails (R44, R68). -/
def execRebind (x : Ext) (s : State) : Out :=
  issue 0x006 x.len x false (fun s => do
    let ls := s.actLanes x
    s.checkState x ls { pos := 1, codes := [x.a], trap := x.ta }
    let live := ls.filter (fun l => !(s.cell x.dst l).dead
      || (x.dst.isV && (match s.rowOf x.dst (l / 8) with | some (b, v) => b != rebindWidth s x l && v | none => false)))
    if !live.isEmpty then trap 0x04 (nameAddr 0 x.dst) (s.failMask x live)
    if ls.any (fun l => (s.cell x.dst l).st == .discarding
        || (x.dst.isV && (match s.rowOf x.dst (l / 8) with | some (b, _) => b != rebindWidth s x l | none => false))) then
      retryAlloc s none
    let mv := ls.filter (fun l => x.dst.isV && !relabels s x ls (l / 8))
    let wide := mv.filter (rebindWidth s x)
    let thin := mv.filter (fun l => !rebindWidth s x l)
    let need ← rebindNeed s x thin wide
    s.mustTake need
    .ok (ls.foldl (fun s l => moveLane s x l) (s.modBolt (fun b => b.draw need)))) s

/-! ### reserve -/

/-- The operand of `reserve`. -/
def reserveU (x : Ext) : Nat := x.immF 0 8

/-- `reserve` (R91). -/
def execReserve (x : Ext) (s : State) : Out :=
  issue 0x00A x.len x false (fun s => do
    let u := reserveU x
    let b := s.bolt
    if (s.actLanes x).isEmpty then .ok s
    else if x.g then do
      if b.gpeak < b.gents - b.gresv + u then trap 0x21 0 s.sw.mask
      if s.poolGroup < u - b.gresv then retryAlloc s (some (0, u - b.gresv))
      .ok (s.modBolt (fun b => { b with gresv := u }))
    else do
      if (List.range b.stitches).any (fun st => decide (b.peak < b.rowsIn st + u)) then
        trap 0x21 0 (s.active x)
      let more := (List.range b.stitches).foldl (fun a st => a + (u - b.resv.getD st 0)) 0
      if s.poolRows < more then retryAlloc s (some (more, 0))
      .ok (s.modBolt (fun b => { b with resv :=
        if u = 0 then {} else ⟨(List.range b.stitches).map (fun st => (st, u))⟩ }))) s

end Sys2Proof.Machine
end

