-- ==== Sys2Proof/Machine/Convert.lean ====
section
/-! DEFINITION. The conversion class (R105 to R117) but for `pbload`, which stands with the memory forms: it
reads memory. -/

namespace Sys2Proof.Machine

/-- `cvt` (R107). -/
def execCvt (x : Ext) (s : State) : Out := laneForm 0x030 x.len x x.fmt.is64 Alu.cvt s

/-- `cvtfi` (R115). -/
def execCvtfi (x : Ext) (s : State) : Out := laneForm 0x031 x.len x x.fmt.is64 Alu.cvtfi s

/-- `cvtif` (R115). -/
def execCvtif (x : Ext) (s : State) : Out := laneForm 0x032 x.len x x.fmt.is64 Alu.cvtif s

/-- `pack2` (R108). -/
def execPack2 (x : Ext) (s : State) : Out := laneForm 0x033 x.len x x.fmt.is64 Alu.pack2 s

/-- `unpack` (R109). -/
def execUnpack (x : Ext) (s : State) : Out := laneForm 0x034 x.len x x.fmt.is64 Alu.unpack s

/-- `quant` (R111). -/
def execQuant (x : Ext) (s : State) : Out := laneForm 0x036 x.len x x.fmt.is64 Alu.quant s

/-- `dequant` (R112). -/
def execDequant (x : Ext) (s : State) : Out := laneForm 0x037 x.len x x.fmt.is64 Alu.dequant s

/-- `bscale` (R110): one scale for the active lanes of each 16-lane group; it waits whole (R106). It records no
flag, of a signalling NaN neither: DESIGN CHOICE (log 66). -/
def execBscale (x : Ext) (s : State) : Out :=
  issue 0x035 x.len x false (fun s => do
    let p ← s.prep x (srcsOf 0x035 x) [x.dst] false { split := false }
    .ok (p.lanes.foldl (fun t l =>
      let vs := (p.lanes.filter (fun k => k / 16 == l / 16)).flatMap (fun k =>
        Fp.elemList x.srcTag (p.opnd 1 k).val ++ Fp.elemList x.srcTag (p.opnd 2 k).val)
      t.write x.dst l x.cntN .sc8x4 (Fp.splat .sc8x4 (Fp.bscaleByte x.fmt vs))) p.post)) s

/-! ### The pattern store (R97, R98, R117) -/

/-- A leader of a core's pattern store. -/
def Core.leader (c : Core) (i : Nat) : BitVec 32 := c.leaders.getD i (Fp.defaultLeader i)

/-- The check of R117 and the waits of R98 of an instruction that reads the store; an error found in the
default table regenerates it (R419). -/
def psGuard (s : State) (x : Ext) (ls : List Nat) : R Unit :=
  let c := s.cc
  if ls.isEmpty then .ok ()
  else if c.psOwner.isSome && c.psOwner != some s.bolt.launch then
    trap 0x23 (BitVec.ofNat 64 x.a.toNat) (s.failMask x ls)
  else if c.psRegen then retry s 10
  else if c.psOwner.isNone && !c.psBad.isEmpty then
    .error (.wait (.retry 10) (s.modCore s.cur.core (fun c => { c with psRegen := true })))
  else .ok ()

/-- A form that decodes: its source checks, the check of R117, and the rest of R6. DESIGN CHOICE: 0x23, which R117 places
after the tag and count checks, comes before the destination check (log 116). -/
def psPrep (opc : Nat) (x : Ext) (s : State) : R Prep := do
  let ls := s.actLanes x
  s.checkSrcs x ls (readsOf (srcsOf opc x)) false (srcsOf opc x)
  psGuard s x ls
  s.prep x (srcsOf opc x) [x.dst] false

/-- The leaders of the two codewords of a lane's value are damaged (R419). -/
def psPoison (s : State) (v : Word) : Bool :=
  s.cc.psBad.any (fun i => i == v.toNat / 2 ^ 7 % 512 || i == v.toNat / 2 ^ 23 % 512)

/-- `pbdec` (R113). -/
def execPbdec (x : Ext) (s : State) : Out :=
  issue 0x038 x.len x false (fun s => do
    let p ← psPrep 0x038 x s
    .ok (p.lanes.foldl (fun t l =>
      let r := p.res x (Alu.pbdec p.pre.cc.leader) l
      (t.write x.dst l x.cntN r.tag r.val (psPoison p.pre (p.opnd 1 l).val)).orFlags r.fl) p.post)) s

/-- `pbenc` (R114): on X it is delivered later, on the group side G writes it at once (R106). -/
def execPbenc (x : Ext) (s : State) : Out :=
  issue 0x039 x.len x false (fun s => do
    let p ← psPrep 0x039 x s
    .ok (if x.g then p.results x {} (Alu.pbenc p.pre.cc.leader) else p.owed x (Alu.pbenc p.pre.cc.leader))) s

end Sys2Proof.Machine
end

