-- ==== Sys2Proof/Machine/MemOps.lean ====
section
/-! DEFINITION. The named operations over memory: the windows (R194 to R201), the L2 with its owners and its
check bits (R226 to R230, R419), the L1 (R205), translation and tacks (R207 to R212, R327, R331), stores and
loads (R226 to R229), the watch comparison (R432) and transactional accesses (R256 to R261). -/

namespace Sys2Proof.Machine

/-! ### Physical memory at the L2 -/

/-- The line of a physical address. -/
def lineOf (pa : Nat) : Nat := pa / 128 * 128

/-- The home slice of a physical line (R207). -/
def homeSlice (pa : Nat) : Nat :=
  let f (lo : Nat) : Nat := pa / 2 ^ lo % 128
  Nat.xor (Nat.xor (Nat.xor (f 7) (f 14)) (Nat.xor (f 21) (f 28))) (Nat.xor (f 35) (pa / 2 ^ 42 % 64))

/-- The 8-byte words that `n` bytes from `pa` touch. -/
def wordsOf (pa n : Nat) : List Nat :=
  if n = 0 then [] else (List.range ((pa + n - 1) / 8 - pa / 8 + 1)).map (fun i => 8 * (pa / 8 + i))

/-- The word of the L2 at a physical address. -/
def State.l2Word (s : State) (pa : Nat) : Word := BitVec.ofNat 64 (s.mem.readN pa 8)

/-- An uncorrectable error stands in the word (R419). -/
def State.l2Bad (s : State) (pa : Nat) : Bool := decide (2 ≤ ones (s.ecc.getD pa 0))

/-- A read corrects a single-bit error, and counts it (R419). -/
def State.l2Correct (s : State) (pa : Nat) : State :=
  if ones (s.ecc.getD pa 0) = 1 then
    let sl := homeSlice pa
    { s with ecc := s.ecc.erase pa, l2corr := s.l2corr.set sl (s.l2corr.getD sl 0 + 1) }
  else s

/-- The words of a line. -/
def lineWs (pa : Nat) : List Nat := (List.range 16).map (fun i => lineOf pa + 8 * i)

/-- A line with words that are not valid in the L2 is filled from HBM, charged to a tenancy (R28, R466). -/
def State.l2Fill (s : State) (pa ten : Nat) : State :=
  if (lineWs pa).all (fun w => s.l2in.has w) then s
  else ({ s with l2in := (lineWs pa).foldl (fun t w => t.set w true) s.l2in }).charge ten 2 128

/-- A word that `n` bytes from `pa` write is valid in the L2: one written in part is filled first. The rules say of few
accesses that they fill (R28): a tack's TIME, a launch record's read, a revocable atomic, a commit's comparison and the
walks of an engine's write leave the bits alone (DESIGN CHOICE, log 84). -/
def State.l2Valid (s : State) (pa n w ten : Nat) : State :=
  if s.l2in.has w then s
  else if pa ≤ w ∧ w + 8 ≤ pa + n then { s with l2in := s.l2in.set w true }
  else s.l2Fill w ten

/-- An access to a page whose leaf counts accesses (R214): at the threshold its event is due, and the count begins
again. A staged store counts when it goes to the L2 (R412), and its commit does not count it again (DEDUCED, log 107). The count is
one of a region of physical addresses: DESIGN CHOICE, log 88. -/
def State.bump (s : State) (pa : Nat) (acc : Bool) : State :=
  if !acc then s
  else
    let r := pa / 2 ^ 21
    let n := s.access.getD r 0 + 1
    if s.accThr ≠ 0 ∧ s.accThr ≤ n then
      { s with access := s.access.erase r, accDue := s.accDue.set r (s.accDue.getD r 0 + 1), agenda := s.agenda ++ [.accessEvent r] }
    else { s with access := s.access.set r n }

/-- The lines that the transactions of some lanes hold: irrevocable ones (R261), or commits under way (R260). -/
def State.txLines (s : State) (p : Nat → Nat → Nat → Tx → Bool) : List Nat :=
  s.cores.ents.flatMap (fun c => c.2.bolts.ents.flatMap (fun b => b.2.tx.ents.flatMap (fun t =>
    if p c.1 b.1 t.1 t.2 then t.2.lines else [])))

/-- A running irrevocable transaction; a commit with its locks. -/
def Tx.holds (t : Tx) : Bool := t.act && t.irr
def Tx.locks (t : Tx) : Bool := t.act && !t.irr && t.dec == 1

/-- An access to a line by an agent, a core or another, waits: an engine holds the line (R238), an irrevocable
transaction of another core (R261), or a commit has locked it (R260). That the other agents of R261 are other cores and
engines, so that the holder's core does not wait at the line, is DEDUCED (log 109). -/
def State.lineBusy (s : State) (pa : Nat) (core : Option Nat) : Bool :=
  s.holds.any (fun h => h.1 == lineOf pa)
    || (s.txLines (fun c _ _ t => (t.holds && core != some c) || t.locks)).contains (lineOf pa)

/-- Every transaction changed alike, by core, slot and lane. -/
def State.mapTx (s : State) (f : Nat → Nat → Nat → Tx → Tx) : State :=
  { s with cores := ⟨s.cores.ents.map (fun c => (c.1, { c.2 with bolts := ⟨c.2.bolts.ents.map (fun b =>
    (b.1, { b.2 with tx := ⟨b.2.tx.ents.map (fun t => (t.1, f c.1 b.1 t.1 t.2))⟩ }))⟩ }))⟩ }

/-- The transactions whose sets hold one of some words are doomed, but for those that `keep` excepts (R259), and a commit
that has locked the word's line: the access waits for that at the slice (R260; DEDUCED, log 108). -/
def State.doomWords (s : State) (ws : List Nat) (cause : Nat) (keep : Nat → Nat → Nat → Bool) : State :=
  let hit (t : Tx) : Bool := ws.any (fun w =>
    (t.wrw.contains w || t.rd.any (fun r => r.1 == w)) && !(t.locks && t.lines.contains (lineOf w)))
  if s.cores.vals.all (fun c => c.bolts.vals.all (fun b => b.tx.ents.isEmpty)) then s
  else s.mapTx (fun c b l t => if hit t && !keep c b l then t.doomBy cause else t)

/-- A lane's commit is decided: it aborts, and its locks are released. -/
def Tx.fails (t : Tx) (cause : Nat) : Tx :=
  { t with doom := true, cause := if t.doom then t.cause else cause, dec := 3, lines := [] }

/-- An irrevocable lane reaches a line: it wins against a commit that has locked it and not begun to write, whose line
it then holds (R259, R261; cause 1). -/
def State.evict (s : State) (pa : Nat) : State :=
  let loses (t : Tx) : Bool := t.locks && !t.begun && t.lines.contains (lineOf pa)
  s.mapTx (fun _ _ _ t => if loses t then t.fails 1 else t)

/-- A move of ownership of a word (R205, R230): every L1 but the new owner's loses it. A store that leaves the owner
unchanged clears nothing; an engine's write always does. -/
def State.moveOwner (s : State) (pa : Nat) (owner : Nat) : State :=
  if s.owner.getD pa 0xFE = owner ∧ owner < 0xFE then s
  else
    let s := { s with owner := if owner = 0xFE then s.owner.erase pa else s.owner.set pa owner }
    if s.cores.vals.all (fun c => !c.l1.has pa) then s
    else { s with cores := ⟨s.cores.ents.map (fun c => (c.1, if c.1 = owner then c.2 else { c.2 with l1 := c.2.l1.erase pa }))⟩ }

/-- The check bits of the words after a write of `n` bytes at `a`, words of `unit` bytes. -/
def writeEcc (t : Tab Word) (unit a n : Nat) : Tab Word :=
  if t.ents.isEmpty then t
  else ⟨t.ents.filter (fun e => !(a < e.1 + unit && e.1 < a + n)
    || (decide (2 ≤ ones e.2) && !(decide (a ≤ e.1) && decide (e.1 + unit ≤ a + n))))⟩

/-- A write performed at the L2 by an owner code (R226, R230): the bytes, the owners, the L1 copies. -/
def State.writeL2 (s : State) (pa : Nat) (bytes : List Byte) (owner ten : Nat) : State :=
  let ws := wordsOf pa bytes.length
  let s := { s with mem := s.mem.writeBytes pa bytes, ecc := writeEcc s.ecc 8 pa bytes.length }
  let s := ws.foldl (fun s w => (s.moveOwner w owner).l2Valid pa bytes.length w ten) s
  let s := { s with lineTen := (ws.map lineOf).eraseDups.foldl (fun t l => t.set l ten) s.lineTen }
  let s := s.doomWords ws 1 (fun c _ _ => c == owner)
  if decide (owner < 144) && s.cores.has owner then
    let up (t : Tab L1Word) (w : Nat) : Tab L1Word :=
      if t.has w then t.set w { owned := true, val := s.l2Word w, bad := false } else t
    s.modCore owner (fun c => { c with l1 := ws.foldl up c.l1 })
  else s

/-- Bytes by address as writes: a word of which every byte stands at once, the others one by one. -/
def wordWrites (t : Tab Byte) : List (Nat × List Byte) :=
  let bytes (w : Nat) : List (Option Byte) := (List.range 8).map (fun i => t.get? (w + i))
  ((t.keys.map (fun a => a / 8 * 8)).eraseDups).flatMap (fun w =>
    if (bytes w).all Option.isSome then [(w, (bytes w).filterMap id)]
    else ((bytes w).zipIdx).filterMap (fun b => b.1.map (fun v => (w + b.2, [v]))))

/-! ### Windows (R194 to R201) -/

/-- The window of an address as `aq` numbers them (R194, R221): 15 is none. -/
def winOf (a : Word) : Nat :=
  let v := a.toNat
  if v < 2 ^ 56 then 0
  else if 0xFE00000000000000 ≤ v ∧ v < 0xFE00000001000000 then 1
  else if 0xFF00000000000000 ≤ v ∧ v < 0xFF00000000400000 then 2
  else if 0xFF80000000000000 ≤ v ∧ v < 0xFF80000002000000 then 3
  else 15

/-- The offset from the window's first address. -/
def winOff (a : Word) : Nat :=
  match winOf a with
  | 0 => a.toNat
  | 1 => a.toNat - 0xFE00000000000000
  | 2 => a.toNat - 0xFF00000000000000
  | 3 => a.toNat - 0xFF80000000000000
  | _ => a.toNat

/-- `SB` of a bolt (R201). -/
def stackBase (l : Launch) (p : Panel) (b : Bolt) : Nat :=
  let sz := (8 * b.stitches * l.stkSize + 4096 + 65535) / 65536 * 65536
  l.stack.toNat + ((p.x + l.nx * (p.y + l.ny * p.z)) * l.nbolt + b.index) * sz

/-- Byte `x` of a lane's stack, as a global address (R201). -/
def stackAddr (l : Launch) (p : Panel) (b : Bolt) (lane x : Nat) : Nat :=
  stackBase l p b + (if lane = 0 then 0 else l.stkSize + 4096 + (lane - 1) * l.stkSize) + x

/-- Steps 1 to 3 of R197 on one access of a lane: the place, or the cause. -/
def State.place (s : State) (lane : Nat) (va : Word) (size : Nat) : Except Nat Place :=
  let x := winOff va
  if va.toNat % size ≠ 0 then .error 0x0A
  else match winOf va with
    | 0 => .ok (.glob va)
    | 1 => if x + size ≤ s.launch.stkSize
           then .ok (.glob (BitVec.ofNat 64 (stackAddr s.launch s.panel s.bolt lane x))) else .error 0x0B
    | 2 => if x + size ≤ s.panel.scrSize then .ok (.scr s.cur.core (s.panel.scrOff + x)) else .error 0x0D
    | 3 =>
      match s.groupPanel s.cur.core s.bolt.panel (x / 0x400000) with
      | none => .error 0x0D
      | some (c, p) =>
        let q := s.panelAt c p
        if x % 0x400000 + size ≤ q.scrSize then .ok (.scr c (q.scrOff + x % 0x400000)) else .error 0x0D
    | _ => .error 0x0B

/-! ### Translation (R208 to R212, R327, R331) -/

/-- What a walk reads of a page-table entry (R210): none for V = 0 and for a malformed one. -/
inductive Pte where
  | next (pa : Nat)
  | leaf (l : Leaf)
  deriving DecidableEq, Repr

def readPte (e level : Nat) : Option Pte :=
  let addr := e / 2 ^ 12 % 2 ^ 36 * 2 ^ 12
  let leaf := e.testBit 1
  let log := if level = 2 then 30 else if level = 3 then 21 else 16
  if !e.testBit 0 || e / 2 ^ 48 != 0 || e / 2 ^ 5 % 16 != 0 then none
  else if leaf then
    if level < 2 || addr % 2 ^ log != 0 then none
    else some (.leaf { pa := addr, log := log, acc := e.testBit 11, tck := e.testBit 10, mov := e.testBit 9
                       x := e.testBit 4, w := e.testBit 3, rd := e.testBit 2 })
  else if level = 4 then none else some (.next addr)

/-- The index of a level (R210). -/
def pteIndex (va level : Nat) : Nat :=
  match level with
  | 0 => va / 2 ^ 48 % 256
  | 1 => va / 2 ^ 39 % 512
  | 2 => va / 2 ^ 30 % 512
  | 3 => va / 2 ^ 21 % 512
  | _ => va / 2 ^ 16 % 32

/-- The words that a walk from a table of a level reads. -/
def walkWords (s : State) (va : Nat) : Nat → Nat → Nat → List Nat
  | 0, _, _ => []
  | fuel + 1, table, level =>
    let a := table + 8 * pteIndex va level
    if Config.hbmBytes < a + 8 then []
    else a :: (if s.l2Bad a then [] else match readPte (s.mem.readN a 8) level with
      | some (.next t) => walkWords s va fuel t (level + 1)
      | _ => [])

/-- The walk from a table of a level; an entry beyond memory or uncorrectable is malformed (R210, R419). -/
def walkFrom (s : State) (va : Nat) : Nat → Nat → Nat → Option Leaf
  | 0, _, _ => none
  | fuel + 1, table, level =>
    let a := table + 8 * pteIndex va level
    if Config.hbmBytes < a + 8 ∨ s.l2Bad a then none
    else match readPte (s.mem.readN a 8) level with
      | none => none
      | some (.leaf l) => some l
      | some (.next t) => walkFrom s va fuel t (level + 1)

def State.walk (s : State) (ten va : Nat) : Option Leaf :=
  let t := s.tenOf ten
  if !t.rootEn || 2 ^ 56 ≤ va then none else walkFrom s va 5 t.root 0

/-- The tile of an address in a tenancy's arena (R324). -/
def State.tileOf (s : State) (ten va : Nat) : Option Nat :=
  let t := s.tenOf ten
  let b := t.arenaBase * 2 ^ 20
  if b ≤ va ∧ va < b + t.tiles * 65536 then some ((va - b) / 65536) else none

/-- The first address of a tile. -/
def State.tileAddr (s : State) (ten tile : Nat) : Nat := (s.tenOf ten).arenaBase * 2 ^ 20 + tile * 65536

/-- Word 0 of a tile's entry of the tack table (R325). -/
def State.tack (s : State) (ten tile : Nat) : Nat := s.mem.readN ((s.tenOf ten).ttab + 16 * tile) 8
def tackT (e : Nat) : Bool := e.testBit 63
def tackM (e : Nat) : Bool := e.testBit 62
def tackIn (e : Nat) : Nat := e / 2 ^ 58 % 8
def tackTo (e : Nat) : Nat := e / 2 ^ 32 % 2 ^ 20
def tackHold (e : Nat) : Nat := e / 2 ^ 16 % 2 ^ 16
def tackPin (e : Nat) : Nat := e % 2 ^ 16

/-- An error that cannot be corrected stands in the word (R419): a walker treats the entry as malformed, and an engine that
reads it ends with status 5. The forms that act at the table read it as it is held, for which the spec gives no rule (DESIGN
CHOICE, log 112). -/
def State.tackBad (s : State) (ten tile : Nat) : Bool := s.l2Bad ((s.tenOf ten).ttab + 16 * tile)

/-- An entry's word 0 is read and rewritten at its home slice (R325): an error that cannot be corrected stays. -/
def State.setTack (s : State) (ten tile e : Nat) : State :=
  let a := (s.tenOf ten).ttab + 16 * tile
  let s := s.l2Correct a
  ({ s with mem := s.mem.writeN a 8 e }).l2Valid a 8 a ten

/-- What a walk for an address reads comes into the L2, single-bit errors corrected (R28, R327, R419). -/
def State.walkFill (s : State) (ten va : Nat) : State :=
  let t := s.tenOf ten
  let ws := (if !t.rootEn || 2 ^ 56 ≤ va then [] else walkWords s va 5 t.root 0)
    ++ (match s.tileOf ten va with
      | some i => [t.ttab + 16 * i]
      | none => [])
  ws.foldl (fun s w => (s.l2Fill w ten).l2Correct w) s

/-- PIN of a tile changed (R333, R339). -/
def State.addPin (s : State) (ten tile : Nat) (f : Nat → Nat) : State :=
  let e := s.tack ten tile
  s.setTack ten tile (e / 2 ^ 16 * 2 ^ 16 + f (tackPin e) % 2 ^ 16)

/-- A movable tile's leaf (R324). -/
def Leaf.movable (l : Leaf) : Bool := l.log == 16 && l.mov && !l.x

/-- What a walker fills for an address (R327): none when the translation is missing. -/
def State.fill (s : State) (ten va : Nat) : Option TlbEnt :=
  match s.walk ten va with
  | none => none
  | some l =>
    let e : TlbEnt := { ten := ten, base := va / 2 ^ l.log * 2 ^ l.log, leaf := l }
    match s.tileOf ten va with
    | some t =>
      if l.movable then
        let w := s.tack ten t
        if s.tackBad ten t then none
        else if tackT w then some { e with tack := some (tackTo w) }
        else if l.tck then none else some e
      else if l.tck then none else some e
    | none => if l.tck then none else some e

/-- The permission that an access needs (R209). -/
inductive Perm where
  | r | w | x | none
  deriving DecidableEq, Repr

def Leaf.allows (l : Leaf) : Perm → Bool
  | .r => l.rd
  | .w => l.w
  | .x => l.x
  | .none => true

/-- A page holds code that Goloc has installed: a store to it is not permitted (R36). -/
def State.codeIn (s : State) (ten base n : Nat) : Bool :=
  s.codes.any (fun c => c.ten == ten && decide (c.base.toNat < base + n) && decide (base < c.base.toNat + 4 * c.words))

/-- The outcome of a translation. -/
inductive Tr where
  /-- The physical address, its leaf's ACC, the address at the end of the tacks, the tacks followed. -/
  | ok (pa : Nat) (acc : Bool) (va : Nat) (hops : Nat)
  /-- No TLB entry covers the address: a walk is due. -/
  | miss (va : Nat)
  /-- Cause 0x08, 0x09 or 0x0C at an address. -/
  | bad (cause va : Nat)
  deriving DecidableEq, Repr

/-- Translation with a source of entries, following tacks (R331): `get` gives an entry, a miss or a missing
translation for an address. A place beyond the installed memory (R12) has no translation. -/
def translateBy (s : State) (ten : Nat) (get : Nat → Option (Option TlbEnt)) (p : Perm) : Nat → Nat → Nat → Tr
  | 0, _, va => .bad 0x0C va
  | fuel + 1, hops, va =>
    match get va with
    | none => .miss va
    | some none => .bad 0x08 va
    | some (some e) =>
      if !e.leaf.allows p || (p == .w && s.codeIn ten e.base (2 ^ e.leaf.log)) then .bad 0x09 va
      else match e.tack with
        | some t => if hops = 4 then .bad 0x0C va
                    else translateBy s ten get p fuel (hops + 1) (s.tileAddr ten t + va % 65536)
        | none => if Config.hbmBytes ≤ e.leaf.pa + (va - e.base) then .bad 0x08 va
                  else .ok (e.leaf.pa + (va - e.base)) e.leaf.acc va hops

/-- The entry of a list that covers an address. -/
def tlbFind (es : List TlbEnt) (ten va : Nat) : Option TlbEnt :=
  es.find? (fun e => e.ten == ten && e.base ≤ va && va < e.base + 2 ^ e.leaf.log)

/-- The TLB entry of a core that covers an address. -/
def Core.tlbGet (c : Core) (ten va : Nat) : Option TlbEnt := tlbFind c.tlb ten va

/-- The entry of a cluster's TLB. -/
def State.ctlbGet (s : State) (cl ten va : Nat) : Option TlbEnt := tlbFind (s.ctlb.getD cl []) ten va

/-- Translation of a core's access for the instruction of a swatch, which keeps the pages whose walk has failed for it
and the translations that its walks have brought. With `TR.ROOT.EN` = 0 every access is unfinished (R211). -/
def State.translate (s : State) (core ten va : Nat) (p : Perm) (w : Swatch) : Tr :=
  translateBy s ten (fun a =>
    if !(s.tenOf ten).rootEn || w.bad.any (fun b => b.1 == a / 65536) then some none
    else match ((s.core core).tlbGet ten a).or (tlbFind w.walked ten a) with
      | some e => some (some e)
      | none => none) p 6 0 va

/-- Translation of a speculative request, from both levels of TLB; what it misses is dropped (R213). -/
def State.translateSpec (s : State) (core ten va : Nat) : Tr :=
  translateBy s ten (fun a =>
    if !(s.tenOf ten).rootEn then some none
    else match ((s.core core).tlbGet ten a).or (s.ctlbGet (core / 8) ten a) with
      | some e => some (some e)
      | none => none) .none 6 0 va

/-- Translation of an engine's access, or of one that walks in place. -/
def State.translateNow (s : State) (ten va : Nat) (p : Perm) : Tr :=
  translateBy s ten (fun a => some (s.fill ten a)) p 6 0 va

/-- An entry goes into a core's TLB and into its cluster's, the oldest out. -/
def State.tlbPut (s : State) (core : Nat) (e : TlbEnt) : State :=
  let cl := s.ctlb.getD (core / 8) []
  let s := if cl.contains e then s else { s with ctlb := s.ctlb.set (core / 8) ((e :: cl).take Config.clusterTlb) }
  s.modCore core (fun c => { c with tlb := (e :: c.tlb).take Config.tlbEntries })

/-! ### The scratchpad array (R198 to R200, R419) -/

/-- The 4-byte bank words of an access. -/
def bankWords (off n : Nat) : List Nat :=
  if n = 0 then [] else (List.range ((off + n - 1) / 4 - off / 4 + 1)).map (fun i => 4 * (off / 4 + i))

/-- A read of a core's scratchpad: value, poison, and the state with single-bit errors corrected. -/
def State.scrRead (s : State) (core off n : Nat) : Nat × Bool × State :=
  let c := s.core core
  let v := c.scr.readN off n
  if c.scrEcc.ents.isEmpty then (v, false, s)
  else
    let ws := bankWords off n
    let bad := ws.any (fun w => decide (2 ≤ ones (c.scrEcc.getD w 0)))
    let fix := ws.filter (fun w => ones (c.scrEcc.getD w 0) = 1)
    (v, bad, s.setCore core { c with scrEcc := ⟨c.scrEcc.ents.filter (fun e => !fix.contains e.1)⟩
                                     corrected := c.corrected + fix.length })

/-- A store to a core's scratchpad reaches its banks. -/
def State.scrWrite (s : State) (core off : Nat) (bytes : List Byte) : State :=
  s.modCore core (fun c => { c with scr := c.scr.writeBytes off bytes, scrEcc := writeEcc c.scrEcc 4 off bytes.length })

/-! ### Staged words (R412) -/

/-- The bytes that a copy of a staged launch has stored, laid over bytes read at an address. -/
def overlayStaged (t : Tab Byte) (va : Nat) (bytes : List Byte) : List Byte :=
  if t.ents.isEmpty then bytes
  else (List.range bytes.length).zipWith (fun i b => (t.get? (va + i)).getD b) bytes

/-- The staged table of a copy. -/
def Launch.stg (l : Launch) (b : Bool) : Tab Byte := if b then l.stgB else l.stgA

/-- The flips that stand in a copy's staged word (R393). -/
def Launch.stgFlips (l : Launch) (copyB : Bool) (va : Nat) : Word := l.stgEcc.getD (va / 8 * 8 + (if copyB then 2 ^ 64 else 0)) 0

/-- A single-bit error in a copy's staged word is corrected, and counted at the slice that homes the word (R419). -/
def State.stgCorrect (s : State) (launch : Word) (stg : Option Bool) (pa va : Nat) : State :=
  match stg with
  | none => s
  | some b =>
    if ones ((s.launchOf launch).stgFlips b va) = 1 then
      let sl := homeSlice pa
      { s.modLaunch launch (fun l => { l with stgEcc := l.stgEcc.erase (va / 8 * 8 + (if b then 2 ^ 64 else 0)) }) with
        l2corr := s.l2corr.set sl (s.l2corr.getD sl 0 + 1) }
    else s

/-- The copy that an access of a bolt belongs to, when its launch stages. -/
def Bolt.stage (b : Bolt) : Option Bool := if b.staged then some b.copyB else none

/-- A staged write of a launch's copy: bytes by virtual address, with the core that staged each word. -/
def Launch.stageWrite (l : Launch) (copyB : Bool) (va : Nat) (bytes : List Byte) (core : Nat) : Launch :=
  let put (t : Tab Byte) : Tab Byte := ((List.range bytes.length).zip bytes).foldl (fun t p => t.set (va + p.1) p.2) t
  let side := if copyB then 2 ^ 64 else 0
  let l := { l with stgCore := (wordsOf va bytes.length).foldl (fun t w => t.set (w + side) core) l.stgCore
                    stgEcc := writeEcc l.stgEcc 8 (side + va) bytes.length }
  if copyB then { l with stgB := put l.stgB } else { l with stgA := put l.stgA }

/-- The lines that a copy has staged (R412). -/
def stagedLines (t : Tab Byte) : Nat := ((t.keys.map lineOf).eraseDups).length

/-! ### Stores (R226, R227) -/

/-- A staged write, at a virtual and a physical address, of an owner code: it dooms as a write at the L2 does (R259). -/
def State.stagePut (s : State) (launch : Word) (copyB : Bool) (va pa : Nat) (bytes : List Byte) (core owner : Nat) : State :=
  (s.modLaunch launch (fun l => l.stageWrite copyB va bytes core)).doomWords (wordsOf pa bytes.length) 1 (fun c _ _ => c == owner)

/-- A store is performed by its core. -/
def State.performStore (s : State) (core : Nat) (p : PStore) : State :=
  match p.stg with
  | some cb => (s.bump p.pa p.acc).stagePut p.launch cb p.va.toNat p.pa p.bytes core core
  | none => (s.bump p.pa p.acc).writeL2 p.pa p.bytes core p.ten

/-- Two stretches of bytes meet. -/
def meets (a n b m : Nat) : Bool := decide (a < b + m) && decide (b < a + n)

/-- A store may be performed now: its line is free (R238), no earlier store of the core to its bytes is
pending, and no earlier load of the core from its word (R227); one that waits to be translated again (R329) may be of any
bytes. -/
def State.canPerform (s : State) (core : Nat) (p : PStore) : Bool :=
  !p.again && !s.lineBusy p.pa (some core)
    && (s.core core).stq.all (fun q => decide (p.id ≤ q.id) || (!q.again && !meets p.pa p.bytes.length q.pa q.bytes.length))
    && s.dlv.all (fun d => d.core != core || decide (p.id ≤ d.id) || (match d.bring with
      | .load pa _ _ _ _ _ => !d.again && pa / 8 != p.pa / 8
      | _ => true))

/-- Where an access of a tenancy is now: its place, ACC and address, through every tack; none where a page is missing, or does
not permit it. -/
def State.placeNow (s : State) (ten : Nat) (va : Word) (p : Perm) : Option (Nat × Bool × Word) :=
  match s.translateNow ten va.toNat p with
  | .ok pa acc za _ => some (pa, acc, BitVec.ofNat 64 za)
  | _ => none

/-- A store whose tile has moved is translated again (R329), and waits while that gives it no place. DESIGN CHOICE: no event
tells Goloc of the missing page, and an access that is no longer permitted waits in the same way (log 113). -/
def PStore.placed (s : State) (p : PStore) : PStore :=
  match s.placeNow p.ten p.va .w with
  | some (pa, acc, va) => { p with pa := pa, va := va, acc := acc, again := false }
  | none => { p with again := true }

/-- A load whose tile has moved is translated again, in the same way. -/
def Delivery.placed (s : State) (d : Delivery) : Delivery :=
  match d.bring with
  | .load _ v n t sg _ => match s.placeNow (s.boltAt d.core d.slot).ten v .r with
    | some (pa, acc, va) => { d with bring := .load pa va n t sg acc, again := false }
    | none => { d with again := true }
  | _ => d

/-- The accesses that wait to be translated again are, as far as they can be (R329). -/
def State.placeAgain (s : State) : State :=
  let t := s.mapCores (fun c => { c with stq := c.stq.map (fun p => if p.again then p.placed s else p) })
  { t with dlv := s.dlv.map (fun d => if d.again then d.placed s else d) }

/-- One of them has a place. -/
def State.againDue (s : State) : Bool :=
  s.cores.vals.any (fun c => c.stq.any (fun p => p.again && !(p.placed s).again)) || s.dlv.any (fun d => d.again && !(d.placed s).again)

/-- The first store that can be performed is, and leaves the queue. -/
def State.performNext (s : State) (core : Nat) : Option State :=
  match (s.core core).stq.find? (fun p => s.canPerform core p) with
  | none => none
  | some p =>
    some ((s.modCore core (fun c => { c with stq := c.stq.filter (fun q => q.id != p.id) })).performStore core p)

/-- The core's stores to some words are performed in order; none when one of them must wait. -/
def State.drainWords (s : State) (core : Nat) (ws : List Nat) : Nat → Option State
  | 0 => some s
  | fuel + 1 =>
    match (s.core core).stq.find? (fun p => ws.contains (p.pa / 8 * 8)) with
    | none => some s
    | some p =>
      if s.canPerform core p then
        ((s.modCore core (fun c => { c with stq := c.stq.filter (fun q => q.id != p.id) })).performStore core p).drainWords
          core ws fuel
      else none

/-- A store of a bolt's lane is issued: it goes to the core's queue, and dooms the core's own running
transactions on its word (R259). -/
def State.issueStore (s : State) (pa : Nat) (va : Word) (bytes : List Byte) (acc : Bool) : State :=
  let (id, s) := s.takeSerial
  let b := s.bolt
  let p : PStore :=
    { id := id, pa := pa, va := va, bytes := bytes, ten := b.ten, launch := b.launch, acc := acc, stg := b.stage }
  let s := s.modCore s.cur.core (fun c => { c with stq := c.stq ++ [p] })
  s.doomWords (wordsOf pa bytes.length) 1 (fun c _ _ => c != s.cur.core)

/-! ### Loads (R216, R227, R228) -/

/-- The bytes of the core's own pending stores issued before `id`, laid over bytes read. -/
def overlayStores (q : List PStore) (id : Nat) (launch : Word) (stg : Option Bool) (pa : Nat) (bytes : List Byte) :
    List Byte :=
  if q.isEmpty then bytes
  else (q.filter (fun p => decide (p.id < id) && (p.stg.isNone || (p.stg == stg && p.launch == launch)))).foldl
    (fun bs p => (List.range bs.length).zipWith (fun i b =>
      if p.pa ≤ pa + i ∧ pa + i < p.pa + p.bytes.length then p.bytes.getD (pa + i - p.pa) b else b) bs) bytes

/-- The little-endian bytes of a word from an offset in it. -/
def wordBytes (w : Word) (off n : Nat) : List Byte := ((toLE w.toNat 8).drop off).take n

/-- A value of `n` bytes under its tag: narrow ones sign-extended for S32, zero-extended otherwise (R216). -/
def extendLoad (bytes : List Byte) (tag : Tag) : Word :=
  let n := bytes.length
  let v := ofLE bytes
  if n < 4 ∧ tag == .s32 ∧ v.testBit (8 * n - 1) then BitVec.ofNat 64 (v + 2 ^ 32 - 2 ^ (8 * n)) else BitVec.ofNat 64 v

/-- Every byte of an access has been staged: the committed word's error does not reach it (R412). -/
def stagedAll (t : Tab Byte) (va n : Nat) : Bool := (List.range n).all (fun i => t.has (va + i))

/-- The bytes that the L2 gives a core for a load issued as `id` by a bolt's launch, and their poison. -/
def State.l2Load (s : State) (core id : Nat) (launch : Word) (stg : Option Bool) (pa : Nat) (va : Word) (n : Nat) :
    List Byte × Bool :=
  let bs := s.mem.bytes pa n
  let bs := match stg with
    | some b => overlayStaged ((s.launchOf launch).stg b) va.toNat bs
    | none => bs
  (overlayStores (s.core core).stq id launch stg pa bs, match stg with
    | some b => let l := s.launchOf launch
      (s.l2Bad (pa / 8 * 8) && !stagedAll (l.stg b) va.toNat n) || decide (2 ≤ ones (l.stgFlips b va.toNat))
    | none => s.l2Bad (pa / 8 * 8))

/-- An earlier store of the core waits to be translated again, and may be one of any bytes (R227, R329). -/
def Core.storeAgain (c : Core) (id : Nat) : Bool := c.stq.any (fun p => p.again && decide (p.id < id))

/-- An earlier load of the core from the word has not taken its value (R227), or an earlier access of the core waits to be
translated again (R329). -/
def State.earlierLoad (s : State) (core id pa : Nat) : Bool :=
  (s.core core).storeAgain id || s.dlv.any (fun d => d.core == core && decide (d.id < id) && (match d.bring with
    | .load q _ _ _ _ _ => d.again || q / 8 == pa / 8
    | _ => false))

/-- The L1 of a core holds a word, and its parity is right (R205, R206). -/
def State.l1Hit (s : State) (core pa : Nat) : Bool := (((s.core core).l1.get? (pa / 8 * 8)).map (fun w => !w.bad)).getD false

/-- A load issued as `id` that hits the L1 has its value in hand; none when it misses (R205, R216), or meets a staged word
whose error the L2 must mend (R393). No load of the word is then outstanding: a line serves each when it comes. -/
def State.l1Load (s : State) (core id : Nat) (launch : Word) (stg : Option Bool) (pa : Nat) (va : Word) (n : Nat) :
    Option (List Byte) :=
  let c := s.core core
  match c.l1.get? (pa / 8 * 8) with
  | none => none
  | some w =>
    if w.bad || c.storeAgain id || stg.any (fun b => (s.launchOf launch).stgFlips b va.toNat != 0) then none
    else
      let bs := wordBytes w.val (pa % 8) n
      let bs := match stg with
        | some b => overlayStaged ((s.launchOf launch).stg b) va.toNat bs
        | none => bs
      some (overlayStores c.stq id launch stg pa bs)

/-- A parity error in an L1 word: the word leaves the L1, for its access to fetch it again, and the error is counted
(R206, R419). -/
def State.l1Parity (s : State) (core pa : Nat) : State :=
  match (s.core core).l1.get? (pa / 8 * 8) with
  | some w =>
    if w.bad then s.modCore core (fun c => { c with l1 := c.l1.erase (pa / 8 * 8), corrected := c.corrected + 1 }) else s
  | none => s

/-- A word that a load or an atomic has read at the L2 goes back to no earlier value in its core's L1 (R227), owned as at the
L2 (DESIGN CHOICE, log 124). -/
def State.l1Refresh (s : State) (core pa : Nat) : State :=
  let w := pa / 8 * 8
  if !(s.core core).l1.has w then s
  else
    let v : L1Word := { owned := s.owner.getD w 0xFE == core, val := s.l2Word w, bad := false }
    s.modCore core (fun c => { c with l1 := if s.l2Bad w then c.l1.erase w else c.l1.set w v })

/-- What a load that waits for a line brings once its word stands in its core's L1. -/
def State.served (s : State) (core pa : Nat) (d : Delivery) : Option Delivery :=
  match d.bring with
  | .load q va n tag _ _ =>
    let b := s.boltAt core d.slot
    if d.core = core ∧ d.again = false ∧ lineOf q = lineOf pa then
      (s.l1Load core d.id b.launch b.stage q va n).map (fun bs => { d with bring := .value (extendLoad bs tag) tag 0 false })
    else none
  | _ => none

/-- A line serves the core's loads that wait for its words, in their order (R70, R227), accesses of R259 each. -/
def State.serveLine (s : State) (core pa : Nat) : State :=
  let due := s.dlv.filter (fun d => (s.served core pa d).isSome)
  let word (d : Delivery) : Nat := match d.bring with
    | .load q _ _ _ _ _ => q / 8 * 8
    | _ => 0
  if due.isEmpty then s
  else { s with dlv := s.dlv.map (fun d => (s.served core pa d).getD d) }.doomWords (due.map word) 1 (fun _ _ _ => false)

/-- The words of a line come into a core's L1 (R205), one access of R214, and serve the loads that wait for them; a word
that cannot be corrected does not come. DESIGN CHOICE: a word whose owner at the L2 is the core comes in as owned (R205
speaks of the valid bits alone; log 124). -/
def State.l1Fill (s : State) (core pa ten : Nat) (acc : Bool) : State :=
  let ws := lineWs pa
  let s := ((s.l2Fill pa ten).bump pa acc)
  let s := ws.foldl State.l2Correct s
  (s.modCore core (fun c => { c with l1 := (ws.filter (fun w => !s.l2Bad w)).foldl (fun t w =>
    t.set w { owned := s.owner.getD w 0xFE == core, val := s.l2Word w, bad := false }) c.l1 })).serveLine core pa

/-! ### Watch registers (R431 to R433) -/

/-- The kind of an access for the watch registers. -/
inductive Kind where
  | rd | wr | at_
  deriving DecidableEq, Repr

/-- Some byte of an access falls in the watched word (R432). -/
def Watch.hits (w : Watch) (k : Kind) (ten : Nat) (p : Place) : Bool :=
  w.en && w.ten == ten && (match k with | .rd => w.rd | .wr => w.wr | .at_ => w.at_)
    && (match p with
      | .glob va => !w.scr && va.toNat / 8 == w.addr / 8
      | .scr c off => w.scr && c % 8 == w.cidx && off / 8 == w.addr % 2 ^ 25 / 8)

/-- The lowest watch register of a core's cluster that an access hits. -/
def State.watchHit (s : State) (k : Kind) (p : Place) : Option Nat :=
  (List.range 8).find? (fun i => ((s.watch.getD (s.cur.core / 8 * 8 + i) {}).hits k s.ten p))

/-- A stop request arrives at a bolt (R427), at a clock of its shuttle: it does nothing to a stopped one. -/
def Bolt.requestStop (b : Bolt) (reason clk : Nat) : Bolt :=
  if b.stop.stopped || b.stop.request.isSome || b.left then b
  else { b with stop := { b.stop with request := some reason, skid := 0, edge := false, since := clk } }

/-- A stop request to each bolt of a tenancy in a cluster, but for one (R429, R433). -/
def State.stopCluster (s : State) (cl ten reason : Nat) (but : Option (Nat × Nat)) : State :=
  { s with cores := ⟨s.cores.ents.map (fun c =>
    (c.1, if c.1 / 8 = cl then { c.2 with bolts := ⟨c.2.bolts.ents.map (fun b =>
      (b.1, if b.2.ten = ten ∧ but ≠ some (c.1, b.1) then b.2.requestStop reason (c.2.clockOf b.2) else b.2))⟩ } else c.2))⟩ }

/-- What a hit sets (R433): the bolt stops, `DB.CL` records it, and the other bolts get a request. -/
def State.watchStop (s : State) (i : Nat) : State :=
  let cl := s.cur.core / 8
  let t := s.ten
  let s := s.modBolt (fun b => { b.rest with stop := { b.stop with stopped := true, request := none, stepEnt := none, edge := false } })
  let s := { s with dbcl := s.dbcl.set cl { stopped := true, widx := i, ten := t } }
  s.stopCluster cl t 3 (some (s.cur.core, s.cur.slot))

/-! ### Transactional accesses (R256 to R261) -/

/-- A lane's key of age: older first (R261). -/
def txAge (core shuttle slot lane : Nat) (t : Tx) : List Nat := [t.age.toNat, core, shuttle, slot, lane]

/-- The lexical order of ages. -/
def olderThan : List Nat → List Nat → Bool
  | a :: as, b :: bs => decide (a < b) || (a == b && olderThan as bs)
  | _, _ => false

/-- The conflicts of an access by a lane with the other running transactions of its core (R259). -/
def State.txConflicts (s : State) (lane w : Nat) (wr : Bool) : State :=
  let me := s.txAt lane
  let core := s.cur.core
  let slot := s.cur.slot
  let mine := txAge core s.bolt.shuttle slot lane me
  let clash (t : Tx) : Bool := t.act && !t.doom && (t.wrw.contains w || (wr && t.rd.any (fun r => r.1 == w)))
  let others := s.cc.bolts.ents.flatMap (fun b => (b.2.tx.ents.filter (fun t =>
    clash t.2 && !(b.1 == slot && t.1 == lane))).map (fun t => (b.1, t.1, t.2, b.2.shuttle)))
  let s := others.foldl (fun s o =>
    let loses := if o.1 = slot then decide (lane < o.2.1) || me.irr
      else me.irr || olderThan mine (txAge core o.2.2.2 o.1 o.2.1 o.2.2.1)
    if loses && !o.2.2.1.irr then
      s.modBoltAt core o.1 (fun b => { b with tx := b.tx.set o.2.1 ((b.tx.getD o.2.1 {}).doomBy (if o.1 = slot then 2 else 1)) })
    else s) s
  let won := others.filter (fun o =>
    if o.1 = slot then decide (o.2.1 < lane) || o.2.2.1.irr || o.2.2.1.begun
    else o.2.2.1.irr || o.2.2.1.begun || olderThan (txAge core o.2.2.2 o.1 o.2.1 o.2.2.1) mine)
  if won.isEmpty || me.irr then s
  else s.setTx lane ((s.txAt lane).doomBy (if won.any (fun o => o.1 = slot) then 2 else 1))

/-- Words tracked on a core (R257). -/
def Core.tracked (c : Core) : Nat :=
  c.bolts.vals.foldl (fun a b => b.tx.vals.foldl (fun a t => if t.act then a + t.rd.length + t.wrw.length else a) a) 0

/-- An access outside every transaction dooms the running ones whose sets hold its word (R259). -/
def State.plainAccess (s : State) (pa : Nat) : State := s.doomWords [pa / 8 * 8] 1 (fun _ _ _ => false)

/-- `n` bytes that the L2 gives the current bolt, what its core holds pending over them, and their poison. -/
def State.myLoad (s : State) (pa : Nat) (va : Word) (n : Nat) : List Byte × Bool :=
  s.l2Load s.cur.core s.serial s.bolt.launch s.bolt.stage pa va n

/-- The word that a running lane sees, without its own writes. -/
def State.txSees (s : State) (pa : Nat) (va : Word) : Word :=
  BitVec.ofNat 64 (ofLE (s.myLoad (pa / 8 * 8) (BitVec.ofNat 64 (va.toNat / 8 * 8)) 8).1)

/-- A running lane touches `n` bytes of a word (R257, R259): a line that an irrevocable transaction holds, an error in
what it reads, the conflicts, the sets and their capacity. A word's first read is recorded. -/
def State.txTouch (s : State) (lane pa : Nat) (va : Word) (n : Nat) (acc rd wr : Bool) : State :=
  let w := pa / 8 * 8
  let mine (c b l : Nat) : Bool := c == s.cur.core && b == s.cur.slot && l == lane
  if (s.txLines (fun c b l t => t.holds && !mine c b l)).contains (lineOf pa) then s.setTx lane ((s.txAt lane).doomBy 1)
  else if rd && (s.myLoad pa va n).2 then s.setTx lane ((s.txAt lane).doomBy 11)
  else
    let s := s.txConflicts lane w wr
    let t := s.txAt lane
    if t.doom then s
    else
      let newR := rd && !t.rd.any (fun r => r.1 == w)
      let newW := wr && !t.wrw.contains w
      let past := (newR && decide (32 ≤ t.rd.length)) || (newW && decide (16 ≤ t.wrw.length))
        || decide (4096 < s.cc.tracked + (if newR then 1 else 0) + (if newW then 1 else 0))
      if past then s.setTx lane (t.doomBy 3)
      else s.setTx lane { t with rd := if newR then t.rd ++ [(w, s.txSees pa va)] else t.rd
                                 wrw := if newW then t.wrw ++ [w] else t.wrw
                                 vas := if newR || newW then t.vas.set w (BitVec.ofNat 64 (va.toNat / 8 * 8), acc) else t.vas }

/-- The bytes a running lane reads: its own writes over the value it first read. -/
def State.txBytes (s : State) (lane pa : Nat) (va : Word) (n : Nat) : List Byte :=
  let t := s.txAt lane
  let w := pa / 8 * 8
  let v := ((t.rd.find? (fun r => r.1 == w)).map Prod.snd).getD (s.txSees pa va)
  (List.range n).map (fun i => (t.wr.get? (pa + i)).getD ((wordBytes v (pa % 8) n).getD i 0))

/-- A running lane's store goes to its write set. -/
def State.txStore (s : State) (lane pa : Nat) (bytes : List Byte) : State :=
  let t := s.txAt lane
  if t.doom then s
  else s.setTx lane { t with wr := ((List.range bytes.length).zip bytes).foldl (fun m p => m.set (pa + p.1) p.2) t.wr }

/-! ### Densitometers (R442, R443) -/

/-- A saturating count of 32 bits. -/
def sat32 (n : Nat) : Nat := min n (2 ^ 32 - 1)

/-- A cleared unit keeps its configuration. -/
def Dens.clear (d : Dens) : Dens := { ten := d.ten, cores := d.cores, src := d.src, edges := d.edges }

/-- A sample (R443). -/
def Dens.sample (d : Dens) (v : Nat) : Dens :=
  let bin := ((List.range 15).find? (fun i => decide (v < d.edges.getD i 0))).getD 15
  { d with count := (d.count + 1) % 2 ^ 64, sum := Nat.min (d.sum + v) (2 ^ 64 - 1), min := Nat.min d.min v, max := Nat.max d.max v
           bins := d.bins.set bin (sat32 (d.bins.getD bin 0 + 1)) }

/-- The samples of one clock: four are taken, the others dropped. -/
def Dens.samples (d : Dens) (vs : List Nat) : Dens :=
  let e := (vs.take 4).foldl Dens.sample d
  { e with drop := sat32 (e.drop + (vs.length - 4)) }

def State.densAt (s : State) (cluster unit : Nat) : Dens := s.dens.getD (8 * cluster + unit) {}
def State.setDens (s : State) (cluster unit : Nat) (d : Dens) : State := { s with dens := s.dens.set (8 * cluster + unit) d }

/-- Some units take one sample of a number of clocks, which the spec leaves open (R442). -/
def State.densTake (s : State) (units : List Nat) : State :=
  match units with
  | [] => s
  | us =>
    let (n, s) := s.freshId
    us.foldl (fun s u => s.setDens (u / 8) (u % 8) ((s.densAt (u / 8) (u % 8)).sample (Config.latency n % 2 ^ 32))) s

/-- The units of some clusters that take a source's samples of a tenancy. -/
def State.densOf (s : State) (src ten : Nat) (cluster : Nat → Bool) : List Nat :=
  (s.dens.ents.filter (fun e => e.2.src == src && e.2.ten == ten && cluster (e.1 / 8))).map Prod.fst

/-- A sample of a load's pass on a core, or of a `wait` (R442): source 1 takes the sampled cores alone. -/
def State.densCore (s : State) (src core ten : Nat) : State :=
  s.densTake ((s.densOf src ten (· == core / 8)).filter (fun u => src != 1 || (s.dens.getD u {}).cores.testBit (core % 8)))

/-- A sample of each of `n` flits of a link as they are acknowledged, on the link's die: the first half of the links is die 0's (R442). -/
def State.densLink (s : State) (link ten n : Nat) : State :=
  (List.range n).foldl (fun s _ => s.densTake (s.densOf 5 ten (fun c => c / 9 == link / 9))) s

end Sys2Proof.Machine
end

