-- ==== Sys2Proof/Machine/Memory.lean ====
section
/-! DEFINITION. The memory class (R194 to R222): loads, stores, prefetch, the cache forms and `aq`, the base
forms equal to them, and `pbload` (R116). -/

namespace Sys2Proof.Machine

/-- One access of a lane: its `i`-th, the address as issued, and what the checks make of it. -/
structure Acc where
  lane  : Nat
  i     : Nat
  va    : Word
  /-- The lane's effective address, of its first name (R216). -/
  ea    : Word := 0
  /-- Where it goes; none when it runs dry (R258). -/
  place : Option Place := none
  pa    : Nat := 0
  acc   : Bool := false
  /-- The global address before and after the tacks. -/
  ga    : Nat := 0
  za    : Nat := 0
  hops  : Nat := 0
  deriving DecidableEq, Repr

/-- What a memory instruction asks of an address. -/
structure Ask where
  size : Nat
  n    : Nat := 1
  perm : Perm
  kind : Option Kind := none
  /-- Its accesses are transactional inside a transaction (R256). -/
  tx   : Bool := false
  deriving DecidableEq, Repr

/-- A lane whose access at an address is transactional: the global and stack windows, and no window (R256). -/
def State.isTx (s : State) (x : Ext) (q : Ask) (lane : Nat) (va : Word) : Bool :=
  q.tx && !x.g && (s.txAt lane).act && winOf va != 2 && winOf va != 3

/-- The byte offset of a memory form (R215). -/
def memOff (opc : Nat) (x : Ext) : Word :=
  match x.litAt (form opc x) .imm with
  | some v => v
  | none => x.imm.signExtend 64

/-- The accesses of some lanes from their bases. -/
def accsOf (ls : List Nat) (base : Nat → Word) (off : Word) (q : Ask) : List Acc :=
  ls.flatMap (fun l => (List.range q.n).map (fun i =>
    { lane := l, i := i, va := base l + off + BitVec.ofNat 64 (i * q.size), ea := base l + off }))

/-- The cause of an access under R197. -/
def causeOf (s : State) (q : Ask) (a : Acc) : Option Nat :=
  match s.place a.lane a.va q.size with
  | .error c => some c
  | .ok _ => none

/-- Lanes whose transaction an access dooms (R259, cause 8): it would fault, and it runs revocably. -/
def State.doomAccs (s : State) (x : Ext) (q : Ask) (as : List Acc) (cause : Nat) : State :=
  as.foldl (fun s a => if s.isTx x q a.lane a.va then s.setTx a.lane ((s.txAt a.lane).doomBy cause) else s) s

/-- An access that runs dry (R258). -/
def State.isDry (s : State) (x : Ext) (q : Ask) (a : Acc) : Bool :=
  s.isTx x q a.lane a.va && (s.txAt a.lane).doom

/-- Steps 1 to 3 of R197 over every lane, and the watch comparison (R432, R433): the state with the lanes that
an access has doomed, and the accesses with their places. -/
def addrPhase (s : State) (x : Ext) (q : Ask) (as : List Acc) : R (State × List Acc) := do
  let bad := as.filter (fun a => (causeOf s q a).isSome)
  let t := s.doomAccs x q (bad.filter (fun a => !(s.txAt a.lane).irr)) 8
  let real := bad.filter (fun a => !t.isDry x q a)
  match real with
  | [] => .ok ()
  | _ =>
    let c := real.foldl (fun m a => min m ((causeOf s q a).getD 0xFF)) 0xFF
    let fs := real.filter (fun a => causeOf s q a == some c)
    trap c ((fs.map (·.ea)).headD 0) (s.failMask x (fs.map (·.lane)))
  let as := as.map (fun a =>
    if t.isDry x q a then a else match s.place a.lane a.va q.size with
      | .ok p => { a with place := some p }
      | .error _ => a)
  match q.kind with
  | none => .ok ()
  | some k =>
    if s.sw.noWatch || s.inSafe then .ok ()
    else
      let hit := as.filterMap (fun a => match a.place with
        | some p => (s.watchHit k p).map (fun i => (a, i))
        | none => none)
      match hit with
      | [] => .ok ()
      | (a, i) :: r =>
        .error (.partial_ 0x14 a.ea (s.failMask x (hit.map (·.1.lane)))
          (s.watchStop (r.foldl (fun m p => min m p.2) i)))
  .ok (t, as)

/-- A lane left unfinished (R208): its cause and the address it reports. -/
abbrev Unf := Nat × Nat × Word

/-- A tile of the address takes part in a move (R328, R259). -/
def State.moving (s : State) (ten va : Nat) : Bool :=
  match s.tileOf ten va with
  | none => false
  | some t => s.rel.any (fun r => r.ten == ten && !r.sweep && (r.x == t || r.y == t))

/-- The address that a translation fault reports: a stack fault's is the window's (R201). -/
def reportVa (a : Acc) (va : Nat) : Word := if winOf a.va = 1 then a.va else BitVec.ofNat 64 va

/-- Translation of each access (R208, R331): the state, the accesses with their physical addresses, and the
unfinished lanes. A missing TLB entry waits for its walk. -/
def transPhase (s : State) (x : Ext) (q : Ask) : List Acc → State → R (State × List Acc × List Unf)
  | [], t => .ok (t, [], [])
  | a :: as, t =>
    match a.place with
    | some (.glob va) =>
      if t.isDry x q a then do
        let r ← transPhase s x q as t
        .ok (r.1, { a with place := none } :: r.2.1, r.2.2)
      else
        match s.translate s.cur.core s.ten va.toNat q.perm s.sw with
        | .miss v => .error (.wait (.walk (BitVec.ofNat 64 v)) s)
        | .bad c v =>
          if s.isTx x q a.lane a.va && !(s.txAt a.lane).irr then do
            let r ← transPhase s x q as (t.setTx a.lane ((t.txAt a.lane).doomBy 8))
            .ok (r.1, { a with place := none } :: r.2.1, r.2.2)
          else do
            let r ← transPhase s x q as t
            .ok (r.1, a :: r.2.1, (a.lane, c, reportVa a v) :: r.2.2)
        | .ok pa acc za hops =>
          let tx := s.isTx x q a.lane a.va
          if tx && (s.moving s.ten va.toNat || s.moving s.ten za) && !(s.txAt a.lane).irr then do
            let r ← transPhase s x q as (t.setTx a.lane ((t.txAt a.lane).doomBy 5))
            .ok (r.1, { a with place := none } :: r.2.1, r.2.2)
          else do
            let irr := tx && (s.txAt a.lane).irr
            let t := if irr then t.evict pa else t
            if tx && (if irr then t.lineBusy pa (some s.cur.core) else s.holds.any (fun h => h.1 == lineOf pa)) then retry s 2
            let r ← transPhase s x q as t
            .ok (r.1, { a with pa := pa, acc := acc, ga := va.toNat, za := za, hops := hops } :: r.2.1, r.2.2)
    | _ => do
      let r ← transPhase s x q as t
      .ok (r.1, a :: r.2.1, r.2.2)

/-- The accesses of the finished lanes; those of a lane doomed meanwhile run dry. -/
def finished (t : State) (x : Ext) (q : Ask) (as : List Acc) (unf : List Unf) : List Acc :=
  (as.filter (fun a => !unf.any (fun u => u.1 == a.lane))).map (fun a => if t.isDry x q a then { a with place := none } else a)

/-- How a memory instruction ends: with its unfinished lanes the swatch parks (R208), 0x08 before 0x09 before
0x0C (R331), at the lowest unfinished lane's address. -/
def memEnd (s : State) (x : Ext) (unf : List Unf) (fin : List Nat) (t : State) : R State :=
  match unf with
  | [] => .ok t
  | _ =>
    let c := unf.foldl (fun m u => min m u.2.1) 0xFF
    let lo := unf.foldl (fun m u => if u.1 < m.1 then (u.1, u.2.2) else m) (1024, (0 : Word))
    let t := if fin.isEmpty then t else t.charge s.ten 0 (if x.g then 1 else fin.length)
    .error (.partial_ c lo.2 (s.failMask x (unf.map (·.1))) t)

/-- The rewriting of source A in a lane that followed tacks (R332); `post` is the state with the reads counted: a
lane whose access made the last read has nothing to rewrite, though the load may have written the name anew; nor has a
doomed lane. -/
def rewriteLane (x : Ext) (as : List Acc) (post s : State) (lane : Nat) : State :=
  if !x.a.isReg || (!x.g && (s.txAt lane).act && (s.txAt lane).doom) then s
  else
    let c := s.cell x.a lane
    match as.find? (fun a => a.lane == lane && a.place.isSome && a.hops != 0 && a.ga / 65536 == c.val.toNat / 65536) with
    | some a =>
      if (post.cell x.a lane).st == .full then
        s.setCell x.a lane { c with val := BitVec.ofNat 64 (a.za / 65536 * 65536 + c.val.toNat % 65536) }
      else s
    | none => s

def rewriteA (x : Ext) (as : List Acc) (fin : List Nat) (post s : State) : State :=
  if as.all (fun a => a.hops == 0) then s else fin.foldl (rewriteLane x as post) s

/-- Lines an irrevocable lane would hold with some accesses more (R261). -/
def irrOver (s : State) (x : Ext) (q : Ask) (as : List Acc) : List Nat :=
  (as.filter (fun a => a.place.isSome && s.isTx x q a.lane a.va && (s.txAt a.lane).irr
    && decide (1024 < ((s.txAt a.lane).lines ++ ((as.filter (fun b => b.lane == a.lane && (match b.place with
      | some (.glob _) => true | _ => false))).map (fun b => lineOf b.pa))).eraseDups.length))).map (·.lane)

/-- An irrevocable lane holds a line. -/
def State.holdLine (s : State) (lane pa : Nat) : State :=
  let t := s.txAt lane
  if t.lines.contains (lineOf pa) then s else s.setTx lane { t with lines := t.lines ++ [lineOf pa] }

/-- A memory instruction up to its effect: the state, the accesses of its finished lanes, the finished lanes,
the unfinished ones. -/
def memPhase (opc : Nat) (x : Ext) (q : Ask) (s : State) (ls : List Nat) : R (State × List Acc × List Nat × List Unf) := do
  let base := (srcsOf opc x).headD { pos := 1 }
  let p ← addrPhase s x q (accsOf ls (fun l => (s.opnd base l).val) (memOff opc x) q)
  let r ← transPhase s x q p.2 p.1
  let as := finished r.1 x q r.2.1 r.2.2
  let past := irrOver r.1 x q as
  if !past.isEmpty then trap 0x2A 4 (maskOf past)
  .ok (r.1, as, ls.filter (fun l => !r.2.2.any (fun u => u.1 == l)), r.2.2)

/-! ### ld and ldm -/

/-- The size of one name of `ld` and `st`, and of `ldm` and `stm` (R215). -/
def nameSize (x : Ext) (many : Bool) : Nat :=
  if many || x.modN == 0 then (if x.fmt.is64 then 8 else 4) else x.modN

/-- A transactional load waits for an earlier load of its word by the core (R227). -/
def txWaits (s : State) (x : Ext) (q : Ask) (a : Acc) : Bool :=
  match a.place with
  | some (.glob _) => s.isTx x q a.lane a.va && s.earlierLoad s.cur.core s.serial a.pa
  | _ => false

/-- A name of a load's number for the pass in which a lane's stitch is swept (R20), before the instruction of state `s`. -/
def passNo (s : State) (i lane : Nat) : Nat :=
  let ts := stitchesOf s.nlanes s.sw.mask
  (s.serial * 64 + i) * 64 + ((List.range (lane / 8)).filter (fun j => ts.getLsbD j)).length / 4 + 1

/-- One loaded name of a lane (R216); `pre` is the state before the instruction: a lane hits what the L1 held then,
not what an earlier lane's miss brings, and is FULL at once (R70). -/
def loadOne (x : Ext) (q : Ask) (pre s : State) (a : Acc) : State :=
  let d := x.dst + BitVec.ofNat 10 a.i
  let b := s.bolt
  let lane := if x.g then none else some a.lane
  let core := s.cur.core
  let hit := pre.l1Hit core a.pa
  match a.place with
  | none => s.write d a.lane x.cntN x.fmt 0
  | some (.scr c off) =>
    let r := s.scrRead c off q.size
    r.2.2.write d a.lane x.cntN x.fmt (extendLoad (toLE r.1 q.size) x.fmt) r.2.1
  | some (.glob _) =>
    if s.isTx x q a.lane a.va then
      let za := BitVec.ofNat 64 a.za
      if (s.txAt a.lane).irr then
        let s := (((s.txConflicts a.lane (a.pa / 8 * 8) false).l2Fill a.pa b.ten).l2Correct (a.pa / 8 * 8)).stgCorrect
          b.launch b.stage a.pa a.za
        let r := s.myLoad a.pa za q.size
        ((s.holdLine a.lane a.pa).l1Refresh core a.pa).owe d a.lane x.cntN x.fmt lane true false
          (.value (extendLoad r.1 x.fmt) x.fmt 0 r.2) (passNo pre a.i a.lane)
      else
        let s := (s.l1Parity core a.pa).txTouch a.lane a.pa za q.size a.acc true false
        if (s.txAt a.lane).doom then s.write d a.lane x.cntN x.fmt 0
        else
          let v := extendLoad (s.txBytes a.lane a.pa za q.size) x.fmt
          if hit then (s.l1Refresh core a.pa).write d a.lane x.cntN x.fmt v
          else (if s.l1Hit core a.pa then s else s.l1Fill core a.pa b.ten a.acc).owe d a.lane x.cntN x.fmt lane true false
            (.value v x.fmt 0 false) (passNo pre a.i a.lane)
    else
      let s := (s.plainAccess a.pa).l1Parity core a.pa
      match s.l1Load core s.serial b.launch b.stage a.pa (BitVec.ofNat 64 a.za) q.size with
      | some bs =>
        let v := extendLoad bs x.fmt
        if hit then s.write d a.lane x.cntN x.fmt v
        else s.owe d a.lane x.cntN x.fmt lane true false (.value v x.fmt 0 false) (passNo pre a.i a.lane)
      | none => s.owe d a.lane x.cntN x.fmt lane true false
          (.load a.pa (BitVec.ofNat 64 a.za) q.size x.fmt (x.fmt == .s32) a.acc) (passNo pre a.i a.lane)

/-- The effect of `ld` and `ldm` (R216): `n` names. -/
def loadBody (opc : Nat) (x : Ext) (many : Bool) (s : State) : R State := do
  let n := if many then rangeLen x.modN else 1
  let q : Ask := { size := nameSize x many, n := n, perm := .r, kind := some .rd, tx := true }
  let srcs := srcsOf opc x
  let ls ← s.ready x srcs (codesFrom x.dst n) x.fmt.is64
  let m ← memPhase opc x q s ls
  if m.2.1.any (txWaits m.1 x q) then retry s 2
  let p ← m.1.takeUp x m.2.2.1 srcs (codesFrom x.dst n) x.fmt.is64
  memEnd s x m.2.2.2 m.2.2.1 (rewriteA x m.2.1 m.2.2.1 p.post (m.2.1.foldl (loadOne x q m.1) p.post))

def ldForm (len : Nat) (x : Ext) (s : State) : Out := issue 0x160 len x false (loadBody 0x160 x false) s
def execLd (x : Ext) (s : State) : Out := ldForm x.len x s
def execLdB32Base (w : BaseWord) (s : State) : Out := ldForm (baseLen w) (w.toExt 0x36) s
def execLdB64Base (w : BaseWord) (s : State) : Out := ldForm (baseLen w) (w.toExt 0x37) s

/-- `ldm` (R216). -/
def execLdm (x : Ext) (s : State) : Out := issue 0x162 x.len x false (loadBody 0x162 x true) s

/-! ### st and stm -/

/-- One stored name of a lane (R216): `v` its value. -/
def storeOne (x : Ext) (q : Ask) (v : Word) (s : State) (a : Acc) : R State :=
  let bytes := (toLE v.toNat 8).take q.size
  match a.place with
  | none => .ok s
  | some (.scr c off) => .ok (s.scrWrite c off bytes)
  | some (.glob _) =>
    let za := BitVec.ofNat 64 a.za
    if s.isTx x q a.lane a.va then
      if (s.txAt a.lane).irr then
        match s.drainWords s.cur.core [a.pa / 8 * 8] 4096 with
        | none => retry s 13
        | some s =>
          let s := (s.txConflicts a.lane (a.pa / 8 * 8) true).holdLine a.lane a.pa
          let s := s.bump a.pa a.acc
          .ok (match s.bolt.stage with
            | some cb => s.stagePut s.bolt.launch cb a.za a.pa bytes s.cur.core s.cur.core
            | none => s.writeL2 a.pa bytes s.cur.core s.ten)
      else .ok ((s.txTouch a.lane a.pa za q.size a.acc false true).txStore a.lane a.pa bytes)
    else .ok (s.issueStore a.pa za bytes a.acc)

/-- The stored names in ascending lane order, so that the highest lane's byte stands (R200). -/
def storeAll (p : Prep) (x : Ext) (q : Ask) : List Acc → State → R State
  | [], s => .ok s
  | a :: as, s => do
    let s ← storeOne x q (p.opnd 2 a.lane a.i).val s a
    storeAll p x q as s

/-- The effect of `st` and `stm` (R216). A store that must wait takes nothing with it. DESIGN CHOICE: one whose value is
EMPTY waits, or splits, before its addresses are checked and translated (log 114). -/
def storeBody (opc : Nat) (x : Ext) (many : Bool) (s : State) : R State := do
  let n := if many then rangeLen x.modN else 1
  let q : Ask := { size := nameSize x many, n := n, perm := .w, kind := some .wr, tx := true }
  let srcs := srcsOf opc x
  let ls ← s.ready x srcs [] false
  let m ← memPhase opc x q s ls
  let p ← m.1.takeUp x m.2.2.1 srcs [] false
  match storeAll p x q m.2.1 p.post with
  | .error (.wait w _) => .error (.wait w s)
  | .error e => .error e
  | .ok t => memEnd s x m.2.2.2 m.2.2.1 (rewriteA x m.2.1 m.2.2.1 p.post t)

def stForm (len : Nat) (x : Ext) (s : State) : Out := issue 0x161 len x false (storeBody 0x161 x false) s
def execSt (x : Ext) (s : State) : Out := stForm x.len x s
def execStB32Base (w : BaseWord) (s : State) : Out := stForm (baseLen w) (w.toExt 0x38) s
def execStB64Base (w : BaseWord) (s : State) : Out := stForm (baseLen w) (w.toExt 0x39) s

/-- `stm` (R216). -/
def execStm (x : Ext) (s : State) : Out := issue 0x163 x.len x false (storeBody 0x163 x true) s

/-! ### pf, cinv, cwb, aq -/

/-- `pf` (R218): it never faults on memory; a request that neither level of TLB can translate is dropped (R213, R331),
and one for a line that the L1 holds whole fetches nothing. One for a line that an engine, a transaction or a commit
holds is dropped (DESIGN CHOICE, log 89). -/
def execPf (x : Ext) (s : State) : Out :=
  issue 0x164 x.len x false (fun s => do
    let p ← s.prep x (srcsOf 0x164 x) [] false
    .ok (p.lanes.foldl (fun t l =>
      let va := (p.opnd 1 l).val + memOff 0x164 x
      if winOf va ≠ 0 then t
      else match t.translateSpec t.cur.core t.ten va.toNat with
        | .ok pa acc _ _ =>
          if t.lineBusy pa (some t.cur.core) then t
          else if x.modN ≠ 0 then t.l2Fill pa t.ten
          else if (lineWs pa).all (fun w => t.cc.l1.has w) then t
          else t.l1Fill t.cur.core pa t.ten acc
        | _ => t) p.post)) s

/-- The words of a line leave a core's L1. -/
def State.l1Drop (s : State) (core pa : Nat) : State :=
  s.modCore core (fun c => { c with l1 := (List.range 16).foldl (fun t i => t.erase (lineOf pa + 8 * i)) c.l1 })

/-- The global places of `cinv` and `cwb`: a scratchpad address does nothing, within its bound or not. -/
def linePhase (opc : Nat) (x : Ext) (perm : Perm) (s : State) (ls : List Nat) : R (List Acc × List Unf) := do
  let q : Ask := { size := 1, perm := perm }
  let base := (srcsOf opc x).headD { pos := 1 }
  let as := (accsOf ls (fun l => (s.opnd base l).val) (memOff opc x) q).filter (fun a => winOf a.va != 2 && winOf a.va != 3)
  let p ← addrPhase s x q as
  let r ← transPhase s x q p.2 p.1
  .ok (r.2.1, r.2.2)

/-- `cinv` of lines: a translation that is missing does nothing (R219); a fifth tack leaves its lane unfinished (R331). -/
def cinvLine (x : Ext) (s : State) : R State := do
  let srcs := srcsOf 0x165 x
  let ls ← s.ready x srcs [] false
  let r ← linePhase 0x165 x .none s ls
  let far := r.2.filter (fun u => u.2.1 == 0x0C)
  let fin := ls.filter (fun l => !far.any (fun u => u.1 == l))
  let p ← s.takeUp x fin srcs [] false
  memEnd s x far fin
    ((r.1.filter (fun a => !r.2.any (fun u => u.1 == a.lane))).foldl (fun s a => s.l1Drop s.cur.core a.pa) p.post)

/-- `cinv.all`: the clear takes its time (R219), ended by its event. Phase 6 waits, phase 7 is over. -/
def cinvAll (x : Ext) (s : State) : R State :=
  if !s.gActive x || s.dry x then .ok s
  else if s.sw.phase = 7 then .ok s
  else .error (.wait (.retry 12) (s.modSw (fun w => { w with phase := 6 })))

/-- `cinv` (R219). -/
def execCinv (x : Ext) (s : State) : Out :=
  issue 0x165 x.len x false (if x.g then cinvAll x else cinvLine x) s

/-- The key of the current swatch among its core's. -/
def State.swKey (s : State) : Nat := s.bolt.shuttle * 65536 + s.cur.ent

/-- A line goes from the L2 to HBM, charged to the tenancy of its last store (R220, R466). -/
def State.writeBack (s : State) (line ten : Nat) : State :=
  let t := s.lineTen.getD line ten
  let s := s.l2Fill line ten
  ({ s with hbm := s.hbm.writeBytes line (s.mem.bytes line 128) }).charge t 2 128

/-- The end of a `cwb`: HBM has acknowledged every line, and the unfinished lanes, if any, park (R208, R220). -/
def cwbEnd (s : State) : R State :=
  let cause := s.sw.phase / 16
  if s.cc.acks.contains s.swKey then retry s 12
  else if cause = 0 then .ok s else .error (.partial_ cause s.sw.hold s.sw.ctx s)

/-- `cwb` (R220). Phase 0 drains and writes back; phase 9, with 16 times the cause of lanes left unfinished, waits for
HBM's acknowledgements. -/
def cwbBody (x : Ext) (s : State) : R State := do
  if s.sw.phase % 16 = 9 then cwbEnd s
  else
    let srcs := srcsOf 0x166 x
    let ls ← s.ready x srcs [] false
    let live := ls.filter (fun l => !((s.txAt l).act && (s.txAt l).doom))
    let r ← linePhase 0x166 x .r s live
    let as := r.1.filter (fun a => !r.2.any (fun u => u.1 == a.lane))
    let lines := (as.map (fun a => lineOf a.pa)).eraseDups
    if lines.any (fun l => s.lineBusy l (some s.cur.core) || s.cc.stq.any (fun p => p.again || lineOf p.pa == l)) then retry s 12
    let fin := ls.filter (fun l => !r.2.any (fun u => u.1 == l))
    let p ← s.takeUp x fin srcs [] false
    let t := lines.foldl (fun s l => s.writeBack l s.ten) p.post
    let t := t.modCore t.cur.core (fun c => { c with acks := c.acks ++ lines.map (fun _ => s.swKey) })
    let c := r.2.foldl (fun m u => min m u.2.1) 0xFF
    let lo := r.2.foldl (fun m u => if u.1 < m.1 then (u.1, u.2.2) else m) (1024, (0 : Word))
    let t := if r.2.isEmpty || fin.isEmpty then t else t.charge s.ten 0 (if x.g then 1 else fin.length)
    if r.2.isEmpty && lines.isEmpty then .ok t
    else cwbEnd (t.modSw (fun w => { w with
      phase := 9 + (if r.2.isEmpty then 0 else 16 * c), hold := lo.2
      ctx := if r.2.isEmpty then maskOf fin else s.failMask x (r.2.map (·.1)) }))

def execCwb (x : Ext) (s : State) : Out := issue 0x166 x.len x false (cwbBody x) s

/-- The leaf at the end of an address's tacks, and whether the TLB held each hop (R221). -/
def aqLeaf (s : State) : Nat → Nat → Bool → Option Leaf × Bool
  | 0, _, hit => (none, hit)
  | fuel + 1, va, hit =>
    let h := hit && (s.cc.tlbGet s.ten va).isSome
    match s.fill s.ten va with
    | none => (none, h)
    | some e => match e.tack with
      | some t => if fuel = 0 then (none, h) else aqLeaf s fuel (s.tileAddr s.ten t + va % 65536) h
      | none => (some e.leaf, h)

/-- The fields of a leaf in the value of `aq` (R221). -/
def aqFields (l : Leaf) : Nat :=
  (if l.acc then 2 ^ 13 else 0) + (if l.tck then 2 ^ 12 else 0) + (if l.mov then 2 ^ 11 else 0)
    + (if l.log = 30 then 2 else if l.log = 21 then 1 else 0) * 2 ^ 8 + (if l.x then 2 ^ 7 else 0)
    + (if l.w then 2 ^ 6 else 0) + (if l.rd then 2 ^ 5 else 0) + 2 ^ 4

/-- The value of `aq` for a lane's address, and whether it is in hand (R221). -/
def aqVal (s : State) (lane : Nat) (va : Word) : Nat × Bool :=
  let g (a win : Nat) : Nat × Bool :=
    let r := aqLeaf s 5 a true
    ((match r.1 with | some l => aqFields l | none => 0) + win, r.2)
  match winOf va with
  | 0 => g va.toNat 0
  | 1 => if winOff va < s.launch.stkSize then g (stackAddr s.launch s.panel s.bolt lane (winOff va)) 1 else (1, true)
  | 15 => (15, true)
  | w => match s.place lane va 1 with
    | .ok _ => (w + 2 ^ 4 + 2 ^ 5 + 2 ^ 6, true)
    | .error _ => (w, true)

/-- `aq` (R221). -/
def execAq (x : Ext) (s : State) : Out :=
  issue 0x167 x.len x false (fun s => do
    let p ← s.prep x (srcsOf 0x167 x) [x.dst] true
    .ok (p.lanes.foldl (fun t l =>
      let ea := (p.opnd 1 l).val + memOff 0x167 x
      let r := aqVal p.pre l ea
      let t := if r.2 then t else t.walkFill t.ten ea.toNat
      if r.2 then t.write x.dst l x.cntN .n64 (BitVec.ofNat 64 r.1)
      else t.owe x.dst l x.cntN .n64 (if x.g then none else some l) false false
        (.value (BitVec.ofNat 64 r.1) .n64 0 false)) p.post)) s

/-! ### pbload (R116) -/

/-- The word of one access of `pbload`, an ordinary load (R116): it hits the L1 or fills it; none while it must wait. -/
def pbWord (s : State) (a : Acc) : Option (List Byte × Bool × State) :=
  match a.place with
  | some (.scr c off) =>
    let r := s.scrRead c off 4
    some (toLE r.1 4, r.2.1, r.2.2)
  | some (.glob _) =>
    let core := s.cur.core
    let za := BitVec.ofNat 64 a.za
    let s := (s.plainAccess a.pa).l1Parity core a.pa
    match s.l1Load core s.serial s.bolt.launch s.bolt.stage a.pa za 4 with
    | some bs => some (bs, false, s)
    | none =>
      if s.lineBusy a.pa (some core) || s.earlierLoad core s.serial a.pa then none
      else
        let s := s.l1Fill core a.pa s.ten a.acc
        let r := s.l2Load core s.serial s.bolt.launch s.bolt.stage a.pa za 4
        some (r.1, r.2, s)
  | none => some ([], false, s)

/-- The words at the accesses of `pbload`, or 0x13 at one that cannot be corrected (R381); nothing is read, and nothing
consumed, while one of them must wait. -/
def pbWords (x : Ext) (s0 : State) (s : State) : List Acc → R (List (BitVec 32) × State)
  | [] => .ok ([], s)
  | a :: as =>
    match pbWord s a with
    | none => retry s0 10
    | some (bs, bad, t) => do
      if bad then trap 0x13 (match a.place with
        | some (.glob _) => BitVec.ofNat 64 (a.pa / 8 * 8)
        | _ => BitVec.ofNat 64 x.a.toNat) s.sw.mask
      let r ← pbWords x s0 t as
      .ok (BitVec.ofNat 32 (ofLE bs) :: r.1, r.2)

/-- `pbload` (R116): a translation fault changes no leader; the last leader written ends it. -/
def pbloadBody (x : Ext) (s : State) : R State := do
  let srcs := srcsOf 0x03A x
  let ls ← s.ready x srcs [] false
  match ls with
  | [] => .ok s
  | _ => do
    let first := x.immF 0 9
    let n := x.immF 12 10 + 1
    let q : Ask := { size := 4, n := n, perm := .r }
    let base := (s.opnd (srcs.headD { pos := 1 }) 0).val
    if base.toNat % 4 ≠ 0 then trap 0x0A base s.sw.mask
    if s.cc.psOwner.isSome && s.cc.psOwner != some s.bolt.launch then
      trap 0x23 (BitVec.ofNat 64 x.a.toNat) s.sw.mask
    let a ← addrPhase s x q (accsOf [0] (fun _ => base) 0 q)
    let r ← transPhase s x q a.2 a.1
    match r.2.2 with
    | [] => .ok ()
    | _ => memEnd s x r.2.2 [] s >>= fun _ => .ok ()
    if s.cc.psRegen || s.cc.mxq.any (fun o => o.kind != 2 && (o.afmt == .pb2x2 || o.desc.toNat / 2 ^ 12 % 16 == 0xE)) then
      retry s 10
    let p ← s.takeUp x ls srcs [] false
    let w ← pbWords x s p.post r.2.1
    .ok (w.2.modCore s.cur.core (fun c => { c with
      leaders := ((List.range n).zip w.1).foldl (fun t e =>
        if e.2 = Fp.defaultLeader (first + e.1) then t.erase (first + e.1) else t.set (first + e.1) e.2) c.leaders
      psOwner := some s.bolt.launch
      psBad := c.psBad.filter (fun i => !(first ≤ i && i < first + n)) }))

def execPbload (x : Ext) (s : State) : Out := issue 0x03A x.len x false (pbloadBody x) s

end Sys2Proof.Machine
end

