-- ==== Sys2Proof/Machine/Control.lean ====
section
/-! DEFINITION. Control flow (R144 to R173): splits, forks and joins, calls and returns, exit, `loop`, `yield`,
`nop` and `brk`, and the base forms equal to them. -/

namespace Sys2Proof.Machine

/-! ### Native form (R58) -/

/-- A safe point: the swatch goes on in native form where one is installed. -/
def State.safePoint (s : State) (ten : Nat) (w : Swatch) : Swatch := { w with native := s.nativeAt ten w.pc }

/-- The native forms of a tenancy that meet a stretch of code are withdrawn, and its swatches go on in portable form where
none covers them any more (R58). -/
def State.withdrawNative (s : State) (ten : Nat) (hit : Word × Word → Bool) : State :=
  let t := s.modTen ten (fun t => { t with native := t.native.filter (fun r => !hit r) })
  let up (b : Bolt) : Bolt := { b with sw := ⟨b.sw.ents.map (fun e => (e.1, t.settleForm ten e.2))⟩ }
  t.mapCores (fun c => { c with bolts := ⟨c.bolts.ents.map (fun b => (b.1, if b.2.ten = ten then up b.2 else b.2))⟩ })

/-! ### Splits (R145, R151) -/

/-- A part of a swatch that goes on elsewhere. -/
def Swatch.part (w : Swatch) (m : Mask) (pc : Word) : Swatch :=
  { mask := m, pc := pc, depth := w.depth, jtop := w.jtop, rtop := w.rtop, ctx := w.ctx, safe := w.safe
    native := w.native, hand := w.hand }

/-- The pieces of a split, each a mask and a PC: the first keeps the swatch, each other takes an entry. The
swatch waits whole when the entries cannot be taken. -/
def splitInto (s : State) (ps : List (Mask × Word)) (f : Swatch → Swatch := id) : R State :=
  let w := s.sw
  match ps with
  | [] => .ok s
  | (m, pc) :: r =>
    if r.isEmpty || s.canSplit r.length then
      .ok ((r.foldl (fun t p => t.addSwatch (f (w.part p.1 p.2))) s).setSw
        (f { w with mask := m, pc := pc, yield := [] }))
    else retry s 6

/-- Lanes with their targets, by rising target. -/
def byTarget (ts : List (Nat × Word)) : List (Mask × Word) :=
  let keys := sortBy (fun a b => decide (a ≤ b)) (ts.map (fun p => p.2.toNat)).eraseDups
  keys.map (fun k => (maskOf ((ts.filter (fun p => p.2.toNat == k)).map Prod.fst), BitVec.ofNat 64 k))

/-- The lanes of the swatch for which a transfer's predicate is true (R166). -/
def State.takers (s : State) (x : Ext) : Mask := s.active x

/-- The lanes of the swatch (R5). -/
def State.swLanes (s : State) : Mask := s.sw.mask &&& fullMask s.nlanes

/-! ### Return entries (R155 to R157) -/

/-- The entries from one down its links. -/
def retChain (b : Bolt) : Nat → Option Nat → List Nat
  | 0, _ => []
  | _, none => []
  | fuel + 1, some r =>
    match b.rets.get? r with
    | none => []
    | some e => r :: retChain b fuel e.link

/-- Entries that nothing points to are freed (R155); a serial record keeps its own (R158). -/
def Bolt.gcRets (b : Bolt) : Bolt :=
  if b.rets.ents.isEmpty then b
  else
    let live := (b.sw.vals.flatMap (fun w => retChain b 257 w.rtop))
      ++ (b.rets.ents.filter (fun e => match e.2.serial with | some j => b.joins.has j | none => false)).flatMap
          (fun e => retChain b 257 (some e.1))
    { b with rets := ⟨b.rets.ents.filter (fun e => live.contains e.1)⟩ }

/-- The entry that a push writes to the spill area: the oldest in hardware when all 16 slots are taken (R156). -/
def Bolt.spillOut (b : Bolt) : Option Nat :=
  let hw := b.rets.ents.filter (fun e => !e.2.spilled)
  if hw.length < 16 then none
  else (hw.foldl (fun (m : Option (Nat × Nat)) e => match m with
    | none => some (e.1, e.2.order)
    | some p => if e.2.order < p.2 then some (e.1, e.2.order) else m) none).map Prod.fst

/-! ### Errors of the protected records (R419) -/

/-- A read of a record or an entry whose flipped bits are given: a single-bit error is corrected in place and counted,
another is 0x13 at the reader. -/
def checkedRead (s : State) (ecc : Word) (fix : Bolt → Bolt) : R State :=
  if ecc == 0 then .ok s
  else if ones ecc = 1 then .ok ((s.modBolt fix).correct s.cur.core 1)
  else trap 0x13 0 s.sw.mask

/-- A read of a join record, of some of them, and of a return entry. -/
def State.readJoin (s : State) (r : Nat) : R State :=
  checkedRead s (s.bolt.joins.getD r {}).ecc (fun b => { b with joins := b.joins.set r { b.joins.getD r {} with ecc := 0 } })
def State.readJoins (s : State) : List Nat → R State
  | [] => .ok s
  | r :: rs => do (← s.readJoin r).readJoins rs
def State.readRet (s : State) (e : Nat) : R State :=
  checkedRead s (s.bolt.rets.getD e {}).ecc (fun b => { b with rets := b.rets.set e { b.rets.getD e {} with ecc := 0 } })

/-- The place of an entry in the spill area (R156, R201). -/
def spillAddr (s : State) (e : Nat) : Nat := stackBase s.launch s.panel s.bolt + s.launch.stkSize + 16 * e

/-- The core's access to an entry's place in the spill area, an ordinary one (R156): its physical address, its
leaf's ACC and its address at the end of the tacks, the wait for a walk, or 0x11 with the address. -/
def spillAccess (s : State) (e : Nat) (p : Perm) : R (Nat × Bool × Nat) :=
  match s.translate s.cur.core s.ten (spillAddr s e) p s.sw with
  | .miss v => .error (.wait (.walk (BitVec.ofNat 64 v)) s)
  | .bad _ _ => trap 0x11 (BitVec.ofNat 64 (spillAddr s e)) s.sw.mask
  | .ok pa acc za _ => .ok (pa, acc, za)

/-- Room for a pushed entry: the spill of another, two stores whose bytes the spec does not lay out (R156). -/
def makeRoom (s : State) : R State := do
  match s.bolt.spillOut with
  | none => .ok s
  | some e => do
    let s ← s.readRet e
    let a ← spillAccess s e .w
    let word (i : Nat) : List Byte := (List.range 8).map (fun j => Config.freeByte (s.fresh + 8 * i + j))
    let put (t : State) (i : Nat) : State := t.issueStore (a.1 + 8 * i) (BitVec.ofNat 64 (a.2.2 + 8 * i)) (word i) a.2.1
    let t := put (put { s with fresh := s.fresh + 16 } 0) 1
    let up (r : RetEnt) : RetEnt := { r with spilled := true }
    .ok (t.modBolt (fun b => { b with rets := b.rets.set e (up (b.rets.getD e {})) }))

/-- A spilled entry is read back (R156): it waits for a held line, an error that cannot be corrected is 0x11, and a
line that the L1 does not hold is filled. An entry that others still use stays spilled, and is read back again: DESIGN
CHOICE, log 80. -/
def refill (s : State) (e : Nat) : R State := do
  let a ← spillAccess s e .r
  let ws := [(a.1, a.2.2), (a.1 + 8, a.2.2 + 8)]
  let s := ws.foldl (fun s w => s.l1Parity s.cur.core w.1) s
  let l := s.launch
  let flips (w : Nat × Nat) : Word := match s.bolt.stage with
    | some b => l.stgFlips b w.2
    | none => 0
  if ws.all (fun w => s.l1Hit s.cur.core w.1 && flips w == 0) then .ok s
  else if s.lineBusy a.1 (some s.cur.core) || ws.any (fun w => s.earlierLoad s.cur.core s.serial w.1) then retry s 2
  else if ws.any (fun w => (s.myLoad w.1 (BitVec.ofNat 64 w.2) 8).2) then trap 0x11 (BitVec.ofNat 64 (spillAddr s e)) s.sw.mask
  else .ok (ws.foldl (fun t w => t.stgCorrect t.bolt.launch t.bolt.stage w.1 w.2) (s.l1Fill s.cur.core a.1 s.ten a.2.1))

/-- A new return entry (R155): its number and the state; 0x11 when all 256 are in use. -/
def pushRet (s : State) (addr : Word) (serial : Option Nat) : R (Nat × State) := do
  match (List.range 256).find? (fun i => !s.bolt.rets.has i) with
  | none => trap 0x11 0 s.sw.mask
  | some i => do
    let s ← makeRoom s
    let (o, s) := s.takeStamp
    let e : RetEnt := { addr := addr, link := s.sw.rtop, serial := serial, order := o }
    .ok (i, s.modBolt (fun b => { b with rets := b.rets.set i e }))

/-! ### Fusion (R149, R153, R158) -/

/-- Waiting swatches that satisfy `p` become one, in the entry of the first to arrive, changed by `f`. -/
def Bolt.fuse (b : Bolt) (p : Swatch → Bool) (f : Swatch → Swatch) : Option Nat × Bolt :=
  let ws := b.sw.ents.filter (fun e => p e.2)
  match ws.foldl (fun (m : Option (Nat × Swatch)) e => match m with
      | none => some e
      | some q => if e.2.order < q.2.order then some e else m) none with
  | none => (none, b)
  | some (e, w) =>
    let m := ws.foldl (fun m e => m ||| e.2.mask) (0 : Mask)
    let v : Swatch := f { w with mask := m, hand := ws.any (fun e => e.2.hand), ecc := ws.foldl (fun m e => m ||| e.2.ecc) 0 }
    (some e, { b with sw := (⟨b.sw.ents.filter (fun e => !p e.2)⟩ : Tab Swatch).set e v })

/-- A join whose every expected lane has arrived completes; a record with no lane left is freed (R149, R150). -/
def State.joinDone (s : State) (core slot r : Nat) : State :=
  let b := s.boltAt core slot
  match b.joins.get? r with
  | none => s
  | some j =>
    if j.serial then s
    else if j.e = 0 then s.setBoltAt core slot { b with joins := b.joins.erase r }
    else if j.a = j.e then
      let b := (b.fuse (fun w => w.st == .join r) (fun w =>
        s.safePoint b.ten { w with st := .ready, pc := w.hold, hold := 0, depth := w.depth - 1, jtop := j.link })).2
      s.setBoltAt core slot { b with joins := b.joins.erase r }
    else s

/-- The return entry of a serial record. -/
def Bolt.serialRet (b : Bolt) (r : Nat) : Option Nat := (b.rets.ents.find? (fun e => e.2.serial == some r)).map Prod.fst

/-- Steps 4 and 5 of R158 for the current swatch, which carries the sequence: the next piece with a live lane,
or the end; 0x02 at a piece whose target fails, the rest of the record intact. The entry that step 4 pushes again keeps
the order of its first push: DESIGN CHOICE, log 81. -/
def nextPiece (s : State) (r : Nat) : State × Option (Word × Mask) :=
  let b := s.bolt
  let j := b.joins.getD r {}
  let w := s.sw
  match j.pieces.filter (fun p => p.2 != 0) with
  | (t, m) :: rest =>
    let w := { w with mask := m, st := .ready, jtop := some r, rtop := b.serialRet r }
    if s.startBit b.ten t then
      let k : JoinRec := { j with pieces := rest, piece := m, back := 0, stuck := none }
      ((s.modBolt (fun b => { b with joins := b.joins.set r k })).setSw (s.settleForm s.ten { w with pc := t }), none)
    else
      let k : JoinRec := { j with pieces := (t, m) :: rest, piece := m, back := 0, stuck := some w.hand }
      ((s.modBolt (fun b => { b with joins := b.joins.set r k })).setSw { w with pc := j.at_ }, some (t, m))
  | [] =>
    let e := (b.serialRet r).bind (fun i => (b.rets.get? i).bind (·.link))
    ((s.setSw { w with mask := j.e, st := .ready, pc := j.after, jtop := j.link, depth := w.depth - 1, rtop := e }).modBolt
      (fun b => ({ b with joins := b.joins.erase r } : Bolt).gcRets), none)

/-- The depth of a swatch whose innermost record is `r`: the records from it down. -/
def joinDepth (b : Bolt) : Nat → Option Nat → Nat
  | 0, _ => 0
  | _, none => 0
  | fuel + 1, some r => 1 + joinDepth b fuel ((b.joins.get? r).bind (·.link))

/-- A piece whose every live lane has returned, or left, is over (R158): its swatches fuse, or `carrier`
carries the sequence on. -/
def State.pieceDone (s : State) (r : Nat) (carrier : Nat) : State :=
  let b := s.bolt
  match b.joins.get? r with
  | none => s
  | some j =>
    if !j.serial || j.back != j.piece then s
    else if j.e = 0 then
      let left := if (b.sw.getD carrier {}).mask == 0 then b.sw.erase carrier else b.sw
      s.modBolt (fun b => ({ b with joins := b.joins.erase r, sw := left } : Bolt).gcRets)
    else
      let d := joinDepth b 33 (some r)
      let f := b.fuse (fun w => w.st == .piece r) (fun w => { w with st := .ready, depth := d, jtop := some r })
      let go (w : Swatch) : Swatch := { w with st := .ready, depth := d, jtop := some r }
      let (ent, b) := match f.1 with
        | some e => (e, f.2)
        | none => (carrier, { b with sw := b.sw.set carrier (go (b.sw.getD carrier {})) })
      let cur := s.cur
      let t := { (s.setBolt b) with cur := { cur with ent := ent } }
      let n := nextPiece t r
      let t := match n.2 with
        | none => n.1
        | some (tgt, m) => raise n.1 0x02 tgt m
      { t with cur := cur }

/-! ### Exit (R154) -/

/-- The records on a swatch's chain, the innermost first. -/
def joinChain (b : Bolt) : Nat → Option Nat → List Nat
  | 0, _ => []
  | _, none => []
  | fuel + 1, some r =>
    match b.joins.get? r with
    | none => []
    | some j => r :: joinChain b fuel j.link

/-- Every vector name of some lanes ends as by `exhaust`. -/
def Bolt.endLanes (b : Bolt) (m : Mask) : Bolt :=
  { b with regs := ⟨b.regs.ents.filterMap (fun e =>
      if isVKey e.1 && m.getLsbD (e.1 % 1024) then
        (let c := e.2.finish; if c.st == .exhausted then none else some (e.1, c))
      else some e)⟩ }

/-- A record without some lanes. -/
def JoinRec.without (j : JoinRec) (m : Mask) : JoinRec :=
  { j with e := j.e &&& ~~~m, a := j.a &&& ~~~m, piece := j.piece &&& ~~~m, back := j.back &&& ~~~m
           pieces := j.pieces.map (fun p => (p.1, p.2 &&& ~~~m)) }

/-- The block record of a bolt (R440); `n` instructions issue as the last lane leaves. -/
def blockRec (s : State) (n : Nat) : BlockRec :=
  let b := s.bolt
  { shuttle := b.shuttle, core := s.cur.core, bolt := s.cur.slot, launch := b.launch, admitted := b.admitted, exit := s.hb
    issued := b.issued + n, regions := b.top3, sheet := (List.range 16).map (fun i => b.sheet.getD i 0) }

/-- The last lane of the current bolt has left (R154, R333, R406, R440). -/
def boltLeaves (s : State) (n : Nat) : State :=
  let b := s.bolt
  let s := s.post (.block (blockRec s n))
  let s := b.pins.foldl (fun s p => s.addPin b.ten p.1 (· - p.2)) s
  let s := s.modBolt (fun b => { b with
    left := true, resv := {}, gresv := 0, pins := [], sw := {}, joins := {}, rets := {}, tx := {}
    regs := ⟨b.regs.ents.filterMap (fun e =>
      let c := e.2.finish
      if c.st == .exhausted then none else some (e.1, c))⟩ })
  (s.usedPanel s.cur.core b.panel).modPanelAt s.cur.core b.panel (fun p => { p with out := p.out - 1 })

/-- The lanes `m` of the current swatch leave, with `n` instructions. -/
def exitLanes (s : State) (m : Mask) (n : Nat) : State :=
  let w := s.sw
  let chain := joinChain s.bolt 33 w.jtop
  let core := s.cur.core
  let slot := s.cur.slot
  let s := s.modBolt (fun b => { b.endLanes m with
    tx := ⟨b.tx.ents.filter (fun t => !m.getLsbD t.1)⟩
    joins := chain.foldl (fun t r => t.set r ((t.getD r {}).without m)) b.joins })
  let s := match s.token with
    | some (c, b, l) => if c = core ∧ b = slot ∧ m.getLsbD l then { s with token := none } else s
    | none => s
  let s := s.setSw { w with mask := w.mask &&& ~~~m }
  let s := chain.foldl (fun s r => (s.joinDone core slot r).pieceDone r s.cur.ent) s
  let s := if (s.bolt.sw.getD s.cur.ent {}).mask == 0 then s.modBolt (fun b => { b with sw := b.sw.erase s.cur.ent }) else s
  let s := s.modBolt Bolt.gcRets
  if s.bolt.sw.ents.isEmpty then boltLeaves s n else s

/-- `exit` (R154, R170). -/
def exitForm (len : Nat) (x : Ext) (s : State) : Out :=
  issue 0x147 len x true (fun s => do
    let m := s.takers x
    let stay := s.swLanes &&& ~~~m
    if stay != 0 then checkNext s (s.nextPc len)
    let s ← if m = 0 then .ok s else s.readJoins (joinChain s.bolt 33 s.sw.jtop)
    .ok (if m = 0 then s.modSw (fun w => { w with pc := s.nextPc len })
      else exitLanes (s.modSw (fun w => { w with pc := s.nextPc len })) m 1)) s

def execExit (x : Ext) (s : State) : Out := exitForm x.len x s
def execExitBase (w : BaseWord) (s : State) : Out := exitForm (baseLen w) (w.toExt 0x3C) s

/-! ### bra and brx (R166) -/

/-- The target of a form with a signed offset: words in IMM22, bytes in a literal (R165). -/
def target (s : State) (x : Ext) : Word :=
  match x.lit with
  | some v => s.sw.pc + v
  | none => s.sw.pc + x.imm.signExtend 64 * 4

/-- A backward branch is a safe point (R58). -/
def atBack (s : State) (w : Swatch) : Swatch := if w.pc.toNat ≤ s.sw.pc.toNat then s.safePoint s.ten w else w

/-- `bra` (R166). -/
def execBra (x : Ext) (s : State) : Out :=
  issue 0x140 x.len x true (fun s => do
    let t := target s x
    let all := s.swLanes
    let m := if x.g then (if s.gActive x then all else 0) else s.takers x
    let stay := all &&& ~~~m
    if s.inSafe && m != 0 && stay != 0 then trap 0x37 0x140 s.sw.mask
    if m != 0 then checkTarget s t
    if stay != 0 then checkNext s (s.nextPc x.len)
    splitInto s ((if stay != 0 then [(stay, s.nextPc x.len)] else []) ++ (if m != 0 then [(m, t)] else []))
      (fun w => if w.mask = m then atBack s w else w)) s

/-- The targets that the lanes of a computed transfer read: 0x0B outside the global window (R165). -/
def computedTargets (opc : Nat) (x : Ext) (s : State) : R (Prep × List (Nat × Word)) := do
  let p ← s.prep x (srcsOf opc x) [] false
  let ts := p.lanes.map (fun l => (l, (p.opnd 1 l).val))
  match ts.filter (fun t => winOf t.2 != 0) with
  | [] => .ok ()
  | (l, t) :: r => trap 0x0B t (maskOf (l :: r.map Prod.fst))
  .ok (p, ts)

/-- R37 on each of some targets, in turn. DESIGN CHOICE: of several that fail, the first, which is the lowest, is in the
fault-address field, and its lanes alone are recorded (R37 and R166 do not say; log 115). -/
def checkTargets (s : State) : List (Mask × Word) → R Unit
  | [] => .ok ()
  | (m, t) :: r => if s.startBit s.ten t then checkTargets s r else trap 0x02 t m

/-- `brx` (R166): the fall-through lanes keep this swatch. DESIGN CHOICE: where no lane falls through, those of the lowest
target do (R151 does not say; log 120). -/
def execBrx (x : Ext) (s : State) : Out :=
  issue 0x141 x.len x true (fun s => do
    let r ← computedTargets 0x141 x s
    let ps := byTarget r.2
    let stay := s.swLanes &&& ~~~(maskOf r.1.lanes)
    checkTargets s ps
    if stay != 0 then checkNext s (s.nextPc x.len)
    match splitInto r.1.post ((if stay != 0 then [(stay, s.nextPc x.len)] else []) ++ ps)
        (fun w => if w.mask = stay then w else atBack s w) with
    | .error (.wait w _) => .error (.wait w s)
    | q => q) s

/-! ### call, callx and ret (R155 to R158, R167, R168) -/

/-- Lanes `m` of the swatch go to a target under a new return entry; the others fall through (R167). -/
def callTo (s : State) (len : Nat) (m : Mask) (t : Word) : R State := do
  let stay := s.swLanes &&& ~~~m
  if m = 0 then .ok (s.modSw (fun w => { w with pc := s.nextPc len }))
  else do
    if stay != 0 && !s.canSplit 1 then retry s 6
    let r ← pushRet s (s.nextPc len) none
    splitInto r.2 ((if stay != 0 then [(stay, s.nextPc len)] else []) ++ [(m, t)])
      (fun w => if w.pc = t && w.mask = m then s.safePoint s.ten { w with rtop := some r.1 } else w)

/-- `call` (R167). -/
def execCall (x : Ext) (s : State) : Out :=
  issue 0x142 x.len x true (fun s => do
    let m := s.takers x
    let t := target s x
    if m != 0 then checkTarget s t
    if s.swLanes &&& ~~~m != 0 then checkNext s (s.nextPc x.len)
    callTo s x.len m t) s

/-- The first record that no join uses. -/
def Bolt.freeJoin (b : Bolt) : Option Nat := (List.range 32).find? (fun i => !b.joins.has i)

/-- `callx` to several targets (R158): the record, the entry linked to it, and the first piece. -/
def callSerial (s : State) (len : Nat) (m : Mask) (ps : List (Word × Mask)) (post : State) : R State := do
  let stay := s.swLanes &&& ~~~m
  match s.bolt.freeJoin with
  | none => trap 0x27 0 s.sw.mask
  | some j => do
    if 32 ≤ s.sw.depth then trap 0x27 0 s.sw.mask
    if stay != 0 && !s.canSplit 1 then retry s 6
    let w := s.sw
    let r ← pushRet post (s.nextPc len) (some j)
    let t := r.2
    let t := if stay != 0 then t.addSwatch (w.part stay (s.nextPc len)) else t
    let k : JoinRec :=
      { e := m, rt := w.rtop, link := w.jtop, serial := true, pieces := ps, after := s.nextPc len, at_ := w.pc }
    let t := t.modBolt (fun b => { b with joins := b.joins.set j k })
    let t := t.setSw { w with mask := m, depth := w.depth + 1, jtop := some j, rtop := some r.1, yield := [] }
    .ok (nextPiece t j).1

/-- `callx` (R158, R167): a `callx` whose later piece faulted goes on with its record. DESIGN CHOICE: the first piece's target
is checked before a record and a depth are found for it, so that 0x02 comes before 0x27 (log 121). -/
def execCallx (x : Ext) (s : State) : Out :=
  issue 0x143 x.len x true (fun s => do
    let going : Option Nat := match s.sw.jtop with
      | some r => (match s.bolt.joins.get? r with
        | some j => if j.serial && j.at_ == s.sw.pc && j.stuck == some s.sw.hand then some r else none
        | none => none)
      | none => none
    match going with
    | some r => do
      let s ← s.readJoin r
      match nextPiece s r with
      | (t, none) => .ok t
      | (_, some (tgt, m)) => trap 0x02 tgt m
    | none => do
      let r ← computedTargets 0x143 x s
      let ps : List (Mask × Word) := byTarget r.2
      let m := maskOf r.1.lanes
      checkTargets s (ps.take 1)
      if s.swLanes &&& ~~~m != 0 then checkNext s (s.nextPc x.len)
      let q := match ps with
        | [] => callTo r.1.post x.len 0 0
        | [(_, t)] => callTo r.1.post x.len m t
        | _ => callSerial s x.len m (ps.map (fun (p : Mask × Word) => (p.2, p.1))) r.1.post
      match q with
      | .error (.wait w _) => .error (.wait w s)
      | q => q) s

/-- `ret` (R157, R158, R168). -/
def retForm (len : Nat) (x : Ext) (s : State) : Out :=
  issue 0x144 len x true (fun s => do
    let w := s.sw
    match w.rtop.bind (fun r => s.bolt.rets.get? r) with
    | none => trap 0x28 0 w.mask
    | some e => do
      let s ← s.readRet (w.rtop.getD 0)
      let s ← if e.spilled then refill s (w.rtop.getD 0) else .ok s
      let s ← s.readJoins e.serial.toList
      checkTarget s e.addr
      match e.serial with
      | none =>
        .ok ((s.setSw (s.safePoint s.ten { w with pc := e.addr, rtop := e.link })).modBolt Bolt.gcRets)
      | some r => do
        let (o, s) := s.takeStamp
        let s := s.setSw { w with rtop := e.link, st := .piece r, order := o }
        let up (j : JoinRec) : JoinRec := { j with back := j.back ||| w.mask }
        let s := s.modBolt (fun b => { b with joins := b.joins.set r (up (b.joins.getD r {})) })
        .ok ((s.pieceDone r s.cur.ent).modBolt Bolt.gcRets)) s

def execRet (x : Ext) (s : State) : Out := retForm x.len x s
def execRetBase (w : BaseWord) (s : State) : Out := retForm (baseLen w) (w.toExt 0x3A) s

/-! ### fork and join (R148, R149, R169) -/

/-- The two targets of `fork` (R165). -/
def forkTargets (s : State) (x : Ext) : Word × Word :=
  match x.lit with
  | some v => (s.sw.pc + (v.extractLsb' 0 32).signExtend 64, s.sw.pc + (v.extractLsb' 32 32).signExtend 64)
  | none => (s.sw.pc + (x.imm.extractLsb' 11 11).signExtend 64 * 4, s.sw.pc + (x.imm.extractLsb' 0 11).signExtend 64 * 4)

/-- `fork` (R148). -/
def execFork (x : Ext) (s : State) : Out :=
  issue 0x145 x.len x true (fun s => do
    let w := s.sw
    let all := s.swLanes
    let t := s.takers x
    let f := all &&& ~~~t
    let (lelse, ljoin) := forkTargets s x
    if t != 0 then checkNext s (s.nextPc x.len)
    if f != 0 then checkTarget s lelse
    match s.bolt.freeJoin with
    | none => trap 0x27 0 w.mask
    | some j => do
      if 32 ≤ w.depth then trap 0x27 0 w.mask
      let k : JoinRec := { ljoin := ljoin, e := w.mask, rt := w.rtop, link := w.jtop }
      let s1 := s.modBolt (fun b => { b with joins := b.joins.set j k })
      let down (v : Swatch) : Swatch := { v with depth := w.depth + 1, jtop := some j }
      match splitInto s1 ((if t != 0 then [(t, s.nextPc x.len)] else []) ++ (if f != 0 then [(f, lelse)] else [])) down with
      | .error (.wait v _) => .error (.wait v s)
      | q => q) s

/-- `join` (R149). -/
def joinForm (len : Nat) (x : Ext) (s : State) : Out :=
  issue 0x146 len x true (fun s => do
    checkNext s (s.nextPc len)
    let w := s.sw
    match w.jtop.bind (fun r => (s.bolt.joins.get? r).map (fun j => (r, j))) with
    | none => trap 0x26 0 w.mask
    | some (r, j) => do
      let s ← s.readJoin r
      if j.serial || j.ljoin != w.pc || j.rt != w.rtop then trap 0x26 j.ljoin w.mask
      let (o, s) := s.takeStamp
      let s := s.setSw { w with st := .join r, order := o, hold := s.nextPc len }
      let k : JoinRec := { j with a := j.a ||| w.mask }
      let s := s.modBolt (fun b => { b with joins := b.joins.set r k })
      .ok (s.joinDone s.cur.core s.cur.slot r)) s

def execJoin (x : Ext) (s : State) : Out := joinForm x.len x s
def execJoinBase (w : BaseWord) (s : State) : Out := joinForm (baseLen w) (w.toExt 0x3B) s

/-! ### loop, yield, nop, brk -/

/-- `loop` (R171). -/
def execLoop (x : Ext) (s : State) : Out :=
  issue 0x149 x.len x true (fun s => do
    let srcs := srcsOf 0x149 x
    let c := s.cell x.a 0
    let y := Fp.narrow x.fmt (Fp.valT x.fmt c.val - 1)
    let again := c.st == .full && y != 0
    let p ← s.prep x srcs (if again then [x.dst] else []) x.fmt.is64
    let t := if again then target s x else s.nextPc x.len
    if again then checkTarget s t else checkNext s t
    let q := if again then p.post.write x.dst 0 x.cntN x.fmt y else p.post
    .ok (q.modSw (fun w => atBack s { w with pc := t }))) s

/-- The lanes of a bolt in a running irrevocable transaction. -/
def Bolt.irrLanes (b : Bolt) : Mask := maskOf ((b.tx.ents.filter (fun t => t.2.act && t.2.irr)).map Prod.fst)

/-- A swatch of a bolt may issue as far as its bolt goes: wound in, not left, not stopped but for a step, not frozen
but for a lane in an irrevocable transaction (R386). An instruction that has taken effect reaches its boundary before its
bolt is saved or wound out. -/
def Bolt.lets (b : Bolt) (ent : Nat) (w : Swatch) : Bool :=
  !b.left && !b.parked && (!b.winding || w.midway) && (!b.stop.stopped || b.stop.stepEnt == some ent)
    && (!b.frozen || w.midway || w.mask &&& b.irrLanes != 0)

/-- An entry of a shuttle is in use. -/
def Core.entryLives (c : Core) (key : Nat) : Bool :=
  c.bolts.vals.any (fun b => b.shuttle == key / 65536 && b.sw.has (key % 65536))

/-- A swatch may be selected: after `yield`, once the others have issued, or 64 clocks have passed (R164). -/
def Core.mayIssue (c : Core) (b : Bolt) (e : Nat × Swatch) : Bool :=
  e.2.st == .ready && b.lets e.1 e.2 && (decide (e.2.yieldAt + 64 ≤ c.clockOf b) || !e.2.yield.any c.entryLives)

/-- The swatches of a class on a shuttle that may issue (R162), by key, but for the current one (R164). One that an earlier
`yield` of its own still leaves out is not counted as ready: DESIGN CHOICE, log 82. -/
def othersReady (s : State) : List Nat :=
  let b := s.bolt
  s.cc.bolts.vals.flatMap (fun c =>
    if c.shuttle = b.shuttle ∧ c.prio = b.prio then
      (c.sw.ents.filter (fun e => s.cc.mayIssue c e && e.1 != s.cur.ent)).map (fun e => c.shuttle * 65536 + e.1)
    else [])

/-- `yield` (R164). -/
def yieldForm (len : Nat) (x : Ext) (s : State) : Out :=
  issue 0x148 len x false (fun s => .ok (s.modSw (fun w => { w with yield := othersReady s, yieldAt := s.cc.clock.getD s.bolt.shuttle 0 }))) s

def execYield (x : Ext) (s : State) : Out := yieldForm x.len x s
def execYieldBase (w : BaseWord) (s : State) : Out := yieldForm (baseLen w) (w.toExt 0x3D) s

/-- `nop` (R54, R171). -/
def nopForm (len : Nat) (x : Ext) (s : State) : Out := issue 0x14A len x false (fun s => .ok s) s
def execNop (x : Ext) (s : State) : Out := nopForm x.len x s
def execNopBase (w : BaseWord) (s : State) : Out := nopForm (baseLen w) (w.toExt 0x00) s

/-- The code of `brk`. -/
def brkCode (x : Ext) : Word := BitVec.ofNat 64 (x.immF 0 16)

/-- `brk` (R171, R173): cause 0x29 with the code. -/
def execBrk (x : Ext) (s : State) : Out :=
  issue 0x14B x.len x true (fun s => trap 0x29 (brkCode x) s.sw.mask) s

end Sys2Proof.Machine
end

