-- ==== Sys2Proof/Machine/Ordering.lean ====
section
/-! DEFINITION. The ordering forms (R226 to R248): the waits of a release and of an acquire, the clear, `fence`,
`fence.sc`, `tick`, `isync`, and the base forms equal to them. -/

namespace Sys2Proof.Machine

/-- A load or atomic of the current swatch's lanes, issued from `from_` on, has not taken its value (R231). -/
def State.loadsDue (s : State) (from_ : Nat) : Bool :=
  s.dlv.any (fun d => d.core == s.cur.core && d.slot == s.cur.slot && d.mem && decide (from_ ≤ d.id)
    && (match d.lane with | none => true | some l => s.sw.mask.getLsbD l))

/-- The clear of an acquire (R232): the words of the core's L1 that it does not own. -/
def State.acquireClear (s : State) : State :=
  s.modCore s.cur.core (fun c => { c with l1 := ⟨c.l1.ents.filter (fun e => e.2.owned)⟩ })

/-- The wait of a release (R231) under a stall cause: it notes at its start which stores it waits for. -/
def State.releaseWait (s : State) (cause : Nat) : R State :=
  let s := if s.sw.phase = 0 then s.modSw (fun w => { w with phase := 1, hold := BitVec.ofNat 64 s.serial }) else s
  if s.loadsDue 0 || s.cc.stq.any (fun p => decide (p.id < s.sw.hold.toNat)) then retry s cause else .ok s

/-- The effect of `fence.m` (R243): 0 acquire, 1 release, 2 both. -/
def fenceEffect (m : Nat) (s : State) : R State := do
  let s ← if m = 0 then (if s.loadsDue 0 then retry s 12 else .ok s) else s.releaseWait 12
  .ok (if m = 1 then s else s.acquireClear)

/-- `fence.acq`, `fence.rel`, `fence.ar` (R243); of no effect where every lane runs dry (R258). -/
def fenceForm (len : Nat) (x : Ext) (s : State) : Out :=
  issue 0x180 len x false (fun s => if s.dry x then .ok s else fenceEffect x.modN s) s

def execFence (x : Ext) (s : State) : Out := fenceForm x.len x s
def execFenceAcqBase (w : BaseWord) (s : State) : Out := fenceForm (baseLen w) (w.toExt 0x3E) s
def execFenceRelBase (w : BaseWord) (s : State) : Out := fenceForm (baseLen w) (w.toExt 0x3F) s

/-- The wait for the next edge of `HB.NOW` (R234, R245): it notes the count at its start. -/
def State.edgeWait (s : State) : R State :=
  match s.sw.edge with
  | none => retry (s.modSw (fun w => { w with edge := some s.hb })) 12
  | some e => if s.hb == e then retry s 12 else .ok s

/-- `fence.sc` (R234): phase 1 drains, phase 2 waits for the edge. -/
def execFenceSc (x : Ext) (s : State) : Out :=
  issue 0x181 x.len x false (fun s =>
    if s.dry x then .ok s
    else do
      let s ← if s.sw.phase = 2 then .ok s else s.releaseWait 12
      let s ← (s.modSw (fun w => { w with phase := 2 })).edgeWait
      .ok s.acquireClear) s

/-- `tick` and `tick.next` (R245): one value for every lane of the issue; only a false q predicate makes no wait (R242). -/
def execTick (x : Ext) (s : State) : Out :=
  issue 0x182 x.len x false (fun s => do
    let ls ← s.ready x [] [x.dst] true
    let s ← if x.modN = 1 && (!x.g || !ls.isEmpty) then s.edgeWait else .ok s
    let p ← s.takeUp x ls [] [x.dst] true
    .ok (p.lanes.foldl (fun t l => t.write x.dst l x.cntN .n64 s.hb) p.post)) s

/-- The native forms installed for the code that holds an address, its code object, are withdrawn (R58, R247). -/
def State.dropNative (s : State) (ten : Nat) (pc : Word) : State :=
  let span : Nat × Nat := match s.codeAt ten pc with
    | some c => (c.base.toNat, c.base.toNat + 4 * c.words - 1)
    | none => (pc.toNat, pc.toNat)
  let meets (r : Word × Word) : Bool := decide (r.1.toNat ≤ span.2) && decide (span.1 ≤ r.2.toNat)
  if (s.tenOf ten).native.any meets then s.withdrawNative ten meets else s

/-- `isync` (R247): the effect of `fence.acq`, and the instruction cache with its start map emptied. -/
def execIsync (x : Ext) (s : State) : Out :=
  issue 0x183 x.len x false (fun s =>
    if s.dry x then .ok s
    else do
      let s ← fenceEffect 0 s
      let s := (s.dropNative s.ten s.sw.pc).modCore s.cur.core (fun c => { c with icache := {} })
      .ok (s.modSw (fun w => { w with native := false }))) s

end Sys2Proof.Machine
end

