-- ==== Sys2Proof/Machine/Atomic.lean ====
section
/-! DEFINITION. The atomics `atom`, `red` and `cas` (R249 to R255), and the transaction forms `txbegin`, `txend`,
`txabort`, `txstat` with what commits a lane (R256 to R264). -/

namespace Sys2Proof.Machine

/-- One step of a request on the running value `m` (R254, R255): the new value, its flags, and for `cas`
whether the lane succeeds. -/
def atomStep (x : Ext) (cas : Bool) (m y z : Word) : Word × Fp.Flags × Bool :=
  if cas then (if m = y then (z, 0, true) else (m, 0, false))
  else
    let of (op : Nat) : Word × Fp.Flags × Bool :=
      let r := Alu.combine op x.fmt x.rnd m y
      (r.1, r.2, true)
    match x.immF 0 3 with
    | 0 => of 0
    | 1 => of 6
    | 2 => of 1
    | 3 => of 2
    | 4 => of 3
    | 5 => of 4
    | 6 => of 5
    | _ => (y, 0, true)

/-- A signed byte offset in IMM22[21:8] (R253). -/
def atomOff (x : Ext) : Word := (x.imm.extractLsb' 8 14).signExtend 64

/-- The access is a revocable transactional one. -/
def State.revocable (s : State) (x : Ext) (q : Ask) (a : Acc) : Bool :=
  s.isTx x q a.lane a.va && !(s.txAt a.lane).irr

/-- The word at an access as its lane sees it: value, poison, and the state. -/
def atomRead (x : Ext) (q : Ask) (s : State) (a : Acc) : Word × Bool × State :=
  match a.place with
  | none => (0, false, s)
  | some (.scr c off) =>
    let r := s.scrRead c off q.size
    (BitVec.ofNat 64 r.1, r.2.1, r.2.2)
  | some (.glob _) =>
    let core := s.cur.core
    let za := BitVec.ofNat 64 a.za
    if s.revocable x q a then
      let s := (s.l1Parity core a.pa).txTouch a.lane a.pa za q.size a.acc true true
      if (s.txAt a.lane).doom then (0, false, s)
      else (BitVec.ofNat 64 (ofLE (s.txBytes a.lane a.pa za q.size)), false, s.l1Refresh core a.pa)
    else
      let s := if s.isTx x q a.lane a.va then s.txConflicts a.lane (a.pa / 8 * 8) true else s.plainAccess a.pa
      let s := ((s.l2Fill a.pa s.ten).l2Correct (a.pa / 8 * 8)).stgCorrect s.bolt.launch s.bolt.stage a.pa a.za
      let r := s.myLoad a.pa za q.size
      (BitVec.ofNat 64 (ofLE r.1), r.2, s.l1Refresh core a.pa)

/-- The store of a request at an access (R249), but for its count (R214); a word that was read uncorrectable stays so. -/
def atomWrite (x : Ext) (q : Ask) (s : State) (a : Acc) (v : Word) (bad : Bool) : State :=
  let bytes := (toLE v.toNat 8).take q.size
  match a.place with
  | none => s
  | some (.scr c off) => s.scrWrite c off bytes
  | some (.glob _) =>
    if s.revocable x q a then s.txStore a.lane a.pa bytes
    else match s.bolt.stage with
      | some cb => s.stagePut s.bolt.launch cb a.za a.pa bytes s.cur.core s.cur.core
      | none =>
        let w := a.pa / 8 * 8
        let e := s.ecc.getD w 0
        let t := s.writeL2 a.pa bytes s.cur.core s.ten
        if bad then { t with ecc := t.ecc.set w e } else t

/-- The old value of a lane comes to its destination: at once from a bank and for a lane that runs dry, later
from the L2 (R265). -/
def atomDeliver (x : Ext) (s : State) (a : Acc) (dry : Bool) (v : Word) (fl : Fp.Flags) (bad : Bool) : State :=
  match a.place with
  | some (.glob _) =>
    if dry then s.write x.dst a.lane x.cntN x.fmt 0
    else s.owe x.dst a.lane x.cntN x.fmt (if x.g then none else some a.lane) true false (.value v x.fmt fl bad)
  | _ => (s.write x.dst a.lane x.cntN x.fmt v bad).orFlags fl

/-- What a lane's request is known by (R250): its effective address, with the place it names, since lanes at one address of
the stack window have words of their own (R201). -/
def Acc.word (a : Acc) : Word × Option Place := (a.va, a.place)

/-- The requests so far: the state, the words whose request has stopped, the lanes left unfinished, the lanes
whose comparison succeeded and failed. -/
structure AtomRun where
  s    : State
  stop : List (Word × Option Place) := []
  /-- Revocable lanes that come after the lane that has stopped their request. -/
  late : List Nat := []
  unf  : List Unf := []
  ok   : List Nat := []
  fail : List Nat := []
  deriving DecidableEq, Repr

/-- A conditional lane of a `cas` (R252): its page has RD without W. -/
def atomCond (s : State) (cas : Bool) (a : Acc) : Bool :=
  cas && (match a.place with
    | some (.glob va) => (match s.translate s.cur.core s.ten va.toNat .w { s.sw with bad := [] } with
      | .bad 0x09 _ => true
      | _ => false)
    | _ => false)

/-- One lane of its group's request (R250, R252). A lane that runs dry raises no fault (R258), and a revocable one that would
take 0x09 is doomed instead, and delivers zero (R259, cause 8). -/
def atomLane (opc : Nat) (x : Ext) (q : Ask) (p : Prep) (r : AtomRun) (a : Acc) : AtomRun :=
  let cas := opc == 0x191
  let give (s : State) (dry : Bool) (v : Word) (fl : Fp.Flags) (bad : Bool) : State :=
    if opc == 0x192 then (if dry then s else s.orFlags fl) else atomDeliver x s a dry v fl bad
  let no (s : State) : AtomRun :=
    if s.revocable x q a then
      { r with s := give (s.setTx a.lane ((s.txAt a.lane).doomBy 8)) true 0 0 false, fail := r.fail ++ [a.lane] }
    else { r with stop := if r.stop.contains a.word then r.stop else r.stop ++ [a.word]
                  unf := r.unf ++ [(a.lane, 0x09, reportVa a a.ga)] }
  if r.stop.contains a.word && !r.s.isDry x q a then
    let t := no r.s
    { t with late := if r.s.revocable x q a then r.late ++ [a.lane] else r.late }
  else
    let m := atomRead x q r.s a
    let st := atomStep x cas m.1 (p.opnd 2 a.lane).val (p.opnd 3 a.lane).val
    let dry := m.2.2.isDry x q a
    if cas && st.2.2 && !dry && atomCond r.s cas a then
      (if m.2.2.revocable x q a then no m.2.2 else no r.s)
    else
      let t := if st.2.2 && !dry then atomWrite x q m.2.2 a st.1 m.2.1 else m.2.2
      { r with s := give t dry m.1 st.2.1 m.2.1
               ok := if st.2.2 then r.ok ++ [a.lane] else r.ok
               fail := if st.2.2 then r.fail else r.fail ++ [a.lane] }

/-- The groups of an instruction's accesses, by address: each makes one request (R250). -/
def atomGroups (as : List Acc) : List (List Acc) := ((as.map (·.word)).eraseDups).map (fun v => as.filter (fun a => a.word == v))

/-- The request of a group: its lanes in ascending order, and one store at the L2 where a lane has written (R214, R249). -/
def atomGroup (opc : Nat) (x : Ext) (q : Ask) (p : Prep) (r : AtomRun) (as : List Acc) : AtomRun :=
  let t := as.foldl (atomLane opc x q p) r
  let stores (a : Acc) : Bool := t.ok.contains a.lane && !r.s.revocable x q a && (match a.place with
    | some (.glob _) => true
    | _ => false)
  match as.find? stores with
  | some a => { t with s := t.s.bump a.pa a.acc }
  | none => t

/-- The wait for the values of an instruction's own requests, the acquire of its order, and the park of its
unfinished lanes (R251, R252). -/
def atomEnd (s : State) : R State :=
  let acq := s.sw.phase % 2 == 1
  let cause := s.sw.phase / 16
  if s.loadsDue (if acq then 0 else (s.sw.edge.getD 0).toNat) then retry s (if cause = 0 then 12 else 8)
  else
    let s := if acq then s.acquireClear else s
    if cause = 0 then .ok s else .error (.partial_ cause s.sw.hold s.sw.ctx s)

/-- Lines that a lane's access must wait for, or an earlier load of the word not yet taken (R227, R238). -/
def atomBusy (x : Ext) (q : Ask) (s : State) (a : Acc) : Bool :=
  match a.place with
  | some (.glob _) =>
    (!s.revocable x q a && s.lineBusy a.pa (some s.cur.core)) || s.earlierLoad s.cur.core s.serial a.pa
  | _ => false

/-- The translations of the lanes (R252): RD and W for `atom`, W for `red`, RD for `cas`. -/
def atomTrans (opc : Nat) (x : Ext) (q : Ask) (s : State) (as : List Acc) : R (State × List Acc × List Unf) :=
  match opc with
  | 0x190 => do
    let r ← transPhase s x { q with perm := .r } as s
    let t ← transPhase s x { q with perm := .w } (r.2.1.filter (fun a => !r.2.2.any (fun u => u.1 == a.lane))) r.1
    .ok (t.1, t.2.1, r.2.2 ++ t.2.2)
  | 0x191 => transPhase s x { q with perm := .r } as s
  | _ => transPhase s x { q with perm := .w } as s

/-- The lines of the irrevocable lanes among some accesses are held. -/
def holdLines (x : Ext) (q : Ask) (as : List Acc) (s : State) : State :=
  as.foldl (fun s a => match a.place with
    | some (.glob _) => if s.isTx x q a.lane a.va && (s.txAt a.lane).irr then s.holdLine a.lane a.pa else s
    | _ => s) s

/-- `ok=kP` of a `cas`: each finished lane's outcome (R255). -/
def atomOk (x : Ext) (fin : List Nat) (r : AtomRun) (s : State) : State :=
  let k := x.immF 3 3
  if fin.isEmpty then s
  else if x.g then s.setQ k (!r.ok.isEmpty)
  else s.setK k (maskOf fin) (maskOf r.ok)

/-- `atom`, `red` and `cas` (R250 to R255). Phase 1 waits for the release of its order, phases 4 and 5 for its values,
with 16 times the cause of lanes left unfinished. -/
def atomBody (opc : Nat) (x : Ext) (s : State) : R State := do
  if 4 ≤ s.sw.phase % 16 then atomEnd s
  else
    let srcs := srcsOf opc x
    let dsts := if opc == 0x192 then [] else [x.dst]
    let q : Ask := { size := if x.fmt.is64 then 8 else 4, perm := .r, kind := some .at_, tx := true }
    let ls ← s.ready x srcs dsts x.fmt.is64
    let base := srcs.headD { pos := 1 }
    let ad ← addrPhase s x q (accsOf ls (fun l => (s.opnd base l).val) (atomOff x) q)
    let s1 ← if x.mod.getLsbD 1 then ad.1.releaseWait 12 else .ok ad.1
    let r ← atomTrans opc x q s1 ad.2
    let as := finished r.1 x q r.2.1 r.2.2
    let past := irrOver r.1 x q as
    if !past.isEmpty then trap 0x2A 4 (maskOf past)
    if as.any (atomBusy x q r.1) then retry s1 2
    let ws := (as.filter (fun a => a.place.isSome && !r.1.revocable x q a)).map (fun a => a.pa / 8 * 8)
    match r.1.drainWords s.cur.core ws 65536 with
    | none => retry s1 2
    | some t =>
      let fin0 := ls.filter (fun l => !r.2.2.any (fun u => u.1 == l))
      let try_ := (atomGroups as).foldl (atomGroup opc x q { pre := t, post := t, lanes := fin0, srcs := srcs }) { s := t }
      let unf := r.2.2 ++ try_.unf
      let fin := fin0.filter (fun l => !try_.unf.any (fun u => u.1 == l))
      let p ← t.takeUp x fin srcs dsts x.fmt.is64
      let as := as.filter (fun a => fin.contains a.lane)
      let from_ := p.post.serial
      let doomed := try_.late.foldl (fun s l => s.setTx l ((s.txAt l).doomBy 8)) p.post
      let run := (atomGroups as).foldl (atomGroup opc x q p) { s := holdLines x q as doomed }
      let acq := if opc == 0x191 then (!run.ok.isEmpty && x.mod.getLsbD 0) || (!run.fail.isEmpty && x.imm.getLsbD 6)
        else x.mod.getLsbD 0
      let t := rewriteA x as fin p.post run.s
      let t := if opc == 0x191 then atomOk x fin run t else t
      let c := unf.foldl (fun m u => min m u.2.1) 0xFF
      let lo := unf.foldl (fun m u => if u.1 < m.1 then (u.1, u.2.2) else m) (1024, (0 : Word))
      if unf.isEmpty then
        if acq then atomEnd (t.modSw (fun w => { w with phase := 5, ctx := maskOf fin })) else .ok t
      else
        let t := if fin.isEmpty then t else t.charge s.ten 0 (if x.g then 1 else fin.length)
        atomEnd (t.modSw (fun w => { w with
          phase := 4 + (if acq then 1 else 0) + 16 * c, hold := lo.2, ctx := s.failMask x (unf.map (·.1))
          edge := some (BitVec.ofNat 64 from_) }))

/-- `atom` (R254). -/
def execAtom (x : Ext) (s : State) : Out := issue 0x190 x.len x false (atomBody 0x190 x) s
/-- `cas` (R255). -/
def execCas (x : Ext) (s : State) : Out := issue 0x191 x.len x false (atomBody 0x191 x) s
/-- `red` (R254). -/
def execRed (x : Ext) (s : State) : Out := issue 0x192 x.len x false (atomBody 0x192 x) s

/-! ### Transactions -/

/-- A `txbegin` at `pc` is a retry that must run irrevocably (R261): a lane that was due and has begun a normal attempt
stays so, whatever ended that. -/
def Tx.due (t : Tx) (pc : Word) : Bool := t.pc == some pc && (t.waits || decide (8 ≤ t.att) || (t.cause == 3 && t.att != 0))

/-- The age a lane's next attempt would carry (R261). -/
def Tx.nextAge (t : Tx) (pc hb : Word) : Word := if t.pc == some pc then t.age else hb

/-- The oldest of the lanes that are due at a `txbegin`: the lane. -/
def State.dueLane (s : State) (ls : List Nat) : Option Nat :=
  let key (l : Nat) : List Nat :=
    txAge s.cur.core s.bolt.shuttle s.cur.slot l (s.txAt l)
  (ls.filter (fun l => (s.txAt l).due s.sw.pc)).foldl (fun (m : Option Nat) l => match m with
    | none => some l
    | some k => if olderThan (key l) (key k) then some l else m) none

/-- A lane's transaction starts. -/
def Tx.start (t : Tx) (pc hb : Word) (irr : Bool) : Tx :=
  { act := true, irr := irr, cause := t.cause, code := t.code, att := if t.pc == some pc then t.att else 0
    waits := t.due pc && !irr, age := t.nextAge pc hb, pc := some pc }

/-- `txbegin` (R264): phase 3 asks for the token with its lane in `hold`. -/
def execTxbegin (x : Ext) (s : State) : Out :=
  issue 0x193 x.len x false (fun s => do
    let ls := s.actLanes x
    if ls.any (fun l => (s.txAt l).act) then trap 0x12 0 (maskOf (ls.filter (fun l => (s.txAt l).act)))
    match ls with
    | [] => .ok s
    | _ => do
      let due := s.dueLane ls
      match due with
      | some l =>
        if s.token != some (s.cur.core, s.cur.slot, l) then
          retry (s.modSw (fun w => { w with phase := 3, hold := BitVec.ofNat 64 l })) 13
      | none => .ok ()
      .ok (ls.foldl (fun t l => t.setTx l ((t.txAt l).start s.sw.pc s.hb (due == some l))) s.acquireClear)) s

/-- The swatch that waits for the token at a `txbegin`, and its key of age. -/
def tokenWaiter (core slot : Nat) (b : Bolt) (w : Swatch) : Option (List Nat × Nat) :=
  if w.st == .retry 13 && w.phase == 3 then
    let l := w.hold.toNat
    some (txAge core b.shuttle slot l (b.tx.getD l {}), l)
  else none

/-- Who waits for the token: the key of age, core, slot, lane. -/
def State.tokenWaiters (s : State) : List (List Nat × Nat × Nat × Nat) :=
  s.cores.ents.flatMap (fun c => c.2.bolts.ents.flatMap (fun b => b.2.sw.vals.filterMap (fun w =>
    (tokenWaiter c.1 b.1 b.2 w).map (fun r => (r.1, c.1, b.1, r.2)))))

/-- IRREVOCABILITY_TOKEN_GRANT (R261): oldest first. -/
def execIrrevocabilityTokenGrant (s : State) : Out :=
  match s.token, s.tokenWaiters with
  | none, r :: rs =>
    let o := rs.foldl (fun m r => if olderThan r.1 m.1 then r else m) r
    .next { s with token := some o.2 }
  | _, _ => .next s

/-- The swatch of a bolt that holds a lane. -/
def Bolt.swatchOf (b : Bolt) (l : Nat) : Option (Nat × Swatch) := b.sw.ents.find? (fun e => e.2.mask.getLsbD l)

/-- The lines of both sets of a transaction, in ascending order. -/
def Tx.setLines (t : Tx) : List Nat :=
  sortBy (fun a b => decide (a ≤ b)) ((t.rd.map Prod.fst ++ t.wrw).map lineOf).eraseDups

/-- The commit that has locked a line: its age, core, slot and lane. -/
def State.locker (s : State) (line : Nat) : Option (List Nat × Nat × Nat × Nat) :=
  s.cores.ents.findSome? (fun c => c.2.bolts.ents.findSome? (fun b =>
    (b.2.tx.ents.find? (fun t => t.2.locks && t.2.lines.contains line)).map (fun t =>
      (txAge c.1 b.2.shuttle b.1 t.1 t.2, c.1, b.1, t.1))))

def State.txOf (s : State) (core slot l : Nat) : Tx := (s.boltAt core slot).tx.getD l {}
def State.putTx (s : State) (core slot l : Nat) (t : Tx) : State :=
  s.modBoltAt core slot (fun b => { b with tx := b.tx.set l t })

/-- Step 3 of R260 for one line: its lock, the wait for a holder that is older or writes, or the abort of a younger
one with cause 10. -/
def lockLine (s : State) (core slot l line : Nat) : State :=
  let b := s.boltAt core slot
  let t := s.txOf core slot l
  if s.holds.any (fun h => h.1 == line) || (s.txLines (fun _ _ _ u => u.holds)).contains line then s
  else match s.locker line with
    | none => s.putTx core slot l { t with lines := t.lines ++ [line] }
    | some (age, c, k, m) =>
      let h := s.txOf c k m
      if h.begun || olderThan age (txAge core b.shuttle slot l t) then s
      else (s.putTx c k m (h.fails 10)).putTx core slot l { t with lines := t.lines ++ [line] }

/-- Step 5 of R260: the write set is written, with the core as owner. -/
def writeSet (s : State) (core slot l : Nat) : State :=
  let b := s.boltAt core slot
  let t := s.txOf core slot l
  let s := s.putTx core slot l { t with dec := 2, rd := [], wrw := [], wr := {}, vas := {}, lines := [] }
  let s := t.wrw.foldl (fun s w => s.bump w ((t.vas.getD w (0, false)).2)) s
  (wordWrites t.wr).foldl (fun s e => match b.stage with
    | some cb =>
      let va := ((t.vas.getD (e.1 / 8 * 8) (0, false)).1).toNat
      s.stagePut b.launch cb (va + e.1 % 8) e.1 e.2 core core
    | none => s.writeL2 e.1 e.2 core b.ten) s

/-- Steps 2 to 5 of R260 for one lane, each an event: the next line is locked; with every line locked each read word is
compared, and one difference aborts the lane with cause 6; then the write set is performed. -/
def commitLane (s : State) (core slot l : Nat) : State :=
  let b := s.boltAt core slot
  let t := s.txOf core slot l
  let now (w : Nat) : Word :=
    BitVec.ofNat 64 (ofLE (s.l2Load core s.serial b.launch b.stage w (((t.vas.get? w).map Prod.fst).getD 0) 8).1)
  if t.doom then s.putTx core slot l (t.fails t.cause)
  else match t.setLines.find? (fun n => !t.lines.contains n) with
    | some line => lockLine s core slot l line
    | none =>
      if t.begun then writeSet s core slot l
      else if t.rd.any (fun r => now r.1 != r.2) then s.putTx core slot l (t.fails 6)
      else s.putTx core slot l { t with begun := true }

/-- TX_COMMIT (R260): a lane whose `txend` waits is decided. -/
def execTxCommit (core slot lane : Nat) (s : State) : Out :=
  let b := s.boltAt core slot
  .next (if (b.tx.getD lane {}).dec = 1 then commitLane s core slot lane else s)

/-- A lane's transaction ends (R261, R264): a commit clears age and ATT. -/
def Tx.finish (t : Tx) : Tx :=
  if t.dec = 2 then { cause := t.cause, code := t.code }
  else { cause := t.cause, code := t.code, att := min 15 (t.att + 1), waits := t.waits, age := t.age, pc := t.pc }

/-- `txend` (R260, R264): phase 1 drains, phase 10 waits until every lane is decided. -/
def execTxend (x : Ext) (s : State) : Out :=
  issue 0x194 x.len x false (fun s => do
    let ls := s.actLanes x
    let out := ls.filter (fun l => !(s.txAt l).act)
    if !out.isEmpty then trap 0x2A 1 (maskOf out)
    match ls with
    | [] => .ok s
    | _ => do
      let s ← if s.sw.phase = 10 then .ok s else do
        let s ← s.releaseWait 13
        let dec (t : Tx) : Tx := { t with dec := if t.doom then 3 else if t.irr then 2 else 1 }
        .ok ((ls.foldl (fun s l => s.setTx l (dec (s.txAt l))) s).modSw (fun w => { w with phase := 10 }))
      let s := ls.foldl (fun s l =>
        let t := s.txAt l
        if t.dec = 1 && t.doom then s.setTx l (t.fails t.cause) else s) s
      if ls.any (fun l => (s.txAt l).dec = 1) then retry s 13
      let won := ls.filter (fun l => (s.txAt l).dec = 2)
      let s := if ls.any (fun l => s.token == some (s.cur.core, s.cur.slot, l)) then { s with token := none } else s
      let s := ls.foldl (fun s l => s.setTx l (s.txAt l).finish) s.acquireClear
      .ok (s.setK (x.immF 0 3) (maskOf ls) (maskOf won))) s

/-- The code of `txabort`. -/
def abortCode (x : Ext) : Nat := x.immF 0 8

/-- `txabort` (R264). -/
def execTxabort (x : Ext) (s : State) : Out :=
  issue 0x195 x.len x false (fun s => do
    let ls := s.actLanes x
    let out := ls.filter (fun l => !(s.txAt l).act || (s.txAt l).irr)
    if !out.isEmpty then trap 0x2A 2 (maskOf out)
    let f (t : Tx) : Tx := { t.doomBy 4 with code := abortCode x }
    .ok (ls.foldl (fun s l => s.setTx l (f (s.txAt l))) s)) s

/-- The next attempt of a lane would be irrevocable (R261): of a running one, if this attempt aborts. -/
def Tx.nextIrr (t : Tx) : Bool :=
  if t.act then t.waits || decide (8 ≤ t.att + 1) || (t.cause == 3 && t.doom) else t.due (t.pc.getD 0)

/-- The word of `txstat` (R263). -/
def Tx.word (t : Tx) : Word :=
  BitVec.ofNat 64 (t.code % 256 * 2 ^ 24 + min 15 t.att * 2 ^ 16 + t.cause % 16 * 2 ^ 8
    + (if t.irr || t.nextIrr then 4 else 0) + (if t.doom then 2 else 0) + (if t.act then 1 else 0))

/-- `txstat` (R263). -/
def execTxstat (x : Ext) (s : State) : Out :=
  issue 0x196 x.len x false (fun s => do
    let p ← s.prep x [] [x.dst] false
    .ok (p.lanes.foldl (fun t l => t.write x.dst l x.cntN .n32 (p.pre.txAt l).word) p.post)) s

end Sys2Proof.Machine
end

