-- ==== Sys2Proof/Machine/Delivery.lean ====
section
/-! DEFINITION. Deliveries (R70, R71, R381, R393), the performing of stores (R226), page walks (R208, R327),
and the events that bring them about. -/

namespace Sys2Proof.Machine

/-! ### Deliveries -/

/-- Two errors in one 32-bit word of a register row (R419). -/
def rowBad (e : Word) : Bool := decide (2 ≤ ones (e.extractLsb' 0 32 |>.setWidth 64)) || decide (2 ≤ ones (e.extractLsb' 32 32 |>.setWidth 64))

/-- A lane takes what is delivered: an EMPTY one becomes FULL, a discarding one EXHAUSTED (R70, R71); flips that
`errinj` left are applied (R393). -/
def Cell.fill (c : Cell) (v : Word) (tag : Tag) (poison : Bool) : Cell :=
  if c.st == .empty then
    { c with st := .full, val := v ^^^ c.flip, tag := tag, poison := poison || rowBad c.ecc || decide (2 ≤ ones c.tecc), pend := 0, flip := 0 }
  else {}

/-- A delivery arrives, with the flags its producer records. -/
def State.deliver (s : State) (id : Nat) (v : Word) (tag : Tag) (fl : BitVec 5) (poison : Bool) : State :=
  match s.dlv.find? (fun d => d.id == id) with
  | none => s
  | some d =>
    let s := { s with dlv := s.dlv.filter (fun e => e.id != id) }
    let b := s.boltAt d.core d.slot
    let c := b.regs.getD d.key {}
    let b := if c.pend = id ∧ c.st ≠ .full then b.setCell d.key (c.fill v tag poison) else b
    s.setBoltAt d.core d.slot (if fl = 0 then b else b.record d.id fl)

/-- A load's delivery may take its value: its line is free (R238), and no earlier load of the core to the word
is outstanding (R227). -/
def State.canTakeLoad (s : State) (d : Delivery) (pa : Nat) : Bool :=
  !d.again && !s.lineBusy pa (some d.core) && !s.earlierLoad d.core d.id pa

/-- A load takes its value: in its core's L1, where an access to the line has brought its word meanwhile, or at the L2,
with its line coming into the L1 (R205, R216, R226). -/
def State.takeLoad (s : State) (d : Delivery) (pa : Nat) (va : Word) (size : Nat) (acc : Bool) : List Byte × Bool × State :=
  let b := s.boltAt d.core d.slot
  let s := (s.plainAccess pa).l1Parity d.core pa
  match s.l1Load d.core d.id b.launch b.stage pa va size with
  | some bs => (bs, false, s)
  | none =>
    let t := (s.l1Fill d.core pa b.ten acc).stgCorrect b.launch b.stage pa va.toNat
    let r := t.l2Load d.core d.id b.launch b.stage pa va size
    (r.1, r.2, t)

/-- The last delivery of a load's pass that missed is a sample (R442). -/
def State.endPass (s : State) (d : Delivery) : State :=
  if d.pass = 0 ∨ s.dlv.any (fun e => e.core == d.core && e.pass == d.pass) then s
  else s.densCore 1 d.core (s.boltAt d.core d.slot).ten

/-- VALUE_DELIVERY: a value in hand arrives, or a load takes its value (R70, R216, R226). -/
def execValueDelivery (id : Nat) (s : State) : Out :=
  match s.dlv.find? (fun d => d.id == id) with
  | none => .next s
  | some d =>
    match d.bring with
    | .value v tag fl poison => .next ((s.deliver id v tag fl poison).endPass d)
    | .load pa va size tag _ acc =>
      if s.canTakeLoad d pa then
        let r := s.takeLoad d pa va size acc
        .next ((r.2.2.deliver id (extendLoad r.1 tag) tag 0 r.2.1).endPass d)
      else .next s
    | .await _ => .next s

/-- A delivery that can arrive now: the earliest. -/
def State.readyDelivery (s : State) : Option Nat :=
  (s.dlv.find? (fun d => match d.bring with
    | .value _ _ _ _ => true
    | .load pa _ _ _ _ _ => s.canTakeLoad d pa
    | .await _ => false)).map (·.id)

/-! ### Stores -/

/-- STORE_PERFORMED: the first store of a core that may be is performed (R226, R227). -/
def execStorePerformed (core : Nat) (s : State) : Out := .next ((s.performNext core).getD s)

/-- WRITEBACK_ACK: HBM acknowledges the oldest line written back by a core (R220). -/
def execWritebackAck (core : Nat) (s : State) : Out :=
  .next (if (s.core core).acks.isEmpty then s else s.modCore core (fun c => { c with acks := c.acks.drop 1 }))

/-- CINV_ALL_COMPLETE: the L1 has been cleared (R219), and the swatch goes on. -/
def execCinvAllComplete (core slot ent : Nat) (s : State) : Out :=
  let w := (s.boltAt core slot).sw.getD ent {}
  .next (if w.st == .retry 12 && w.phase == 6 then
      (s.modCore core (fun c => { c with l1 := {} })).modBoltAt core slot (fun b => { b with sw := b.sw.set ent { w with phase := 7 } })
    else s)

/-! ### Translation -/

/-- PAGE_WALK_COMPLETE: the entry comes from the cluster's TLB or from a walk and goes into both TLBs, or the page is
noted as missing for the instruction, which is taken again (R207, R208, R210, R327). -/
def execPageWalkComplete (core slot ent : Nat) (s : State) : Out :=
  let b := s.boltAt core slot
  let w := b.sw.getD ent {}
  match w.st with
  | .walk va =>
    let put (v : Swatch) (s : State) : State := s.modBoltAt core slot (fun b => { b with sw := b.sw.set ent v })
    let brought (e : TlbEnt) (s : State) : Out :=
      .next (put { w with st := .ready, walked := e :: w.walked } (s.tlbPut core e))
    match s.ctlbGet (core / 8) b.ten va.toNat with
    | some e => brought e s
    | none =>
      let t := s.walkFill b.ten va.toNat
      match t.fill b.ten va.toNat with
      | some e => brought e t
      | none => .next (put { w with st := .ready, bad := w.bad ++ [(va.toNat / 65536, 8)] } t)
  | _ => .next s

/-- A core without the translations that match: those of its TLB, and those its swatches' instructions keep. -/
def Core.dropTlb (c : Core) (hit : TlbEnt → Bool) : Core :=
  let drop (w : Swatch) : Swatch := { w with walked := w.walked.filter (fun e => !hit e) }
  { c with tlb := c.tlb.filter (fun e => !hit e)
           bolts := ⟨c.bolts.ents.map (fun b => (b.1, { b.2 with sw := ⟨b.2.sw.ents.map (fun e => (e.1, drop e.2))⟩ }))⟩ }

/-- Every translation that matches is dropped from every TLB. -/
def State.dropTlb (s : State) (hit : TlbEnt → Bool) : State :=
  { s.mapCores (fun c => c.dropTlb hit) with ctlb := ⟨s.ctlb.ents.map (fun e => (e.1, e.2.filter (fun e => !hit e)))⟩ }

/-- A write of `TR.INV`, for a tenancy or for every one, drops the entries that match from every TLB, or waits for the one
under way (R212). -/
def State.invalidate (s : State) (write : Instr) (ten : Option Nat) (hit : TlbEnt → Bool) : State :=
  if s.trBusy then { s with trPend := s.trPend ++ [write] }
  else
    let t := { s.dropTlb hit with trBusy := true }
    match ten with
    | some n => t.spend n
    | none => t

/-- TR_INV_VPN: every translation of a page of a tenancy is dropped (R212). -/
def execTrInvVpn (ten : BitVec 4) (vpn : BitVec 40) (s : State) : Out :=
  let va := vpn.toNat * 65536
  .next (s.invalidate (.trInvVpn ten vpn) (some ten.toNat)
    (fun e => e.ten == ten.toNat && decide (e.base ≤ va) && decide (va < e.base + 2 ^ e.leaf.log)))

/-- TR_INV_TENANCY: every translation of a tenancy is dropped (R212). -/
def execTrInvTenancy (ten : BitVec 4) (s : State) : Out :=
  .next (s.invalidate (.trInvTenancy ten) (some ten.toNat) (fun e => e.ten == ten.toNat))

/-- TR_INV_ALL: every translation is dropped (R212). -/
def execTrInvAll (s : State) : Out := .next (s.invalidate .trInvAll none (fun _ => true))

/-- An access that a dropped entry may have translated is under way: a store or load not performed, or a running
transaction with words in its sets, whose commit is to come (R212). -/
def State.oldAccess (s : State) : Bool :=
  s.cores.vals.any (fun c => !c.stq.isEmpty
      || c.bolts.vals.any (fun b => b.tx.vals.any (fun t => t.act && !t.doom && (!t.rd.isEmpty || !t.wrw.isEmpty))))
    || s.dlv.any (fun d => match d.bring with
      | .load _ _ _ _ _ _ => true
      | _ => false)

/-- TR_INV_COMPLETE: every access that used a dropped entry has been performed, and BUSY clears; a write that
waited comes next (R212). -/
def execTrInvComplete (s : State) : Out :=
  .next (if s.trBusy && !s.oldAccess then
      { s with trBusy := false, trPend := s.trPend.drop 1, agenda := s.trPend.take 1 ++ s.agenda }
    else s)

/-- ACCESS_EVENT: an event of a 2 MiB region that is due is posted (R214). -/
def execAccessEvent (region : Nat) (s : State) : Out :=
  .next (match s.accDue.getD region 0 with
    | 0 => s
    | n + 1 => ({ s with accDue := if n = 0 then s.accDue.erase region else s.accDue.set region n }).post (.access region))

end Sys2Proof.Machine
end

