-- ==== Sys2Proof/Machine/Engine.lean ====
section
/-! DEFINITION. What the engines share: their holds on lines (R238), their reads and writes of memory (R239),
and the reasons for which an access of an engine does not go on. -/

namespace Sys2Proof.Machine

/-- Why an access of an engine does not go on: a page is missing, the operation is cut off with a status of
R380, or a line must be waited for (R260, R261, R329). -/
inductive EngStop where
  | page (va : Word)
  | cut (status : Nat)
  | busy
  deriving DecidableEq, Repr

abbrev E (α : Type) := Except EngStop α

/-- For whom an engine works. -/
structure Who where
  core   : Nat
  ten    : Nat
  launch : Word
  stg    : Option Bool := none
  deriving DecidableEq, Repr

/-- The key of an operation among the holds: its engine (0 copy, 1 matrix, 3 the lines of a move's source, 4 of
its destination, 5 a collective), core or die, and serial number. -/
def opKey (engine core id : Nat) : Nat := (id * 256 + core) * 8 + engine

/-- The lines that `n` bytes from `pa` touch. -/
def linesOf (pa n : Nat) : List Nat :=
  if n = 0 then [] else (List.range ((pa + n - 1) / 128 - pa / 128 + 1)).map (fun i => 128 * (pa / 128 + i))

/-- The line has been taken by a move: accesses wait until its release (R329). -/
def State.taken (s : State) (pa : Nat) : Bool := s.holds.any (fun h => h.1 == lineOf pa && h.2 % 8 == 3)

/-- Every slice of some lines has a range entry for one operation more (R238). -/
def State.canHold (s : State) (key : Nat) (lines : List Nat) : Bool :=
  (lines.map homeSlice).eraseDups.all (fun sl =>
    decide (((s.holds.filter (fun h => homeSlice h.1 == sl && h.2 != key)).map Prod.snd).eraseDups.length < 64))

/-- The words of a line change their owner. -/
def State.ownLine (s : State) (owner line : Nat) : State :=
  (List.range 16).foldl (fun s i => s.moveOwner (line + 8 * i) owner) s

/-- An operation registers lines: every word gets owner 0xFF (R238). -/
def State.hold (s : State) (key : Nat) (lines : List Nat) : State :=
  let new := lines.eraseDups.filter (fun l => !s.holds.contains (l, key))
  new.foldl (fun s l => s.ownLine 0xFF l) { s with holds := s.holds ++ new.map (fun l => (l, key)) }

/-- An operation's holds end, but for the lines it keeps. -/
def State.unhold (s : State) (key : Nat) (keep : Nat → Bool) : State :=
  let gone := (s.holds.filter (fun h => h.2 == key && !keep h.1)).map Prod.fst
  let s := { s with holds := s.holds.filter (fun h => h.2 != key || keep h.1) }
  gone.foldl (fun s l => if s.holds.any (fun h => h.1 == l) then s else s.ownLine 0xFE l) s

/-- A stretch of global addresses cut at page boundaries: offset, address, bytes. -/
def pageSegs : Nat → Nat → Nat → Nat → List (Nat × Nat × Nat)
  | 0, _, _, _ => []
  | fuel + 1, off, va, n =>
    if n = 0 then []
    else
      let k := min n (65536 - va % 65536)
      (off, va, k) :: pageSegs fuel (off + k) (va + k) (n - k)

def segsOf (va n : Nat) : List (Nat × Nat × Nat) := pageSegs (n / 65536 + 2) 0 va n

/-- An engine's access to a line waits: a move has taken it (R329), an irrevocable transaction holds it (R261), or a
commit has locked it (R260). -/
def State.engWaits (s : State) (lines : List Nat) : Bool :=
  lines.any s.taken || lines.any (s.txLines (fun _ _ _ t => t.holds || t.locks)).contains

/-- The physical address of bytes of one page, and their address at the end of the tacks (R331: engines follow tacks). -/
def engPa (s : State) (w : Who) (p : Perm) (va n : Nat) : E (Nat × Nat) :=
  match s.translateNow w.ten va p with
  | .ok pa _ za _ => if s.engWaits (linesOf pa n) then .error .busy else .ok (pa, za)
  | .miss v => .error (.page (BitVec.ofNat 64 v))
  | .bad c v => .error (if c = 8 then .page (BitVec.ofNat 64 v) else if c = 9 then .cut 2 else .cut 7)

/-- Every byte of a word that a read of `n` bytes at `pa` takes has been staged at `za`. -/
def wordStaged (t : Tab Byte) (pa za n x : Nat) : Bool :=
  (List.range 8).all (fun j => let a := x + j; decide (a < pa) || decide (pa + n ≤ a) || t.has (za + a - pa))

/-- An engine's read of global memory: the L2's bytes, or its own copy's staged ones (R239, R412), with the lines that
come into the L2 for it; a transaction that holds a word of it is doomed (R259), and an uncorrectable word cuts it off
(R419). -/
def engRead (s : State) (w : Who) (va n : Nat) : E (List Byte × State) :=
  (segsOf va n).foldlM (fun r g => do
    let p ← engPa r.2 w .r g.2.1 g.2.2
    let ws := wordsOf p.1 g.2.2
    let t := ws.foldl (fun t x => (t.l2Fill x w.ten).l2Correct x)
      ((r.2.walkFill w.ten g.2.1).doomWords ws 1 (fun _ _ _ => false))
    let stg : Option (Tab Byte) := w.stg.map (fun cb => (t.launchOf w.launch).stg cb)
    let bad (x : Nat) : Bool :=
      (t.l2Bad x && !(match stg with | some m => wordStaged m p.1 p.2 g.2.2 x | none => false))
        || w.stg.any (fun cb => decide (2 ≤ ones ((t.launchOf w.launch).stgFlips cb (x - p.1 / 8 * 8 + p.2))))
    if ws.any bad then .error (.cut 5)
    let t := ws.foldl (fun t x => t.stgCorrect w.launch w.stg x (x - p.1 / 8 * 8 + p.2)) t
    let bs := t.mem.bytes p.1 g.2.2
    .ok (r.1 ++ (match stg with | some m => overlayStaged m p.2 bs | none => bs), t)) ([], s)

/-- A write of an engine to one page, at an address at the end of its tacks. -/
def engPut (s : State) (w : Who) (za pa : Nat) (bytes : List Byte) : State :=
  match w.stg with
  | some cb => s.stagePut w.launch cb za pa bytes w.core 0xFE
  | none => s.writeL2 pa bytes (if s.holds.any (fun h => h.1 == lineOf pa) then 0xFF else 0xFE) w.ten

/-- An engine's write of global memory. -/
def engWrite (s : State) (w : Who) (va : Nat) (bytes : List Byte) : E State :=
  (segsOf va bytes.length).foldlM (fun s g => do
    let p ← engPa s w .w g.2.1 g.2.2
    .ok (engPut s w p.2 p.1 ((bytes.drop g.1).take g.2.2))) s

/-- An engine's read of a scratchpad; an uncorrectable word cuts it off (R419). -/
def engScr (s : State) (core off n : Nat) : E (List Byte × State) :=
  let r := s.scrRead core off n
  if r.2.1 then .error (.cut 5) else .ok (toLE r.1 n, r.2.2)

/-- The lines of some stretches of a destination whose translation stands; a staged one has none. -/
def engLines (s : State) (w : Who) (gs : List (Nat × Nat)) : List Nat :=
  if w.stg.isSome then []
  else gs.flatMap (fun r => (segsOf r.1 r.2).flatMap (fun g => match s.translateNow w.ten g.2.1 .w with
    | .ok pa _ _ _ => linesOf pa g.2.2
    | _ => []))

/-- A stretch of addresses meets, at its own place or at the end of its tacks, the source of a move that has not
released its lines (R329). -/
def State.inMove (s : State) (ten va n : Nat) : Bool :=
  let moved (a : Nat) : Bool := match s.tileOf ten a with
    | none => false
    | some t => s.rel.any (fun r => !r.sweep && r.ten == ten && r.x == t)
  (segsOf va n).any (fun g => moved g.2.1 || (match s.translateNow ten g.2.1 .none with
    | .ok _ _ za _ => moved za
    | _ => false))

/-- An operation registers what it has still to write and does not hold yet (R30, R238): the lines of its start, and
those of a page that has come since. None while it must wait: for a move (R329), an irrevocable transaction or a commit
(R260, R261), or a slice's range entries. -/
def State.register (s : State) (key : Nat) (w : Who) (gs : List (Nat × Nat)) : Option State :=
  let new := (engLines s w gs).filter (fun l => !s.holds.contains (l, key))
  if new.isEmpty then some s
  else if gs.any (fun g => s.inMove w.ten g.1 g.2) || s.engWaits new || !s.canHold key new then none
  else some (s.hold key new)

/-- An engine that has consumed an uncorrectable error reports it to the node it works for (R381, R416, R417). -/
def State.engineStatus (s : State) (launch : Word) (status : Nat) : State :=
  if status = 5 then s.modLaunch launch (fun l => { l with engBad := true }) else s

/-- Stores that a core issued before a command are still pending (R237). -/
def State.storesDue (s : State) (core after : Nat) : Bool := (s.core core).stq.any (fun p => decide (p.id < after))

/-- The lanes for which a form of R262 has its effect: those that do not run dry (R258). -/
def State.liveLanes (s : State) (x : Ext) (ls : List Nat) : List Nat :=
  if x.g then (if s.dry x then [] else ls) else ls.filter (fun l => !((s.txAt l).act && (s.txAt l).doom))

/-- The scratchpad region of a core that holds an offset: its end. -/
def Core.regionEnd (c : Core) (off : Nat) : Option Nat :=
  (c.panels.vals.find? (fun p => p.scrOff ≤ off && off < p.scrOff + p.scrSize)).map (fun p => p.scrOff + p.scrSize)

/-- The place of an address that has passed its checks. -/
def State.placeOf (s : State) (lane : Nat) (va : Word) : Place :=
  match s.place lane va 1 with
  | .ok p => p
  | .error _ => .glob va

/-! ### Trays and regions in use (R281, R298, R307) -/

def dNC (d : Word) : Nat := d.toNat / 2 ^ 29 % 32
def dMR (d : Word) : Nat := d.toNat / 2 ^ 24 % 32
def dACC (d : Word) : Bool := d.getLsbD 23
def dSC (d : Word) : Bool := d.getLsbD 22
def dTS (d : Word) : Nat := d.toNat / 2 ^ 16 % 64
def dBfmt (d : Word) : Nat := d.toNat / 2 ^ 12 % 16
def dKS (d : Word) : Nat := d.toNat / 2 ^ 8 % 16
def dTB (d : Word) : Nat := d.toNat % 64

/-- The trays that an operation names on its own core, and on the follower. -/
def MxOp.trays (o : MxOp) : List Nat :=
  if o.kind = 2 then [] else [o.ta, dTB o.desc] ++ (if dSC o.desc then [dTS o.desc] else [])
def MxOp.farTrays (o : MxOp) : List Nat :=
  if o.pair then [o.ta] ++ (if dSC o.desc then [dTS o.desc] else []) else []

/-- The leader's operations that serve a follower's array (R300): none on a leader. -/
def State.slaving (s : State) (core : Nat) : List MxOp :=
  if core % 2 = 1 then (s.core (core - 1)).mxq.filter (·.pair) else []

/-- An unretired operation names a tray, or a region (R298). -/
def State.trayInUse (s : State) (core t : Nat) : Bool :=
  (s.core core).mxq.any (fun o => o.trays.contains t) || (s.slaving core).any (fun o => o.farTrays.contains t)
def State.regInUse (s : State) (core g : Nat) : Bool :=
  (s.core core).mxq.any (fun o => o.region == g) || (s.slaving core).any (fun o => o.region == g)

/-- A copy into a tray has not landed (R281). -/
def State.trayFilling (s : State) (core t : Nat) : Bool := (s.core core).copies.any (fun k => k.tray == some t)

def State.trayBusy (s : State) (core t : Nat) : Bool := s.trayInUse core t || s.trayFilling core t

end Sys2Proof.Machine
end

