-- ==== Sys2Proof/Machine/Copy.lean ====
section
/-! DEFINITION. The copy engine (R275 to R289): `tcopy`, `tmcast`, `kick`, and the engine's own steps. -/

namespace Sys2Proof.Machine

/-! ### Tensor layout records (R275, R276) -/

/-- A field of a layout record. -/
def layN (l : List Byte) (off n : Nat) : Nat := ofLE ((l.drop off).take n)

def layEsz (l : List Byte) : Nat := 2 ^ layN l 8 1
def layRank (l : List Byte) : Nat := layN l 9 1
def layDim (l : List Byte) (d : Nat) : Nat := layN l (16 + 4 * d) 4
def layStride (l : List Byte) (d : Nat) : Nat := layN l (24 + 8 * d) 8
def layBox (l : List Byte) (d : Nat) : Nat := layN l (56 + d) 1 + 1

/-- Bytes of a box. -/
def layBytes (l : List Byte) : Nat := layBox l 0 * layBox l 1 * layBox l 2 * layBox l 3 * layEsz l

/-- A record is malformed (R275); `n` the coordinates that the copy supplies, none for a request (R287). -/
def layBad (l : List Byte) (tray : Bool) (n : Option Nat) : Bool :=
  let r := layRank l
  decide (3 < layN l 8 1) || decide (r < 1) || decide (4 < r) || decide (1 < layN l 10 1)
    || layN l 11 5 != 0 || layN l 60 4 != 0
    || (List.range 4).any (fun d => if d < r then layDim l d == 0 else layDim l d != 0 || layBox l d != 1)
    || [1, 2, 3].any (fun d => if d < r then layStride l d % layEsz l != 0 else layStride l d != 0)
    || layN l 0 8 % layEsz l != 0 || decide (2 ^ 56 ≤ layN l 0 8)
    || decide (65536 < layBytes l) || (tray && decide (4096 < layBytes l))
    || (match n with | some k => k != r | none => false)

/-- A stretch of a dense box: its offset, its bytes, and the address of its first element; none out of bounds. -/
abbrev Piece := Nat × Nat × Option Nat

/-- The pieces of one row of a box, from element `e0` on for `n` elements. -/
def rowPieces (l : List Byte) (coord : List Int) (row e0 n : Nat) : List Piece :=
  let es := layEsz l
  let j (e : Nat) : Nat := (row * layBox l 0 + e) * es
  let x (d : Nat) : Int := coord.getD d 0 + (match d with
    | 1 => (row % layBox l 1 : Nat)
    | 2 => (row / layBox l 1 % layBox l 2 : Nat)
    | _ => (row / (layBox l 1 * layBox l 2) : Nat))
  let inside := [1, 2, 3].all (fun d => decide (layRank l ≤ d) || (decide (0 ≤ x d) && decide (x d < layDim l d)))
  let x0 := coord.getD 0 0
  let lo := max e0 (-x0).toNat
  let hi := min (e0 + n) ((layDim l 0 : Int) - x0).toNat
  if !inside || hi ≤ lo then [(j e0, n * es, none)]
  else
    let base : Int := (layN l 0 8 : Int) + (x0 + lo) * es
      + ([1, 2, 3].foldl (fun (a : Int) d => if d < layRank l then a + x d * layStride l d else a) 0)
    (if e0 < lo then [(j e0, (lo - e0) * es, none)] else [])
      ++ [(j lo, (hi - lo) * es, some (base % 2 ^ 64).toNat)]
      ++ (if hi < e0 + n then [(j hi, (e0 + n - hi) * es, none)] else [])

/-- The pieces of the bytes `c0` to `c1` of a dense box. -/
def boxPieces (l : List Byte) (coord : List Int) (c0 c1 : Nat) : List Piece :=
  let rb := layBox l 0 * layEsz l
  if c1 ≤ c0 then []
  else (List.range ((c1 - 1) / rb - c0 / rb + 1)).flatMap (fun i =>
    let r := c0 / rb + i
    let a := max c0 (r * rb)
    let b := min c1 ((r + 1) * rb)
    rowPieces l coord r ((a - r * rb) / layEsz l) ((b - a) / layEsz l))

/-! ### The pool and the queues (R284 to R286) -/

def Core.cqMinOf (c : Core) (q : Nat) : Nat := c.cqMin.getD q 8
def Core.cqCapOf (c : Core) (q : Nat) : Nat := c.cqCap.getD q 128
def Core.cqQuantOf (c : Core) (q : Nat) : Nat := c.cqQuant.getD q 0x2000
def Core.cqOcc (c : Core) (q : Nat) : Nat := (c.copies.filter (fun k => k.queue == q)).length

/-- `n` entries may be taken by a queue, one after another (R284). -/
def Core.canEnter (c : Core) (q n : Nat) : Bool :=
  let others := ([0, 1, 2, 3].filter (· != q)).foldl (fun a m => a + (c.cqMinOf m - c.cqOcc m)) 0
  (List.range n).all (fun i =>
    let occ := c.cqOcc q + i
    let free := 128 - (c.copies.length + i)
    decide (c.copies.length + i < 128) &&
      (decide (occ < c.cqMinOf q) || (decide (occ < c.cqCapOf q) && decide (others < free))))

/-- CQ_QUEUE_WRITE: a write to a queue register, ignored where it would make the set invalid (R286): registers
0 to 3 MIN, 4 to 7 CAP, 8 to 11 QUANT. -/
def execCqQueueWrite (core : Nat) (which : Nat) (value : Word) (s : State) : Out :=
  let c := s.core core
  let q := which % 4
  let c' := match which / 4 with
    | 0 => { c with cqMin := c.cqMin.set q (value.toNat % 256) }
    | 1 => { c with cqCap := c.cqCap.set q (value.toNat % 256) }
    | _ => { c with cqQuant := c.cqQuant.set q (value.toNat % 2 ^ 20) }
  let ok := decide ([0, 1, 2, 3].foldl (fun a q => a + c'.cqMinOf q) 0 ≤ 128)
    && [0, 1, 2, 3].all (fun q => decide (c'.cqMinOf q ≤ c'.cqCapOf q) && decide (c'.cqCapOf q ≤ 128)
      && decide (2048 ≤ c'.cqQuantOf q))
  .next (if ok then s.setCore core c' else s)

/-! ### Issue (R277 to R279) -/

/-- The faults of R279 that a lane's copy would raise: cause and offending value. -/
def copyFaults (opc : Nat) (x : Ext) (s : State) (p : Nat → Opnd) (lane : Nat) : List (Nat × Word) :=
  let a := (p 1).val
  let b := (p 2).val
  let al (v : Word) (n : Nat) : List (Nat × Word) := if v.toNat % n ≠ 0 then [(0x0A, v)] else []
  let within (v : Word) : List (Nat × Word) := match s.place lane v 1 with
    | .ok _ => []
    | .error c => [(c, v)]
  let scr (v : Word) : List (Nat × Word) := if winOf v = 2 ∨ winOf v = 3 then within v else [(0x0B, v)]
  let any (v : Word) : List (Nat × Word) := if winOf v = 0 then [] else scr v
  let lay : List (Nat × Word) := al a 64 ++ (if winOf a = 0 then [] else if winOf a = 2 then within a else [(0x0B, a)])
  let cores := if opc == 0x1B1 ∧ (List.range 8).any (fun i =>
      x.imm.getLsbD (8 + i) && (s.groupPanel s.cur.core s.bolt.panel i).isNone) then [(0x0D, b)] else []
  if x.modN == 2 then
    let n := (p 3).val
    al a 16 ++ any a ++ al b 16 ++ (if opc == 0x1B1 then scr b else any b)
      ++ (if n.toNat % 16 ≠ 0 then [(0x0A, n)] else [])
      ++ (if n = 0 ∨ 2 ^ 24 < n.toNat then [(0x0B, n)] else []) ++ cores
  else if opc == 0x1B0 && x.imm.getLsbD 8 then
    let t := x.immF 9 6
    lay ++ (if s.cc.trayOwn.get? t == some s.bolt.panel then [] else [(0x0E, BitVec.ofNat 64 t)])
  else lay ++ al b 16 ++ scr b ++ cores

/-- The fault of an issue: the lowest cause in the order of R279, its lowest lane's value, its lanes. -/
def copyCheck (s : State) (x : Ext) (fs : List (Nat × Nat × Word)) : R Unit :=
  match fs with
  | [] => .ok ()
  | _ =>
    let c := fs.foldl (fun m f => min m f.2.1) 0xFF
    let hit := fs.filter (fun f => f.2.1 == c)
    trap c ((hit.map (·.2.2)).headD 0) (s.failMask x (hit.map Prod.fst).eraseDups)

/-- The barrier that a form names (R277): its index with BE. -/
def barOf (x : Ext) : Option Nat := if x.imm.getLsbD 4 then some (x.immF 0 4) else none

/-- The issue events of `n` operations at a barrier of the current panel; 0x10 when they overflow it (R272). -/
def issueBar (s : State) (x : Ext) (bar : Option Nat) (n : Nat) : R State :=
  match bar with
  | none => .ok s
  | some i =>
    if n = 0 then .ok s
    else match (s.panel.bar i).issue n with
      | none => trap 0x10 (BitVec.ofNat 64 i) (s.failMask x (s.actLanes x))
      | some b => .ok (s.setBarAt s.cur.core s.bolt.panel i b)

/-- A panel is saved, itself or with its group: each copy that ends writes a record (R387), and no cancel touches it
(R410). -/
def State.saving (s : State) (core p : Nat) : Bool :=
  let me := s.panelAt core p
  s.cores.ents.any (fun c => match c.2.save with
    | none => false
    | some v =>
      let q := v.panel
      let o := s.panelAt c.1 q
      (c.1 == core && q == p) || (o.launch == me.launch && o.group == me.group && o.copyB == me.copyB
        && (s.launchOf me.launch).group != 0 && c.1 / 8 == core / 8))

/-- The copy that a lane makes. One that is issued while its panel is being saved, before its swatch stops, writes a record
too (R387). -/
def copyOf (opc : Nat) (x : Ext) (s : State) (p : Nat → Nat → Opnd) (lane : Nat) (id : Nat) : Copy :=
  let a := (p 1 0).val
  let b := (p 2 0).val
  let k : Copy :=
    { id := id, kind := if x.modN == 0 then .ld else if x.modN == 1 then .st else .lin
      type := if opc == 0x1B0 then 1 else 2
      bar := barOf x, wrec := x.imm.getLsbD 5 || s.saving s.cur.core s.bolt.panel, panel := s.bolt.panel
      launch := s.bolt.launch, ten := s.bolt.ten, stg := s.bolt.stage, queue := s.bolt.prio, after := s.serial }
  let k := if x.modN == 2 then { k with src := s.placeOf lane a, len := (p 3 0).val.toNat, total := (p 3 0).val.toNat }
    else { k with lay := s.placeOf lane a
                  coord := (List.range (x.immF 6 2 + 1)).map (fun i => Fp.valT .s32 (p 3 i).val) }
  if opc == 0x1B1 then
    let rs := (List.range 8).filterMap (fun i =>
      if x.imm.getLsbD (8 + i) then s.groupPanel s.cur.core s.bolt.panel i else none)
    { k with recv := rs.map (fun r => { core := r.1, panel := r.2 })
             dst := rs.map (fun r => .scr r.1 ((s.panelAt r.1 r.2).scrOff + winOff b % 0x400000)) }
  else if x.modN == 0 && x.imm.getLsbD 8 then { k with tray := some (x.immF 9 6) }
  else if x.modN == 1 then { k with src := s.placeOf lane b }
  else { k with dst := [s.placeOf lane b] }

/-- A copy enters the pool of the current core. -/
def addCopy (s : State) (mk : Nat → Copy) : State :=
  let (id, s) := s.takeOp (4 * s.cur.core)
  s.modCore s.cur.core (fun c => { c with copies := c.copies ++ [mk id] })

/-- The effect of `tcopy` and `tmcast` at issue (R278). -/
def copyBody (opc : Nat) (x : Ext) (s : State) : R State := do
  let srcs := srcsOf opc x
  let ls ← s.ready x srcs [] false
  let live := s.liveLanes x ls
  let op (l pos i : Nat) : Opnd := match srcs.find? (fun r => r.pos == pos) with
    | some r => s.opnd r l i
    | none => {}
  copyCheck s x (live.flatMap (fun l => (copyFaults opc x s (fun pos => op l pos 0) l).map (fun f => (l, f.1, f.2))))
  let t ← if opc == 0x1B0 then issueBar s x (barOf x) live.length else .ok s
  if opc == 0x1B0 && x.imm.getLsbD 8 && !live.isEmpty && s.trayBusy s.cur.core (x.immF 9 6) then retry s 10
  if !s.cc.canEnter s.bolt.prio live.length then retry s 11
  let p ← t.takeUp x ls srcs [] false
  .ok (live.foldl (fun t l => addCopy t (copyOf opc x t (op l) l)) p.post)

/-- `tcopy` (R277, R278). -/
def execTcopy (x : Ext) (s : State) : Out := issue 0x1B0 x.len x false (copyBody 0x1B0 x) s
/-- `tmcast` (R277, R278, R282). -/
def execTmcast (x : Ext) (s : State) : Out := issue 0x1B1 x.len x false (copyBody 0x1B1 x) s

/-- `kick` (R288). -/
def execKick (x : Ext) (s : State) : Out :=
  issue 0x1B2 x.len x false (fun s => do
    let srcs := srcsOf 0x1B2 x
    let ls ← s.ready x srcs [] false
    let live := s.liveLanes x ls
    match live with
    | [] => do
      let p ← s.takeUp x ls srcs [] false
      .ok p.post
    | _ => do
      let a := (s.opnd (srcs.headD { pos := 1 }) 0).val
      if a.toNat % 64 ≠ 0 then trap 0x0A a s.sw.mask
      if winOf a ≠ 2 then trap 0x0B a s.sw.mask
      if 8 ≤ s.cc.kicks.length then retry s 11
      let p ← s.takeUp x ls srcs [] false
      let (id, t) := p.post.takeOp (4 * s.cur.core + 1)
      .ok (t.modCore s.cur.core (fun c => { c with
        kicks := c.kicks ++ [{ id := id, panel := s.bolt.panel, addr := a, after := s.serial }] }))) s

/-! ### The engine's steps -/

def Copy.who (k : Copy) (core : Nat) : Who := { core := core, ten := k.ten, launch := k.launch, stg := k.stg }

def State.copyAt (s : State) (core id : Nat) : Option Copy := (s.core core).copies.find? (fun k => k.id == id)

def State.setCopy (s : State) (core : Nat) (k : Copy) : State :=
  s.modCore core (fun c => { c with copies := c.copies.map (fun j => if j.id == k.id then k else j) })

/-- ERR of a barrier is set (R272). -/
def State.barErr (s : State) (core p i : Nat) : State :=
  if (s.core core).panels.has p then s.setBarAt core p i { s.barAt core p i with err := true } else s

/-- A copy ends: its holds, its arrivals, its records (R282, R283), and its place in the pool. -/
def endCopy (s : State) (core : Nat) (k : Copy) (status : Nat) : State :=
  let cut := status != 0
  let s := s.modCore core (fun c =>
    let cs := c.copies.filter (fun j => j.id != k.id)
    { c with copies := cs, deficit := if cs.any (fun j => j.queue == k.queue) then c.deficit else c.deficit.erase k.queue })
  let s := (s.unhold (opKey 0 core k.id) (fun _ => false)).engineStatus k.launch status
  let s := if k.type = 2 then k.recv.foldl (fun s r => if r.counted then s.barEnd r.core r.panel k.bar cut else s) s
    else if k.counted then s.barEnd core k.panel k.bar cut else s
  if !cut && !k.wrec then s
  else
    let progress := min (2048 * k.done) k.total
    if k.type = 2 then k.recv.foldl (fun s r => s.postDone 2 status r.core k.id k.launch progress) s
    else s.postDone k.type status core k.id k.launch progress

/-- What becomes of a copy whose access does not go on (R283). -/
def copyStop (s : State) (core : Nat) (k : Copy) : EngStop → Out
  | .page va => .next ((s.setCopy core { k with page := some va }).post (.page 0 core k.id va))
  | .cut st => .next (endCopy s core k st)
  | .busy => .next s

/-- The destination of a copy in global memory: address and bytes. -/
def copyGlobal (k : Copy) (c0 c1 : Nat) : List (Nat × Nat) :=
  match k.kind with
  | .lin => k.dst.flatMap (fun d => match d with
    | .glob va => [(va.toNat + c0, c1 - c0)]
    | .scr _ _ => [])
  | .st => (boxPieces k.layout k.coord c0 c1).filterMap (fun p => p.2.2.map (fun va => (va, p.2.1)))
  | .ld => []

/-- A scratchpad place with `n` bytes keeps inside its region. -/
def scrFits (s : State) (panel : Option Nat) (d : Place) (n : Nat) : Bool :=
  match d with
  | .glob _ => true
  | .scr core off =>
    match panel with
    | some p => let q := s.panelAt core p; decide (q.scrOff ≤ off) && decide (off + n ≤ q.scrOff + q.scrSize)
    | none => match (s.core core).regionEnd off with
      | some e => decide (off + n ≤ e)
      | none => false

/-- The record of a box copy is read, and its box measured (R275, R280). -/
def readLayout (s : State) (core : Nat) (k : Copy) : E (Copy × State) := do
  if k.kind == .lin then .ok (k, s)
  else
    let r ← match k.lay with
      | .glob va => engRead s (k.who core) va.toNat 64
      | .scr c off => if scrFits s none k.lay 64 then engScr s c off 64 else .error (.cut 3)
    if layBad r.1 k.tray.isSome (if k.type = 3 then none else some k.coord.length) then .error (.cut 4)
    .ok ({ k with layout := r.1, total := layBytes r.1 }, r.2)

/-- The first `n` bytes of a copy keep inside their scratchpad regions (R283). -/
def copyFits (s : State) (k : Copy) (n : Nat) : Bool :=
  (k.kind == .ld || scrFits s none k.src n)
    && (if k.type = 2 then (k.recv.zip k.dst).all (fun r => scrFits s (some r.1.panel) r.2 n)
        else k.dst.all (fun d => scrFits s none d n))

/-- COPY_START: the engine starts a copy once the stores before it are performed, reads its record, and
registers its destination (R237, R238, R280). -/
def execCopyStart (core id : Nat) (s : State) : Out :=
  match s.copyAt core id with
  | none => .next s
  | some k =>
    if k.started || k.page.isSome || s.storesDue core k.after || k.recv.any (fun r => !r.reached) then .next s
    else match readLayout s core k with
      | .error e => copyStop s core k e
      | .ok (k, s) =>
        .next (match s.register (opKey 0 core k.id) (k.who core) (copyGlobal k 0 k.total) with
          | some t => t.setCopy core { k with started := true }
          | none => s)

/-- The bytes that a chunk brings: `c0` to `c1` of the copy. -/
def chunkBytes (s : State) (core : Nat) (k : Copy) (c0 c1 : Nat) : E (List Byte × State) :=
  match k.kind with
  | .ld => (boxPieces k.layout k.coord c0 c1).foldlM (fun r p => match p.2.2 with
      | some va => do
        let q ← engRead r.2 (k.who core) va p.2.1
        .ok (r.1 ++ q.1, q.2)
      | none => .ok (r.1 ++ List.replicate p.2.1 (if layN k.layout 10 1 = 1 then 0xFF else 0), r.2)) ([], s)
  | _ => match k.src with
    | .glob va => engRead s (k.who core) (va.toNat + c0) (c1 - c0)
    | .scr c off => engScr s c (off + c0) (c1 - c0)

/-- A core's tray takes bytes from an offset on. -/
def State.trayWrite (s : State) (core t off : Nat) (bytes : List Byte) : State :=
  s.modCore core (fun c => { c with tray := c.tray.writeBytes (4096 * t + off) bytes
                                    trayEcc := writeEcc c.trayEcc 4 (4096 * t + off) bytes.length })

/-- A chunk is written to its destinations. -/
def chunkWrite (s : State) (core : Nat) (k : Copy) (c0 c1 : Nat) (bytes : List Byte) : E State :=
  match k.kind, k.tray with
  | .st, _ => (boxPieces k.layout k.coord c0 c1).foldlM (fun s p => match p.2.2 with
    | some va => engWrite s (k.who core) va ((bytes.drop (p.1 - c0)).take p.2.1)
    | none => .ok s) s
  | _, some t => .ok (s.trayWrite core t c0 bytes)
  | _, none => k.dst.foldlM (fun s d => match d with
    | .glob va => engWrite s (k.who core) (va.toNat + c0) bytes
    | .scr c off => .ok (s.scrWrite c (off + c0) bytes)) s

/-- One chunk of a copy lands, its destination held (R238); after the last one the copy ends (R280, R282). A chunk that
passes a scratchpad bound cuts the copy off (R283). -/
def landChunk (s : State) (core : Nat) (k : Copy) : Out :=
  let c0 := 2048 * k.done
  let c1 := min k.total (c0 + 2048)
  let key := opKey 0 core k.id
  match (do
    if !copyFits s k c1 then (.error (.cut 3) : E Unit)
    let r ← chunkBytes s core k c0 c1
    match r.2.register key (k.who core) (copyGlobal k c0 k.total) with
    | none => .error .busy
    | some t => chunkWrite t core k c0 c1 r.1) with
  | .error e => copyStop s core k e
  | .ok t =>
    let k := { k with done := k.done + 1 }
    let t := t.charge k.ten 4 ((c1 - c0) * (if k.type = 2 then k.recv.length else 1))
    let rest := engLines t (k.who core) (copyGlobal k c1 k.total)
    let t := (t.setCopy core k).unhold key (fun l => rest.contains l)
    .next (if c1 = k.total then endCopy t core k 0 else t)

/-- A copy has a chunk to send. -/
def Copy.sends (k : Copy) : Bool := k.started && k.page.isNone

/-- Deficit round-robin (R285): the copy whose chunk goes next, and the core with its deficits. A queue with copies is
visited, and gets its quantum, though none of them has a chunk to send. -/
def pickChunk (c : Core) : Nat → Option (Copy × Core)
  | 0 => none
  | fuel + 1 =>
    let q := c.cqAt
    let leave (c : Core) : Core := { c with cqAt := (q + 1) % 4, cqIn := false }
    if c.cqOcc q = 0 then pickChunk (leave c) fuel
    else
      let c := if c.cqIn then c
        else { c with cqIn := true, deficit := c.deficit.set q (c.deficit.getD q 0 + c.cqQuantOf q) }
      match c.copies.filter (fun k => k.queue == q && k.sends) with
      | [] => pickChunk (leave c) fuel
      | k0 :: ks =>
        let k := match c.cqLast.get? q with
          | some l => ((k0 :: ks).find? (fun k => decide (l < k.id))).getD k0
          | none => k0
        let n := min 2048 (k.total - 2048 * k.done)
        if n ≤ c.deficit.getD q 0 then
          some (k, { c with deficit := c.deficit.set q (c.deficit.getD q 0 - n), cqLast := c.cqLast.set q k.id })
        else pickChunk (leave c) fuel

/-- The chunk that goes next: the engine makes no visits while no copy has one. A fresh quantum covers a chunk (R286), so
within two rounds of the queues one goes. -/
def Core.chunkNext (c : Core) : Option (Copy × Core) := if c.copies.any Copy.sends then pickChunk c 10 else none

/-- COPY_CHUNK_LAND: the next chunk of a core's engine is sent, and lands (R280, R285). -/
def execCopyChunkLand (core : Nat) (s : State) : Out :=
  match (s.core core).chunkNext with
  | none => .next s
  | some (k, c) => match landChunk (s.setCore core c) core k with
    | .next t => match t.copyAt core k.id with
      | some j => if j.done ≠ k.done then .next t else if j.page.isSome then landChunk s core k else .next s
      | none => .next t
    | o => o

/-- COPY_CUT_OFF: Goloc or a cancel ends a copy (R283). -/
def execCopyCutOff (core id status : Nat) (s : State) : Out :=
  .next (match s.copyAt core id with
    | some k => if status = 0 then s else endCopy s core k status
    | none => s)

/-- COPY_RESUME: the page is present (R283), and its lines are held where they can be (R238). -/
def execCopyResume (core id : Nat) (s : State) : Out :=
  .next (match s.copyAt core id with
    | some k =>
      let t := (s.setCopy core { k with page := none }).spend k.ten
      if k.started then (t.register (opKey 0 core k.id) (k.who core) (copyGlobal k (2048 * k.done) k.total)).getD t else t
    | none => s)

/-- MULTICAST_COMMAND_ARRIVAL: a `tmcast` reaches a receiver, and its barrier's issue event follows (R282). -/
def execMulticastCommandArrival (core id receiver : Nat) (s : State) : Out :=
  match s.copyAt core id with
  | none => .next s
  | some k =>
    if k.recv.all (fun r => r.core != receiver || r.reached) then .next s
    else
      let got (s : State) (f : Recv → Recv) : State :=
        s.setCopy core { k with recv := k.recv.map (fun r => if r.core == receiver then f r else r) }
      match k.bar, k.recv.find? (fun r => r.core == receiver) with
      | some i, some r => match (s.barAt r.core r.panel i).issue 1 with
        | some b => .next ((got s (fun r => { r with reached := true, counted := true })).setBarAt r.core r.panel i b)
        | none => .next ((got s (fun r => { r with reached := true })).barErr r.core r.panel i)
      | _, _ => .next (got s (fun r => { r with reached := true }))

/-! ### Request lists (R287) -/

/-- The request at the head of a core's list: its 64 bytes, or the status that ends the list. -/
def headRequest (s : State) (core : Nat) (l : ReqList) : E (List Byte × State) :=
  let p := s.panelAt core l.panel
  let x := winOff l.addr
  if winOf l.addr ≠ 2 ∨ l.addr.toNat % 64 ≠ 0 then .error (.cut 4)
  else if p.scrSize < x + 64 then .error (.cut 3)
  else engScr s core (p.scrOff + x) 64

/-- A request's reserved fields, or its OP, break R287. -/
def badRequest (r : List Byte) : Bool :=
  decide (5 < layN r 0 1) || decide (128 ≤ layN r 1 1) || decide (63 < layN r 2 1) || layN r 3 5 != 0 || layN r 44 20 != 0

/-- The list at the head leaves; `status` not 0 posts its record. -/
def dropList (s : State) (core : Nat) (l : ReqList) (status : Nat) : State :=
  let s := s.modCore core (fun c => { c with kicks := c.kicks.drop 1 })
  if status = 0 then s else s.postDone 3 status core l.id (s.panelAt core l.panel).launch 0

/-- The next request of the list. -/
def advanceList (s : State) (core : Nat) (next : Word) : State :=
  s.modCore core (fun c => { c with kicks := match c.kicks with
    | l :: r => { l with addr := next } :: r
    | [] => [] })

/-- A step of the request engine on a request of one OP. -/
def requestStep (s : State) (core : Nat) (op : Nat) (f : ReqList → List Byte → State → State) : State :=
  match (s.core core).kicks with
  | [] => s
  | l :: _ =>
    if s.storesDue core l.after then s
    else match headRequest s core l with
      | .ok (r, t) =>
        if badRequest r then (if op = 0 then dropList t core l 4 else s)
        else if layN r 0 1 = op then f l r t else s
      | .error (.cut st) => if op = 0 then dropList s core l st else s
      | .error _ => s

/-- The checks of R279 on a request: whether it fails one. -/
def requestFails (s : State) (core : Nat) (l : ReqList) (op : Nat) (r : List Byte) : Bool :=
  let p := s.panelAt core l.panel
  let a := BitVec.ofNat 64 (layN r 8 8)
  let b := BitVec.ofNat 64 (layN r 16 8)
  let scr (v : Word) : Bool := match winOf v with
    | 2 => decide (winOff v < p.scrSize)
    | 3 => match s.groupPanel core l.panel (winOff v / 0x400000) with
      | some (c, q) => decide (winOff v % 0x400000 < (s.panelAt c q).scrSize)
      | none => false
    | _ => false
  let n := layN r 40 4
  if op = 3 then
    (layN r 1 1).testBit 6 || a.toNat % 16 != 0 || b.toNat % 16 != 0 || !(winOf a == 0 || scr a) || !(winOf b == 0 || scr b)
      || n % 16 != 0 || n == 0 || decide (2 ^ 24 < n)
  else
    a.toNat % 64 != 0 || !(winOf a == 0 || (winOf a == 2 && scr a))
      || (if (layN r 1 1).testBit 6 then op != 1 || (s.core core).trayOwn.get? (layN r 2 1) != some l.panel
          else b.toNat % 16 != 0 || !scr b)

/-- A request becomes a copy (R287): a pool entry is taken, the barrier's issue event applied. -/
def requestCopy (core : Nat) (op : Nat) (l : ReqList) (r : List Byte) (s : State) : State :=
  let p := s.panelAt core l.panel
  let n := s.launchOf p.launch
  let q := n.prio
  let fails := requestFails s core l op r
  if !(s.core core).canEnter q 1 || (!fails && (layN r 1 1).testBit 6 && s.trayBusy core (layN r 2 1)) then s
  else
    let fl := layN r 1 1
    let bar := if fl.testBit 4 then some (fl % 16) else none
    let a := BitVec.ofNat 64 (layN r 8 8)
    let b := BitVec.ofNat 64 (layN r 16 8)
    let place (v : Word) : Place := match winOf v with
      | 2 => .scr core (p.scrOff + winOff v)
      | 3 => match s.groupPanel core l.panel (winOff v / 0x400000) with
        | some (c, g) => .scr c ((s.panelAt c g).scrOff + winOff v % 0x400000)
        | none => .glob v
      | _ => .glob v
    let (id, s) := s.takeOp (4 * core)
    let tray := fl.testBit 6 && op == 1
    let k : Copy :=
      { id := id, kind := if op = 1 then .ld else if op = 2 then .st else .lin, type := 3, bar := bar
        wrec := fl.testBit 5 || s.saving core l.panel, panel := l.panel, launch := p.launch, ten := p.ten
        stg := if n.stage && !n.unstaged then some p.copyB else none
        queue := q, after := l.after, list := some l.id
        lay := place a
        coord := (List.range 4).map (fun i => Fp.valT .s32 (BitVec.ofNat 64 (layN r (24 + 4 * i) 4)))
        len := layN r 40 4, total := if op = 3 then layN r 40 4 else 0
        tray := if tray then some (layN r 2 1) else none
        src := if op = 3 then place a else if op = 2 then place b else .glob 0
        dst := if op = 2 || tray then [] else [place b] }
    let e : State × Copy := match bar with
      | none => (s, k)
      | some i => match (s.barAt core l.panel i).issue 1 with
        | some b => (s.setBarAt core l.panel i b, k)
        | none => (s.barErr core l.panel i, { k with counted := false })
    let s := e.1.modCore core (fun c => { c with copies := c.copies ++ [e.2] })
    let s := if fails then endCopy s core e.2 4 else s
    advanceList s core (l.addr + 64)

/-- REQUEST_END: a request of OP 0 ends the list; so does one that is malformed, with a record (R287). -/
def execRequestEnd (core : Nat) (s : State) : Out := .next (requestStep s core 0 (fun l _ t => dropList t core l 0))
/-- REQUEST_LD (R287). -/
def execRequestLd (core : Nat) (s : State) : Out := .next (requestStep s core 1 (requestCopy core 1))
/-- REQUEST_ST (R287). -/
def execRequestSt (core : Nat) (s : State) : Out := .next (requestStep s core 2 (requestCopy core 2))
/-- REQUEST_LIN (R287). -/
def execRequestLin (core : Nat) (s : State) : Out := .next (requestStep s core 3 (requestCopy core 3))

/-- REQUEST_ARRIVE: an arrival once every earlier copy of the list has ended (R287). -/
def execRequestArrive (core : Nat) (s : State) : Out :=
  .next (requestStep s core 4 (fun l r t =>
    if (t.core core).copies.any (fun k => k.list == some l.id) then t
    else
      let i := layN r 1 1 % 16
      let t := match (t.barAt core l.panel i).arrive 1 with
        | some b => t.setBarAt core l.panel i b
        | none => t.barErr core l.panel i
      advanceList t core (l.addr + 64)))

/-- REQUEST_CONTINUE: the list goes on at ADDR2 (R287). -/
def execRequestContinue (core : Nat) (s : State) : Out :=
  .next (requestStep s core 5 (fun _ r t => advanceList t core (BitVec.ofNat 64 (layN r 16 8))))

end Sys2Proof.Machine
end

