-- ==== Sys2Proof/Machine/Barrier.lean ====
section
/-! DEFINITION. The barrier forms (R270 to R274, R290, R291) and the arrivals of `arrive.r`. -/

namespace Sys2Proof.Machine

/-- The barrier index of a form, and its address in a fault record (R293). -/
def barIx (x : Ext) : Nat := x.immF 0 4
def barAddr (x : Ext) (cidx : Option Nat) : Word :=
  BitVec.ofNat 64 (barIx x + (match cidx with | some i => i * 2 ^ 8 | none => 0))

/-- The lanes of an issue: the active ones, for which the form acts, and those of them that do not run dry. -/
def barLanes (s : State) (x : Ext) : List Nat × List Nat := (s.actLanes x, s.liveLanes x (s.actLanes x))

/-- The current panel's barrier that a form names. -/
def State.myBar (s : State) (x : Ext) : Bar := s.panel.bar (barIx x)
def State.readMyBar (s : State) (x : Ext) : State := s.readBarAt s.cur.core s.bolt.panel (barIx x)
def State.setMyBar (s : State) (x : Ext) (b : Bar) : State := s.setBarAt s.cur.core s.bolt.panel (barIx x) b

/-- `barinit` (R271, R273). -/
def execBarinit (x : Ext) (s : State) : Out :=
  issue 0x1B3 x.len x false (fun s =>
    let ls := barLanes s x
    if ls.2.isEmpty then .ok s
    else if (s.myBar x).eng ≠ 0 then trap 0x2C (barAddr x none) (maskOf ls.1)
    else .ok (s.setMyBar x ({ exp := x.immF 4 14 } : Bar).settle)) s

/-- `expect` (R271, R272): the new EXP, or an overflow. -/
def Bar.expect (b : Bar) (d : Int) : Option Bar :=
  let e : Int := (b.exp : Int) + d
  if e < 1 ∨ 16383 < e ∨ e < (b.arr : Int) then none else some ({ b with exp := e.toNat }).settle

def execExpect (x : Ext) (s : State) : Out :=
  issue 0x1B5 x.len x false (fun s =>
    let ls := barLanes s x
    if ls.2.isEmpty then .ok s
    else match (s.myBar x).expect (x.imm.extractLsb' 8 14).toInt with
      | none => trap 0x10 (barAddr x none) (maskOf ls.1)
      | some b => .ok (s.setMyBar x b)) s

/-- The names of an `arrive` that has a destination. -/
def arriveDst (x : Ext) : List Code := if x.cntN = 0 then [] else [x.dst]

/-- A remote arrival is sent (R291); its destination's lanes wait for the GEN that the target held. -/
def sendArrival (x : Ext) (core panel m : Nat) (live : Bool) (s : State) (lanes : List Nat) : State :=
  let from_ := s.serial
  let s := if x.cntN = 0 then s
    else lanes.foldl (fun s l => s.owe x.dst l x.cntN .n32 (some l) false false (.await .n32)) s
  let ids := ((s.dlv.filter (fun d => decide (from_ ≤ d.id))).map (·.id))
  let n := if live then m else 0
  { s with remote := s.remote ++ [{ core := core, panel := panel, bar := barIx x, n := n, dlvs := ids }] }

/-- GEN as an N32 value. -/
def Bar.genWord (b : Bar) : Word := BitVec.ofNat 64 (b.gen % 4)

/-- The lanes in which a destination is written: every active one, or lane 0 once for a g name. -/
def dstLanes (x : Ext) (ls : List Nat) : List Nat := if x.dst.isG then ls.take 1 else ls

/-- `arrive` (R291): a release, then one arrival, or with `.lanes` one for each active lane; with `.r` at a
panel of the group. -/
def execArrive (x : Ext) (s : State) : Out :=
  issue 0x1B4 x.len x false (fun s => do
    let ls ← s.ready x [] (arriveDst x) false
    match ls with
    | [] => .ok s
    | _ => do
      let live := s.liveLanes x ls
      let m := if x.mod.getLsbD 0 then live.length else min 1 live.length
      let r := x.mod.getLsbD 1
      let cidx := x.immF 4 3
      let target := if r then s.groupPanel s.cur.core s.bolt.panel cidx else some (s.cur.core, s.bolt.panel)
      match target with
      | none => trap 0x0D (barAddr x (some cidx)) (maskOf ls)
      | some (core, panel) => do
        if !r && m ≠ 0 && ((s.myBar x).arrive m).isNone then trap 0x10 (barAddr x none) (maskOf ls)
        let s ← if m = 0 then .ok s else s.releaseWait 12
        let p ← s.takeUp x ls [] (arriveDst x) false
        if r then .ok (sendArrival x core panel m (m != 0) p.post (dstLanes x ls))
        else
          let b := s.myBar x
          let t := if x.cntN = 0 then p.post
            else (dstLanes x ls).foldl (fun t l => t.write x.dst l x.cntN .n32 b.genWord) p.post
          match b.arrive m with
          | some b => .ok (if m = 0 then t else t.setMyBar x b)
          | none => .ok t) s

/-- REMOTE_ARRIVAL: an arrival of `arrive.r` is applied at its target; an overflow sets ERR there and is not
counted (R272, R291). -/
def execRemoteArrival (s : State) : Out :=
  match s.remote with
  | [] => .next s
  | r :: rs =>
    let s := { s with remote := rs }
    let b := s.barAt r.core r.panel r.bar
    let s := r.dlvs.foldl (fun s d => s.deliver d b.genWord .n32 0 false) s
    .next (if r.n = 0 ∨ !(s.core r.core).panels.has r.panel then s
      else match b.arrive r.n with
        | some b => s.setBarAt r.core r.panel r.bar b
        | none => s.barErr r.core r.panel r.bar)

/-- The generation that `wait` and `bartest` name: SRCA's in the lowest active lane, or IMM22's. -/
def barGen (x : Ext) (s : State) (ls : List Nat) : Nat :=
  match srcsOf 0x1B6 x with
  | r :: _ => (s.opnd r (ls.headD 0)).val.toNat % 4
  | [] => x.immF 4 2

/-- A completed phase is observed (R274): 0x2B with ERR, and otherwise an acquire. Phase 2 has observed it. -/
def observe (x : Ext) (s : State) (ls : List Nat) : R State := do
  if s.sw.phase ≠ 2 && (s.myBar x).err then trap 0x2B (barAddr x none) (maskOf ls)
  fenceEffect 0 (s.modSw (fun w => { w with phase := 2 }))

/-- `wait` (R291); one that is over is a sample of a densitometer (R442). -/
def execWaitB (x : Ext) (s : State) : Out :=
  issue 0x1B6 x.len x false (fun s => do
    let srcs := srcsOf 0x1B6 x
    let ls ← s.ready x srcs [] false
    match s.liveLanes x ls with
    | [] => do
      let p ← s.takeUp x ls srcs [] false
      .ok p.post
    | _ => do
      let s := s.readMyBar x
      if s.sw.phase ≠ 2 && (s.myBar x).gen % 4 == barGen x s ls then retry s 5
      let s ← observe x s ls
      let p ← s.takeUp x ls srcs [] false
      .ok (p.post.densCore 6 s.cur.core s.ten)) s

/-- `bartest` (R291): phase 2 has observed the completed phase. -/
def bartestBody (x : Ext) (s : State) : R State := do
  let srcs := srcsOf 0x1B7 x
  let ls ← s.ready x srcs [] false
  let s := if ls.isEmpty then s else s.readMyBar x
  let past := s.sw.phase == 2 || (s.myBar x).gen % 4 != barGen x s ls
  let s ← if past && !(s.liveLanes x ls).isEmpty then observe x s ls else .ok s
  let p ← s.takeUp x ls srcs [] false
  .ok (p.post.setK (x.immF 6 3) (maskOf ls) (if past then maskOf ls else 0))

/-- `bartest.v`: the word of R270, with no acquire. -/
def bartestWord (x : Ext) (s : State) : R State := do
  let p ← s.prep x [] [x.dst] true
  let t := if p.lanes.isEmpty then p.post else p.post.readMyBar x
  .ok ((dstLanes x p.lanes).foldl (fun t l => t.write x.dst l x.cntN .n64 (p.pre.myBar x).word) t)

def execBartest (x : Ext) (s : State) : Out :=
  issue 0x1B7 x.len x false (if x.modN = 0 then bartestBody x else bartestWord x) s

end Sys2Proof.Machine
end

