-- ==== Sys2Proof/Machine/Matrix.lean ====
section
/-! DEFINITION. The matrix class (R294 to R319): trays, accumulator regions, the matrix engine's arithmetic and
its steps. -/

namespace Sys2Proof.Machine

/-! ### Arithmetic (R295 to R306) -/

namespace Mx

/-- Elements of K per step, bytes per step, steps per tray (R295). -/
def kc : Tag → Nat
  | .f16x2 | .bf16x2 => 8
  | .e2m1x8 | .pb2x2 => 32
  | _ => 16
def stepBytes (t : Tag) : Nat := if t == .pb2x2 then 256 else 512
def maxSteps (t : Tag) : Nat := if t == .pb2x2 then 16 else 8

/-- The byte offset in a tray of element `k` of operand row `i` (R295). -/
def elemOff (t : Tag) (i k : Nat) : Nat :=
  match t with
  | .f16x2 | .bf16x2 => 512 * (k / 8) + 16 * i + 2 * (k % 8)
  | .e2m1x8 => 512 * (k / 32) + 16 * i + k % 32 / 2
  | .pb2x2 => 256 * (k / 32) + 8 * i + 2 * (k % 32 / 8)
  | _ => 512 * (k / 16) + 16 * i + k % 16

/-- Element `k` of operand row `i` of a tray, as a number. -/
def elem (tray : Mem) (base : Nat) (lead : Nat → BitVec 32) (t : Tag) (i k : Nat) : Fp.Num :=
  let a := base + elemOff t i k
  match t with
  | .f16x2 => Fp.f16.decode (tray.readN a 2)
  | .bf16x2 => Fp.bf16.decode (tray.readN a 2)
  | .e4m3x4 => Fp.e4m3.decode (tray.readN a 1)
  | .e5m2x4 => Fp.e5m2.decode (tray.readN a 1)
  | .e2m1x8 => Fp.e2m1.decode (if k % 2 = 0 then tray.readN a 1 % 16 else tray.readN a 1 / 16)
  | .pb2x2 => let w := tray.readN a 2; Fp.weight (lead (w / 128)) (w % 128) (k % 8)
  | _ => let z := Fp.s8 (tray.readN a 1); .fin (decide (z < 0)) z.natAbs 0

/-- A number times a block scale: the block NaN makes it a NaN (R302). -/
def scaled (x : Fp.Num) (byte : Option Nat) : Fp.Num :=
  match byte with
  | none => x
  | some e => match Fp.sc8 e with
    | some k => x.scale k
    | none => .nan false

/-- A product as an addend (R302). -/
def mul (x y : Fp.Num) : Fp.Num := (Fp.mulNum x y).getD (.nan false)

/-- floor(log2 |x|) of a number that is not zero. -/
def expOf : Fp.Num → Option Int
  | .fin _ m e => if m = 0 then none else some ((Fp.bitLen m : Int) - 1 + e)
  | _ => none

/-- `WindowSum` (R301): an F32 code. -/
def windowSum (xs : List Fp.Num) : Nat :=
  let pinf := xs.any (fun x => x == .inf false)
  let ninf := xs.any (fun x => x == .inf true)
  if xs.any Fp.Num.isNan || (pinf && ninf) then 0x7FC00000
  else if pinf then 0x7F800000
  else if ninf then 0xFF800000
  else match xs.filterMap expOf with
    | [] => if xs.all Fp.Num.negZero then 0x80000000 else 0
    | e0 :: es =>
      let q := es.foldl max e0 - 62
      let t : Int := xs.foldl (fun (s : Int) x => match x with
        | .fin neg m e => let n : Int := (Fp.roundAt .rtz neg m e q).1; if neg then s - n else s + n
        | _ => s) 0
      (Fp.round Fp.f32 .rne false (.fin (decide (t < 0)) t.natAbs q)).1

/-- A sum that is exact before its one rounding (R306). -/
def roundSum (xs : List Fp.Num) : Nat :=
  if xs.any Fp.Num.isNan then 0x7FC00000
  else match Fp.sumNum .rne xs with
    | none => 0x7FC00000
    | some z => (Fp.round Fp.f32 .rne false z).1

/-- An operand of an operation: its tray, and its scales. -/
structure Side where
  tray  : Mem
  base  : Nat
  fmt   : Tag
  /-- The byte of the scale of row `i` in block `j`; none without scales. -/
  scale : Option (Nat × Nat) := none
  deriving DecidableEq, Repr

/-- Element `k` of row `i`, times its scale (R296, R301): `scale` gives the scale tray's base and the first
byte of this operand in it. -/
def Side.at (d : Side) (lead : Nat → BitVec 32) (i k : Nat) : Fp.Num :=
  scaled (elem d.tray d.base lead d.fmt i k)
    (d.scale.map (fun p => d.tray.readN (p.1 + p.2 + 8 * i + k / 64) 1))

/-- The integer element of an S8 operand. -/
def Side.int (d : Side) (i k : Nat) : Int := Fp.s8 (d.tray.readN (d.base + elemOff d.fmt i k) 1)

/-- The classes of R304: F16, BF16, S8, E4M3 with E5M2, E2M1 with PB2. -/
def classOf : Tag → Nat
  | .f16x2 => 0 | .bf16x2 => 1 | .s8x4 => 2 | .e4m3x4 | .e5m2x4 => 3 | _ => 4

end Mx

/-! ### Descriptors (R304, R305, R307) -/

/-- The format of a matrix operand from its code; descriptors with another code are refused (R304, R307). -/
def tagOfCode (n : Nat) : Tag :=
  match n with
  | 0x8 => .f16x2 | 0x9 => .bf16x2 | 0xA => .s8x4 | 0xB => .e4m3x4 | 0xC => .e5m2x4 | 0xD => .e2m1x8 | _ => .pb2x2

/-- A descriptor is invalid for a form (R307). -/
def descBad (d : Word) (afmt : Tag) (complex ck : Bool) : Bool :=
  let b := dBfmt d
  let bt := tagOfCode b
  let sc := dSC d
  d.toNat / 2 ^ 34 != 0 || d.toNat / 2 ^ 6 % 4 != 0
    || (if ck then dNC d == 0 || dMR d == 0 else dNC d != 0 || dMR d != 0)
    || (!sc && dTS d != 0) || decide (b < 8) || decide (0xE < b)
    || Mx.classOf afmt != Mx.classOf bt
    || (Mx.classOf afmt == 4 && !sc) || (decide (Mx.classOf afmt ≤ 2) && sc)
    || decide (Mx.maxSteps afmt < dKS d + 1) || decide (Mx.maxSteps bt < dKS d + 1)
    || (complex && !([0, 1, 3].contains (Mx.classOf bt)))
    || (ck && bt == .s8x4)

/-! ### Claims (R294, R309) -/

/-- The run of `claim`, `release` and `acczero`. -/
def runOf (x : Ext) : List Nat := (List.range (x.immF 0 6 + 1)).map (x.immF 6 6 + ·)

/-- A tray becomes zero. -/
def Core.zeroTray (c : Core) (t : Nat) : Core :=
  { c with tray := c.tray.zero (4096 * t) 4096
           trayEcc := ⟨c.trayEcc.ents.filter (fun e => e.1 / 4096 != t)⟩ }

/-- A region becomes zero, with a tag. -/
def Core.zeroRegion (c : Core) (g : Nat) (s32 : Bool) : Core :=
  { c with acc := ⟨c.acc.ents.filter (fun e => e.1 / 1024 != g)⟩
           accEcc := ⟨c.accEcc.ents.filter (fun e => e.1 / 1024 != g)⟩
           regS32 := if s32 then c.regS32.set g true else c.regS32.erase g }

/-- `claim` (R309). -/
def execClaim (x : Ext) (s : State) : Out :=
  issue 0x1C0 x.len x false (fun s =>
    let me := s.bolt.panel
    let run := runOf x
    if (s.liveLanes x (s.actLanes x)).isEmpty then .ok s
    else if x.modN = 0 then
      if run.any (fun t => s.cc.trayOwn.has t && s.cc.trayOwn.get? t != some me) then retry s 10
      else .ok (s.modCore s.cur.core (fun c => run.foldl (fun c t =>
        if c.trayOwn.has t then c else (let c := c.zeroTray t; { c with trayOwn := c.trayOwn.set t me })) c))
    else if run.any (fun g => s.cc.regOwn.has g && s.cc.regOwn.get? g != some me) then retry s 10
    else .ok (s.modCore s.cur.core (fun c => run.foldl (fun c g =>
      if c.regOwn.has g then c else (let c := c.zeroRegion g false; { c with regOwn := c.regOwn.set g me })) c))) s

/-- The members of a run that the current panel does not hold. -/
def strangers (own : Tab Nat) (me : Nat) (run : List Nat) : List Nat := run.filter (fun t => own.get? t != some me)

/-- `release` (R309). -/
def execRelease (x : Ext) (s : State) : Out :=
  issue 0x1C1 x.len x false (fun s =>
    let me := s.bolt.panel
    let run := runOf x
    let core := s.cur.core
    let ls := s.actLanes x
    if (s.liveLanes x ls).isEmpty then .ok s
    else if x.modN = 0 then
      match strangers s.cc.trayOwn me run with
      | t :: _ => trap 0x0E (BitVec.ofNat 64 t) (s.failMask x ls)
      | [] => if run.any (s.trayBusy core) then retry s 10
              else .ok (s.modCore core (fun c => { c with trayOwn := run.foldl Tab.erase c.trayOwn }))
    else match strangers s.cc.regOwn me run with
      | g :: _ => trap 0x0F (BitVec.ofNat 64 g) (s.failMask x ls)
      | [] => if run.any (s.regInUse core) then retry s 10
              else .ok (s.modCore core (fun c => { c with regOwn := run.foldl Tab.erase c.regOwn }))) s

/-- `acczero` (R309). -/
def execAcczero (x : Ext) (s : State) : Out :=
  issue 0x1C7 x.len x false (fun s =>
    let run := runOf x
    let core := s.cur.core
    let ls := s.actLanes x
    if (s.liveLanes x ls).isEmpty then .ok s
    else match strangers s.cc.regOwn s.bolt.panel run with
      | g :: _ => trap 0x0F (BitVec.ofNat 64 g) (s.failMask x ls)
      | [] => if run.any (s.regInUse core) then retry s 10
              else .ok (s.modCore core (fun c => run.foldl (fun c g => c.zeroRegion g (x.fmt == .s32)) c))) s

/-! ### mload, accrd, accwr -/

/-- The tray of `mload`, and the region of `accrd`, `accwr`, `accst`. -/
def hiField (x : Ext) : Nat := x.immF 16 6

/-- `mload` (R310). -/
def execMload (x : Ext) (s : State) : Out :=
  issue 0x1C2 x.len x false (fun s => do
    let srcs := srcsOf 0x1C2 x
    let ls ← s.ready x srcs [] false
    let live := s.liveLanes x ls
    let o := x.immF 0 12
    let t := hiField x
    match live.filter (fun l => decide (4096 < o + 4 * l + 4)) with
    | l :: r => trap 0x2D (BitVec.ofNat 64 (o + 4 * l)) (maskOf (l :: r))
    | [] => .ok ()
    if !live.isEmpty && s.cc.trayOwn.get? t != some s.bolt.panel then trap 0x0E (BitVec.ofNat 64 t) (maskOf live)
    if !live.isEmpty && s.trayBusy s.cur.core t then retry s 10
    let p ← s.takeUp x ls srcs [] false
    .ok (live.foldl (fun s l => s.trayWrite s.cur.core t (o + 4 * l) (toLE (p.opnd 1 l).val.toNat 4)) p.post)) s

/-- The address of a region in a fault record; bit 8 marks the follower (R311, R377). -/
def regAddr (g : Nat) (far : Bool) : Word := BitVec.ofNat 64 (g + (if far then 256 else 0))

/-- A region's tag. -/
def Core.regTag (c : Core) (g : Nat) : Tag := if c.regS32.getD g false then .s32 else .f32

/-- The element that each lane of `accrd` or `accwr` names (R313). -/
def accIdx (x : Ext) (s : State) (r : Option Src) (l : Nat) : Nat :=
  match r with
  | some r => (s.opnd r l).val.toNat % 2 ^ 32
  | none => 32 * x.immF 0 5 + l % 32

/-- The checks of R313 after R6's, and the wait of R298. -/
def accCheck (x : Ext) (s : State) (r : Option Src) (ls : List Nat) (retag : Bool) : R Unit := do
  let g := hiField x
  match ls.filter (fun l => decide (1023 < accIdx x s r l)) with
  | l :: fs => trap 0x0F (BitVec.ofNat 64 (g + accIdx x s r l * 2 ^ 16)) (maskOf (l :: fs))
  | [] => .ok ()
  if !ls.isEmpty && s.cc.regOwn.get? g != some s.bolt.panel then trap 0x0F (regAddr g false) (maskOf ls)
  if !ls.isEmpty && !retag && s.cc.regTag g != x.fmt then
    trap 0x06 (regAddr g false + BitVec.ofNat 64 (7 * 2 ^ 16)) (maskOf ls)
  if !ls.isEmpty && s.regInUse s.cur.core g then retry s 10

/-- A read of an accumulator word: value, poison, and the state with a single-bit error corrected (R419). -/
def State.accRead (s : State) (core k : Nat) : BitVec 32 × Bool × State :=
  let c := s.core core
  let e := ones (c.accEcc.getD k 0)
  (c.acc.getD k 0, decide (2 ≤ e),
    if e = 1 then s.setCore core { c with accEcc := c.accEcc.erase k, corrected := c.corrected + 1 } else s)

/-- A write of an accumulator word forms new check bits. -/
def Core.accPut (c : Core) (k : Nat) (v : BitVec 32) : Core :=
  { c with acc := if v = 0 then c.acc.erase k else c.acc.set k v, accEcc := c.accEcc.erase k }

/-- `accrd` (R313). -/
def execAccrd (x : Ext) (s : State) : Out :=
  issue 0x1C5 x.len x false (fun s => do
    let srcs := srcsOf 0x1C5 x
    let ls ← s.ready x srcs [x.dst] false
    accCheck x s srcs.head? ls false
    let p ← s.takeUp x ls srcs [x.dst] false
    .ok (p.lanes.foldl (fun t l =>
      let r := t.accRead t.cur.core (1024 * hiField x + accIdx x p.pre srcs.head? l)
      r.2.2.write x.dst l x.cntN x.fmt (r.1.setWidth 64) r.2.1) p.post)) s

/-- `accwr` (R313). -/
def execAccwr (x : Ext) (s : State) : Out :=
  issue 0x1C6 x.len x false (fun s => do
    let srcs := srcsOf 0x1C6 x
    let ls ← s.ready x srcs [] false
    let live := s.liveLanes x ls
    let ix := srcs.find? (fun r => r.pos == 2)
    accCheck x s ix live (x.modN == 1)
    let p ← s.takeUp x ls srcs [] false
    let g := hiField x
    let t := live.foldl (fun t l => t.modCore t.cur.core (fun c =>
      c.accPut (1024 * g + accIdx x p.pre ix l) ((p.opnd 1 l).val.setWidth 32))) p.post
    .ok (if x.modN = 1 && !live.isEmpty then t.modCore t.cur.core (fun c =>
      { c with regS32 := if x.fmt == .s32 then c.regS32.set g true else c.regS32.erase g }) else t)) s

/-! ### mma, mmac, accst at issue -/

/-- The lowest active lane's operand of a form that acts once (R311, R314). -/
def onceOpnd (s : State) (srcs : List Src) (ls : List Nat) (pos : Nat) : Word :=
  match srcs.find? (fun r => r.pos == pos) with
  | some r => (s.opnd r (ls.headD 0)).val
  | none => 0

/-- The panel of the issuing panel's group on the follower core (R300). -/
def State.farPanel (s : State) : Option (Nat × Nat) :=
  if s.cur.core % 2 = 1 then none else s.groupPanel s.cur.core s.bolt.panel (s.shownCore s.cur.core s.bolt.panel % 8 + 1)

/-- The checks of `mma` and `mmac`, in the order of R311, up to the barrier's. -/
def mmaCheck (x : Ext) (s : State) (o : MxOp) (m : Mask) : R Unit := do
  let far := s.farPanel
  if descBad o.desc o.afmt (o.kind == 1) o.ck then trap 0x2D o.desc m
  if o.pair && s.cur.core % 2 == 1 then trap 0x2E 1 m
  if o.pair && far.isNone then trap 0x2E 2 m
  match strangers s.cc.trayOwn s.bolt.panel o.trays with
  | t :: _ => trap 0x0E (regAddr t false) m
  | [] => .ok ()
  match far with
  | some (fc, fp) => match strangers (s.core fc).trayOwn fp o.farTrays with
    | t :: _ => trap 0x0E (regAddr t true) m
    | [] => .ok ()
  | none => .ok ()
  if s.cc.regOwn.get? o.region != some s.bolt.panel then trap 0x0F (regAddr o.region false) m
  match far with
  | some (fc, fp) => if o.pair && (s.core fc).regOwn.get? o.region != some fp then trap 0x0F (regAddr o.region true) m
  | none => .ok ()
  let want : Tag := if o.afmt == .s8x4 then .s32 else .f32
  if s.cc.regTag o.region != want then trap 0x06 (regAddr o.region false + 0x70000) m
  match far with
  | some (fc, _) => if o.pair && (s.core fc).regTag o.region != want then trap 0x06 (regAddr o.region true + 0x70000) m
  | none => .ok ()
  if (o.afmt == .pb2x2 || tagOfCode (dBfmt o.desc) == .pb2x2)
      && s.cc.psOwner.isSome && s.cc.psOwner != some s.bolt.launch then
    trap 0x23 (BitVec.ofNat 64 x.a.toNat) m

/-- The copies into the trays of an operation that have not landed (R298). -/
def fillsOf (s : State) (core : Nat) (ts : List Nat) : List (Nat × Nat) :=
  ((s.core core).copies.filter (fun k => match k.tray with | some t => ts.contains t | none => false)).map
    (fun k => (core, k.id))

/-- An operation is accepted into the current core's queue. -/
def acceptMx (s : State) (o : MxOp) : State :=
  let (id, s) := s.takeOp (4 * s.cur.core + 2)
  s.modCore s.cur.core (fun c => { c with mxq := c.mxq ++ [{ o with id := id }] })

/-- The waits of an issue: the queue, the slaved follower, and for a pair operation the one that serves the follower
now (R298, R300, R311). -/
def mxWait (s : State) (pair : Bool) : Bool :=
  decide (8 ≤ s.cc.mxq.length) || !(s.slaving s.cur.core).isEmpty || (pair && s.cc.mxq.any (·.pair))

/-- The fields that every operation takes from its issue. -/
def mxOpOf (x : Ext) (s : State) (kind region : Nat) : MxOp :=
  { id := 0, kind := kind, afmt := x.fmt, region := region, rnd := x.rnd, bar := barOf x, panel := s.bolt.panel
    launch := s.bolt.launch, ten := s.bolt.ten, stg := s.bolt.stage, after := s.serial }

/-- `mma` and `mmac` at issue (R311). -/
def mmaBody (opc : Nat) (x : Ext) (s : State) : R State := do
  let srcs := srcsOf opc x
  let ls ← s.ready x srcs [] false
  match s.liveLanes x ls with
  | [] => do
    let p ← s.takeUp x ls srcs [] false
    .ok p.post
  | _ => do
    let o : MxOp := { mxOpOf x s (if opc == 0x1C3 then 0 else 1) (x.immF 10 6) with
      desc := onceOpnd s srcs ls 2, ta := x.immF 16 6, pair := x.mod.getLsbD 0, ck := opc == 0x1C3 && x.mod.getLsbD 1 }
    mmaCheck x s o (s.failMask x ls)
    let t ← issueBar s x (barOf x) 1
    if mxWait s o.pair then retry s 10
    let p ← t.takeUp x ls srcs [] false
    .ok (acceptMx p.post { o with fills := fillsOf s s.cur.core o.trays
        ++ (match s.farPanel with | some f => fillsOf s f.1 o.farTrays | none => []) })

/-- `mma` (R311). -/
def execMma (x : Ext) (s : State) : Out := issue 0x1C3 x.len x false (mmaBody 0x1C3 x) s
/-- `mmac` (R305, R311). -/
def execMmac (x : Ext) (s : State) : Out := issue 0x1C4 x.len x false (mmaBody 0x1C4 x) s

/-- Bytes of a row of `accst` (R314). -/
def rowBytes (t : Tag) : Nat := if t == .f32 || t == .s32 then 128 else 64

/-- The address checks of `accst` (R314). -/
def accstCheck (s : State) (a p : Word) (t : Tag) (m : Mask) : R Unit := do
  let span := 31 * p.toNat + rowBytes t
  let x := winOff a
  if a.toNat % 16 ≠ 0 then trap 0x0A a m
  if p.toNat % 16 ≠ 0 ∨ p.toNat < rowBytes t then trap 0x0A p m
  match winOf a with
  | 0 => if 2 ^ 56 < a.toNat + span then trap 0x0B a m else .ok ()
  | 2 => if 0x400000 < x + span then trap 0x0B a m else if s.panel.scrSize < x + span then trap 0x0D a m else .ok ()
  | 3 =>
    if 0x2000000 < x + span then trap 0x0B a m
    else match s.groupPanel s.cur.core s.bolt.panel (x / 0x400000) with
      | some (c, q) => if (s.panelAt c q).scrSize < x % 0x400000 + span then trap 0x0D a m else .ok ()
      | none => trap 0x0D a m
  | _ => trap 0x0B a m

/-- `accst` at issue (R314). -/
def execAccst (x : Ext) (s : State) : Out :=
  issue 0x1C8 x.len x false (fun s => do
    let srcs := srcsOf 0x1C8 x
    let ls ← s.ready x srcs [] false
    match s.liveLanes x ls with
    | [] => do
      let p ← s.takeUp x ls srcs [] false
      .ok p.post
    | _ => do
      let m := s.failMask x ls
      let a := onceOpnd s srcs ls 1
      let g := hiField x
      accstCheck s a (onceOpnd s srcs ls 2) x.fmt m
      if s.cc.regOwn.get? g != some s.bolt.panel then trap 0x0F (regAddr g false) m
      if s.cc.regTag g != (if x.fmt == .s32 then .s32 else .f32) then trap 0x06 (regAddr g false + 0x70000) m
      let t ← issueBar s x (barOf x) 1
      if mxWait s false then retry s 10
      let p ← t.takeUp x ls srcs [] false
      .ok (acceptMx p.post { mxOpOf x s 2 g with
        dst := s.placeOf 0 a, pitch := (onceOpnd s srcs ls 2).toNat, wrec := x.imm.getLsbD 5 })) s

/-! ### The engine's steps (R298 to R306, R312, R314, R315) -/

def MxOp.who (o : MxOp) (core : Nat) : Who := { core := core, ten := o.ten, launch := o.launch, stg := o.stg }

/-- The operation has performed its last step in the array; an `accst` when it has read its region. -/
def MxOp.stepped (o : MxOp) : Bool := o.started && (o.kind == 2 || decide (dKS o.desc < o.step))

/-- The operation is over, but for its retirement. -/
def MxOp.over (o : MxOp) : Bool := o.started && (if o.kind = 2 then decide (32 ≤ o.step) else decide (dKS o.desc < o.step))

def State.setMx (s : State) (core : Nat) (o : MxOp) : State :=
  s.modCore core (fun c => { c with mxq := c.mxq.map (fun q => if q.id == o.id then o else q) })

/-- The next operation to start: the first not started, every earlier one stepped and naming another region. -/
def Core.nextMx (c : Core) : Option MxOp :=
  let before := c.mxq.takeWhile (·.started)
  match c.mxq.drop before.length with
  | [] => none
  | o :: _ => if before.all (fun q => q.stepped && q.region != o.region) then some o else none

/-- An operation with a PB2 operand. -/
def MxOp.pb (o : MxOp) : Bool := o.kind != 2 && (o.afmt == .pb2x2 || tagOfCode (dBfmt o.desc) == .pb2x2)

/-- The leaders as they stood at the start. -/
def MxOp.lead (o : MxOp) (i : Nat) : BitVec 32 := o.table.getD i (Fp.defaultLeader i)

/-- The A operand on a core, and the B operand, with their scale trays. -/
def MxOp.sideA (o : MxOp) (c : Core) : Mx.Side :=
  { tray := c.tray, base := 4096 * o.ta, fmt := o.afmt, scale := if dSC o.desc then some (4096 * dTS o.desc, 0) else none }
def MxOp.sideB (o : MxOp) (c : Core) : Mx.Side :=
  { tray := c.tray, base := 4096 * dTB o.desc, fmt := tagOfCode (dBfmt o.desc)
    scale := if dSC o.desc then some (4096 * dTS o.desc, 256) else none }

/-- The checksum operands (R306): the row of column sums of A, the column of row sums of B. -/
def MxOp.checks (o : MxOp) (c : Core) : List Nat × List Nat :=
  let ks := List.range ((dKS o.desc + 1) * Mx.kc o.afmt)
  let a := o.sideA c
  let b := o.sideB c
  (ks.map (fun k => Mx.roundSum ((List.range (dMR o.desc)).map (fun i => a.at o.lead i k))),
   ks.map (fun k => Mx.roundSum ((List.range (dNC o.desc)).map (fun n => b.at o.lead n k))))

/-- An operation ends: its barrier, its record, its holds, and its place in the queue (R315). -/
def endMx (s : State) (core : Nat) (o : MxOp) (status : Nat) : State :=
  let s := s.modCore core (fun c => { c with mxq := c.mxq.filter (fun q => q.id != o.id) })
  let s := (s.unhold (opKey 1 core o.id) (fun _ => false)).engineStatus o.launch status
  let s := s.barEnd core o.panel o.bar (status != 0)
  if status = 0 && !o.wrec then s
  else s.postDone (0x10 + o.kind) status core o.id o.launch (if o.kind = 2 then rowBytes o.afmt * o.step else o.step)

/-- The rows of an `accst` from one on: address and bytes. -/
def accstRows (o : MxOp) (from_ : Nat) : List (Nat × Nat) :=
  match o.dst with
  | .glob va => (List.range (32 - from_)).map (fun i => (va.toNat + (from_ + i) * o.pitch, rowBytes o.afmt))
  | .scr _ _ => []

/-- The words of a region. -/
def regionWords (g : Nat) : List Nat := (List.range 1024).map (1024 * g + ·)

/-- Single-bit errors of accumulator words are corrected. -/
def State.accFix (s : State) (core : Nat) (ks : List Nat) : State :=
  let c := s.core core
  let fix := ks.filter (fun k => ones (c.accEcc.getD k 0) = 1)
  if fix.isEmpty then s
  else s.setCore core { c with accEcc := ⟨c.accEcc.ents.filter (fun e => !fix.contains e.1)⟩
                               corrected := c.corrected + fix.length }

def Core.accBad (c : Core) (ks : List Nat) : Bool := !c.accEcc.ents.isEmpty && ks.any (fun k => decide (2 ≤ ones (c.accEcc.getD k 0)))

/-- A tray word that an operand's first `rows` rows read in a K-step, its scales among them (R295, R296, R305, R306). -/
def Mx.Side.reads (d : Mx.Side) (rows step w : Nat) : Bool :=
  let n := Mx.stepBytes d.fmt
  let j := step * Mx.kc d.fmt / 64
  (decide (d.base + n * step ≤ w) && decide (w < d.base + n * step + n / 32 * rows))
    || (match d.scale with
      | some p => (List.range rows).any (fun i => w == p.1 + p.2 + (8 * i + j) / 4 * 4)
      | none => false)

/-- The rows of A, and the columns of B, that an operation reads (R305, R306). -/
def MxOp.rowsA (o : MxOp) : Nat := if o.ck then dMR o.desc else 32
def MxOp.rowsB (o : MxOp) : Nat := if o.ck then dNC o.desc else if o.kind = 1 then 16 else 32

/-- A K-step reads an uncorrectable word of an operand. -/
def sideBad (c : Core) (d : Mx.Side) (rows step : Nat) : Bool :=
  c.trayEcc.ents.any (fun e => decide (2 ≤ ones e.2) && d.reads rows step e.1)

/-- The single-bit errors of the tray words that a step of an operand reads are corrected (R419). -/
def State.trayFix (s : State) (core : Nat) (d : Mx.Side) (rows step : Nat) : State :=
  let c := s.core core
  let fix := c.trayEcc.ents.filter (fun e => decide (ones e.2 = 1) && d.reads rows step e.1)
  if fix.isEmpty then s
  else (s.setCore core { c with trayEcc := ⟨c.trayEcc.ents.filter (fun e => !fix.contains e)⟩ }).correct core fix.length

/-- The queue's operation may start (R298, R299, R300, R237). -/
def canStartMx (s : State) (core : Nat) (o : MxOp) : Bool :=
  let c := s.core core
  !s.storesDue core o.after && (o.kind != 2 || o.held)
    && o.fills.all (fun f => !(s.core f.1).copies.any (fun k => k.id == f.2))
    && !(o.pb && (c.psRegen || (c.psOwner.isNone && !c.psBad.isEmpty)))
    && (!o.pair || (s.core (core + 1)).mxq.isEmpty)

/-- An `accst` in the queue is taken up once the stores before it are performed, whatever stands before it: its rows are
registered from then on (R30, R237, R238). -/
def MxOp.takes (s : State) (core : Nat) (o : MxOp) : Option State :=
  if o.kind != 2 || o.held || s.storesDue core o.after then none
  else (s.register (opKey 1 core o.id) (o.who core) (accstRows o 0)).map (fun t => t.setMx core { o with held := true })

/-- MATRIX_OP_START: an `accst` that can be is taken up, or the next operation starts (R298); an `accst` then reads its
region. -/
def execMatrixOpStart (core : Nat) (s : State) : Out :=
  let c := s.core core
  match c.mxq.findSome? (MxOp.takes s core), c.nextMx with
  | some t, _ => .next t
  | none, none => .next s
  | none, some o =>
    if o.pb && c.psOwner.isNone && !c.psBad.isEmpty && !c.psRegen then
      .next (s.modCore core (fun c => { c with psRegen := true }))
    else if !canStartMx s core o then .next s
    else if o.kind = 2 then
      if c.accBad (regionWords o.region) then .next (endMx s core o 5)
      else .next ((s.accFix core (regionWords o.region)).setMx core
        { o with started := true, rows := (regionWords o.region).map (fun k => c.acc.getD k 0) })
    else
      let o := { o with started := true, table := if o.pb then c.leaders else {} }
      if !o.ck then .next (s.setMx core o)
      else
        let steps := List.range (dKS o.desc + 1)
        let bad := steps.any (fun i => sideBad c (o.sideA c) o.rowsA i || sideBad c (o.sideB c) o.rowsB i)
        let t := if bad then s else steps.foldl (fun t i =>
          (t.trayFix core (o.sideA (t.core core)) o.rowsA i).trayFix core (o.sideB (t.core core)) o.rowsB i) s
        .next (t.setMx core { o with ack := (o.checks c).1, bck := (o.checks c).2, ckBad := bad })

/-- The operation that the array is working on. -/
def Core.stepping (c : Core) : Option MxOp := c.mxq.find? (fun o => o.started && o.kind != 2 && decide (o.step ≤ dKS o.desc))

/-- The cells that an operation writes: rows and columns (R305, R306). -/
def MxOp.cells (o : MxOp) : List (Nat × Nat) :=
  let r := if o.ck then dMR o.desc + 1 else 32
  let n := if o.ck then dNC o.desc + 1 else 32
  (List.range r).flatMap (fun i => (List.range n).map (fun j => (i, j)))

/-- The new value of a cell in a K-step: `c` its incoming value (R301, R303, R305, R306). -/
def MxOp.cell (o : MxOp) (a b : Mx.Side) (i j : Nat) (c : BitVec 32) : BitVec 32 :=
  let n := Mx.kc o.afmt
  let k0 := o.step * n
  let cin : BitVec 32 := if o.step = 0 && !dACC o.desc then 0 else c
  if o.afmt == .s8x4 then
    BitVec.ofInt 32 ((cin.toNat : Int) + (List.range n).foldl (fun (s : Int) k => s + a.int i (k0 + k) * b.int j (k0 + k)) 0)
  else
    let x (k : Nat) : Fp.Num := if o.ck && i == dMR o.desc then Fp.f32.decode (o.ack.getD k 0) else a.at o.lead i k
    let y (k : Nat) : Fp.Num := if o.ck && j == dNC o.desc then Fp.f32.decode (o.bck.getD k 0) else b.at o.lead j k
    let ps := if o.kind = 1 then
        (List.range (n / 2)).flatMap (fun q =>
          let k := k0 + 2 * q
          let ar := a.at o.lead i k
          let ai := a.at o.lead i (k + 1)
          let br := b.at o.lead (j / 2) k
          let bi := b.at o.lead (j / 2) (k + 1)
          if j % 2 = 0 then [Mx.mul ar br, (Mx.mul ai bi).neg] else [Mx.mul ar bi, Mx.mul ai br])
      else (List.range n).map (fun k => Mx.mul (x (k0 + k)) (y (k0 + k)))
    BitVec.ofNat 32 (Mx.windowSum (ps ++ [Fp.f32.decode cin.toNat]))

/-- One K-step's cells, all from the values before it, written to a core's region. -/
def MxOp.stepOn (o : MxOp) (a b : Mx.Side) (c : Core) : Core :=
  (o.cells.map (fun ij =>
    let k := 1024 * o.region + 32 * ij.1 + ij.2
    (k, o.cell a b ij.1 ij.2 (c.acc.getD k 0)))).foldl (fun c kv => c.accPut kv.1 kv.2) c

/-- The words that the step would read carry an uncorrectable error (R315), or a loaded leader does (R419). -/
def stepBad (s : State) (core : Nat) (o : MxOp) : Bool :=
  let c := s.core core
  let words := if o.step = 0 && !dACC o.desc then [] else o.cells.map (fun ij => 1024 * o.region + 32 * ij.1 + ij.2)
  sideBad c (o.sideA c) o.rowsA o.step || sideBad c (o.sideB c) o.rowsB o.step || c.accBad words
    || (o.pb && !c.psBad.isEmpty) || o.ckBad
    || (o.pair && (let f := s.core (core + 1); sideBad f (o.sideA f) o.rowsA o.step || f.accBad words))

/-- What a K-step of an operation corrects on a core: its A operand, and the region's words when it reads them. -/
def MxOp.fixOn (o : MxOp) (core : Nat) (s : State) : State :=
  let s := s.trayFix core (o.sideA (s.core core)) o.rowsA o.step
  if o.step = 0 && !dACC o.desc then s
  else s.accFix core (o.cells.map (fun ij => 1024 * o.region + 32 * ij.1 + ij.2))

/-- MATRIX_K_STEP: the array performs one K-step (R301, R312), charged to the tenancy (R317). -/
def execMatrixKStep (core : Nat) (s : State) : Out :=
  match (s.core core).stepping with
  | none => .next s
  | some o =>
    if stepBad s core o then .next s
    else
      let s := o.fixOn core (s.trayFix core (o.sideB (s.core core)) o.rowsB o.step)
      let s := if o.pair then o.fixOn (core + 1) s else s
      let c := s.core core
      let b := o.sideB c
      let t := s.setCore core (o.stepOn (o.sideA c) b c)
      let t := if o.pair then t.modCore (core + 1) (fun f => o.stepOn (o.sideA f) b f) else t
      .next ((t.setMx core { o with step := o.step + 1 }).charge o.ten 1 (if o.pair then 2 else 1))

/-- The end of an `accst` that has stopped at a missing page: Goloc ends its launch there, and it is cut off with status 1
(R283, R314). A cancel does not end it (R315). The reading is DEDUCED, log 92. -/
def accstCut (core : Nat) (s : State) : State :=
  match (s.core core).mxq.find? (fun o => o.page.isSome) with
  | some o => endMx s core o 1
  | none => s

/-- MATRIX_CUT_OFF: an uncorrectable error in what the next step reads ends the operation; every cell it would
write becomes a NaN, or 0 in an S32 region (R315). With no such error, Goloc ends the launch of a stopped `accst`. -/
def execMatrixCutOff (core : Nat) (s : State) : Out :=
  match (s.core core).stepping with
  | none => .next (accstCut core s)
  | some o =>
    if !stepBad s core o then .next (accstCut core s)
    else
      let v : BitVec 32 := if o.afmt == .s8x4 then 0 else 0x7FC00000
      let put (c : Core) : Core := o.cells.foldl (fun c ij => c.accPut (1024 * o.region + 32 * ij.1 + ij.2) v) c
      let s := s.modCore core put
      let s := if o.pair then s.modCore (core + 1) put else s
      .next (endMx s core o 5)

/-- The bytes of a row of an `accst`: the columns, narrowed where the form narrows (R314). -/
def rowData (o : MxOp) (i : Nat) : List Byte :=
  ((o.rows.drop (32 * i)).take 32).flatMap (fun v =>
    if rowBytes o.afmt = 128 then toLE v.toNat 4
    else toLE (Fp.round (Fp.ofTag o.afmt) o.rnd false (Fp.f32.decode v.toNat)).1 2)

/-- ACCST_ROW: the engine writes the next row of an `accst` (R314). -/
def execAccstRow (core : Nat) (s : State) : Out :=
  match (s.core core).mxq.find? (fun o => o.kind == 2 && o.started && o.page.isNone && decide (o.step < 32)) with
  | none => .next s
  | some o =>
    let key := opKey 1 core o.id
    let put : E State := match o.dst with
      | .glob va => match s.register key (o.who core) (accstRows o o.step) with
        | none => .error .busy
        | some t => engWrite t (o.who core) (va.toNat + o.step * o.pitch) (rowData o o.step)
      | .scr c off => .ok (s.scrWrite c (off + o.step * o.pitch) (rowData o o.step))
    match put with
    | .ok t =>
      let o := { o with step := o.step + 1 }
      let rest := engLines t (o.who core) (accstRows o o.step)
      .next ((t.setMx core o).unhold key (fun l => rest.contains l))
    | .error (.page va) => .next ((s.setMx core { o with page := some va }).post (.page 2 core o.id va))
    | .error (.cut st) => .next (endMx s core o st)
    | .error .busy => .next s

/-- ACCST_RESUME: the page is present (R314), and its lines are held where they can be (R238). -/
def execAccstResume (core : Nat) (s : State) : Out :=
  .next (match (s.core core).mxq.find? (fun o => o.page.isSome) with
    | some o =>
      let t := (s.setMx core { o with page := none }).spend o.ten
      (t.register (opKey 1 core o.id) (o.who core) (accstRows o o.step)).getD t
    | none => s)

/-- MATRIX_RETIRE: the oldest operation retires once it is over (R312, R315). -/
def execMatrixRetire (core : Nat) (s : State) : Out :=
  match (s.core core).mxq with
  | [] => .next s
  | o :: _ => .next (if o.over then endMx s core o 0 else s)

end Sys2Proof.Machine
end

