-- ==== Sys2Proof/Machine/Relocation.lean ====
section
/-! DEFINITION. The relocation class (R324 to R342): moves of tiles, sweeps of pointers, and pins. -/

namespace Sys2Proof.Machine

/-! ### The engine's places (R328, R336) -/

/-- The operations of a die's engine, in the order of their issue, that have entered one of its 40 places. -/
def State.relOn (s : State) (die : Nat) : List RelOp := s.rel.filter (fun r => r.die == die && r.entered)

/-- Free places of a die's engine. -/
def State.relFree (s : State) (die : Nat) : Nat := 40 - (s.relOn die).length

/-- The waiting operations of a die enter as places free, in order. -/
def State.enterRel (s : State) (die : Nat) : State :=
  let wait := ((s.rel.filter (fun r => r.die == die && !r.entered)).take (s.relFree die)).map (·.id)
  { s with rel := s.rel.map (fun r => if wait.contains r.id then { r with entered := true } else r) }

/-- The operation is one of the 8 that run. -/
def State.relRuns (s : State) (o : RelOp) : Bool := ((s.relOn o.die).take 8).any (fun r => r.id == o.id)

def State.relAt (s : State) (id : Nat) : Option RelOp := s.rel.find? (fun r => r.id == id)
def State.setRel (s : State) (o : RelOp) : State := { s with rel := s.rel.map (fun r => if r.id == o.id then o else r) }

/-- The keys of a move's holds: on X, and on Y. -/
def RelOp.keyX (o : RelOp) : Nat := opKey 3 o.die o.id
def RelOp.keyY (o : RelOp) : Nat := opKey 4 o.die o.id

def RelOp.who (o : RelOp) : Who := { core := o.core, ten := o.ten, launch := o.launch }

/-- M of a tile's entry set or cleared (R325). -/
def State.setM (s : State) (ten tile : Nat) (m : Bool) : State :=
  let e := s.tack ten tile
  let e0 := if tackM e then e - 2 ^ 62 else e
  s.setTack ten tile (if m then e0 + 2 ^ 62 else e0)

/-- The physical address of a tile by its leaf, no tack followed. -/
def State.tilePa (s : State) (ten tile : Nat) (p : Perm) : E Nat :=
  let va := s.tileAddr ten tile
  match s.walk ten va with
  | none => .error (.page (BitVec.ofNat 64 va))
  | some l =>
    let pa := l.pa + va % 2 ^ l.log
    if !l.allows p then .error (.cut 2)
    else if Config.hbmBytes < pa + 65536 then .error (.page (BitVec.ofNat 64 va))
    else .ok pa

/-- An operation of the engine ends: its place, its holds, its barrier or its delivery, its record (R330, R337,
R340). -/
def endRel (s : State) (o : RelOp) (status : Nat) : State :=
  let s := { s with rel := s.rel.filter (fun r => r.id != o.id) }
  let s := ((s.unhold o.keyX (fun _ => false)).unhold o.keyY (fun _ => false)).engineStatus o.launch status
  let cut := status != 0
  let s := if o.sweep then
      s.deliver o.dlv (BitVec.ofNat 64 ((if cut then 2 ^ 31 else 0) + (if o.long then 2 ^ 30 else 0) + o.rewritten % 2 ^ 20))
        .n32 0 false
    else s.barEnd o.core o.panel o.bar cut
  let s := if cut || (o.wrec && !o.sweep) then
      s.postDone (if o.sweep then 0x21 else 0x20) status o.core o.seq o.launch (if o.sweep then o.done else 128 * o.done)
    else s
  s.enterRel o.die

/-- A move that is cut off before its tack (R330): M is cleared in both entries. -/
def cutRel (s : State) (o : RelOp) (status : Nat) : State :=
  let s := if o.sweep then s else (s.setM o.ten o.x false).setM o.ten o.y false
  endRel s o status

/-- What becomes of an operation whose access does not go on. -/
def relStop (s : State) (o : RelOp) : EngStop → Out
  | .page va => .next ((s.setRel { o with page := some va }).post (.page 3 o.die o.id va))
  | .cut st => .next (cutRel s o st)
  | .busy => .next s

/-! ### relocate (R336) -/

/-- A fault of R342: sub-code, and the operand code of the failing position. -/
def relAddr (sub : Nat) (c : Code) : Word := BitVec.ofNat 64 (sub + c.toNat * 2 ^ 16)

/-- Translation of a tile's address, following no tack: the leaf, or the wait for a walk, or a cause of R208. -/
def tileLeaf (s : State) (p : Perm) (va : Nat) : R (Except Nat Leaf) :=
  if !(s.tenOf s.ten).rootEn || s.sw.bad.any (fun b => b.1 == va / 65536) then .ok (.error 0x08)
  else match (s.cc.tlbGet s.ten va).or (tlbFind s.sw.walked s.ten va) with
    | none => .error (.wait (.walk (BitVec.ofNat 64 va)) s)
    | some e =>
      .ok (if Config.hbmBytes < e.leaf.pa + va % 2 ^ e.leaf.log + 65536 then .error 0x08
        else if e.leaf.allows p then .ok e.leaf else .error 0x09)

/-- The leaves of every lane's tiles, and the translations that fail: cause and address. -/
def tileLeaves (s : State) : List (Nat × Word × Word) →
    R (List (Nat × Word × Word × Leaf × Leaf) × List (Nat × Word))
  | [] => .ok ([], [])
  | (l, a, b) :: r => do
    let x ← tileLeaf s .r a.toNat
    let y ← tileLeaf s .w b.toNat
    let t ← tileLeaves s r
    match x, y with
    | .ok u, .ok v => .ok ((l, a, b, u, v) :: t.1, t.2)
    | .ok _, .error d => .ok (t.1, (d, b) :: t.2)
    | .error c, .ok _ => .ok (t.1, (c, a) :: t.2)
    | .error c, .error d => .ok (t.1, (c, a) :: (d, b) :: t.2)

/-- A translation that fails is a fault of every lane: 0x08 before 0x09, at the lowest failing lane's address (R208). -/
def tileFault (m : Mask) (fs : List (Nat × Word)) : R Unit :=
  match fs with
  | [] => .ok ()
  | f :: _ => trap (fs.foldl (fun c g => min c g.1) 0xFF) f.2 m

/-- A lane of a `relocate`: its tiles' addresses and leaves. -/
abbrev Tiles := Nat × Word × Word × Leaf × Leaf

/-- The tile checks of R336 on one lane, among all the lanes, in the order they are made: whether it fails each. -/
def tileFails (s : State) (all : List Tiles) (q : Tiles) : List Bool :=
  let (l, a, b, lx, ly) := q
  let tx := s.tileOf s.ten a.toNat
  let ty := s.tileOf s.ten b.toNat
  let ex := (tx.map (s.tack s.ten)).getD 0
  let ey := (ty.map (s.tack s.ten)).getD 0
  let others := all.filter (fun r => r.1 != l)
  [tx.isNone || !lx.movable, tackPin ex != 0, tackT ex || tackM ex || others.any (fun r => r.2.1 == a || r.2.2.1 == a),
   ty.isNone || !ly.movable || tackT ey || tackM ey || tackIn ey != 0 || tackPin ey != 0 || others.any (fun r => r.2.2.1 == b),
   a == b, tackIn ex == 4]

/-- The fault of a tile check: 0x2F with its sub-code and its operand, or 0x18 with the source's address. -/
def tileTrap (x : Ext) (k : Nat) (a : Word) (lanes : Mask) : R Unit :=
  if k = 5 then trap 0x18 a lanes else trap 0x2F (relAddr (k + 1) (if k < 3 then x.a else x.b)) lanes

/-- The tile checks of every lane: the lowest lane that fails one gives the check, and the lanes that fail that check are
recorded (R6, R336). -/
def tileChecks (s : State) (x : Ext) (all : List Tiles) : R Unit :=
  match all.find? (fun q => (tileFails s all q).contains true) with
  | none => .ok ()
  | some q =>
    let k := (tileFails s all q).findIdx id
    tileTrap x k q.2.1 (s.failMask x ((all.filter (fun r => (tileFails s all r).getD k false)).map (·.1)))

/-- A move is made: step 1 of R328. -/
def addMove (s : State) (x : Ext) (a b : Word) : State :=
  let die := s.cur.core / Config.coresPerDie
  let tx := (s.tileOf s.ten a.toNat).getD 0
  let ty := (s.tileOf s.ten b.toNat).getD 0
  let (id, s) := s.takeOp 2000
  let (seq, s) := s.takeOp (1000 + die)
  let o : RelOp :=
    { id := id, seq := seq, die := die, core := s.cur.core, sweep := false, ten := s.ten, launch := s.bolt.launch
      panel := s.bolt.panel, x := tx, y := ty, holders := x.immF 8 12, bar := barOf x, wrec := x.imm.getLsbD 5
      after := s.serial, entered := false }
  { ((s.setM s.ten tx true).setM s.ten ty true) with rel := s.rel ++ [o] }

/-- `relocate` (R336): phase 11 waits until its last move has entered the engine, its identifier in `hold`. -/
def execRelocate (x : Ext) (s : State) : Out :=
  issue 0x1D0 x.len x false (fun s => do
    if s.sw.phase = 11 then
      if s.rel.any (fun r => r.id == s.sw.hold.toNat && !r.entered) then retry s 11 else .ok s
    else do
      let srcs := srcsOf 0x1D0 x
      let ls ← s.ready x srcs [] false
      let live := s.liveLanes x ls
      let m := s.failMask x ls
      let op (pos l : Nat) : Word := match srcs.find? (fun r => r.pos == pos) with
        | some r => (s.opnd r l).val
        | none => 0
      if !live.isEmpty && s.bolt.staged then trap 0x34 0x1D0 m
      let bad := live.flatMap (fun l => [op 1 l, op 2 l].flatMap (fun v =>
        if v.toNat % 65536 ≠ 0 then [(l, 0x0A, v)] else if winOf v ≠ 0 then [(l, 0x0B, v)] else []))
      copyCheck s x bad
      let q ← tileLeaves s (live.map (fun l => (l, op 1 l, op 2 l)))
      tileFault m q.2
      let qs := q.1
      tileChecks s x qs
      let t ← issueBar s x (barOf x) live.length
      let die := s.cur.core / Config.coresPerDie
      if !live.isEmpty && s.relFree die = 0 then retry s 11
      let p ← t.takeUp x ls srcs [] false
      let t := (qs.foldl (fun t q => addMove t x q.2.1 q.2.2.1) p.post).enterRel die
      match t.rel.getLast? with
      | some o =>
        if live.isEmpty || o.entered then .ok t
        else .error (.wait (.retry 11) (t.modSw (fun w => { w with phase := 11, hold := BitVec.ofNat 64 o.id
                                                                   ctx := maskOf ls })))
      | none => .ok t) s

/-- Every transaction whose sets hold a word of some physical bytes is doomed (R259, R328). -/
def State.doomRange (s : State) (lo n cause : Nat) : State :=
  let inside (w : Nat) : Bool := decide (lo ≤ w) && decide (w < lo + n)
  s.mapTx (fun _ _ _ t => if t.rd.any (fun r => inside r.1) || t.wrw.any inside then t.doomBy cause else t)

/-- The lines of Y are held, and every transaction on them is doomed (R328, step 2); none while that must wait. -/
def holdY (s : State) (o : RelOp) (py : Nat) : Option State :=
  let lines := linesOf py 65536
  if s.engWaits lines || !s.canHold o.keyY lines then none
  else some (((s.doomRange py 65536 5).setRel { o with yheld := true }).hold o.keyY lines)

/-- A transaction holds a line, or a commit has locked it (R260, R261). -/
def State.lineTx (s : State) (l : Nat) : Bool := (s.txLines (fun _ _ _ t => t.holds || t.locks)).contains l

/-- Another engine holds a line of the tile at `px`, an irrevocable transaction does, or a commit has locked it (R328,
step 2). -/
def State.lineOthers (s : State) (px : Nat) : Bool :=
  let inX (l : Nat) : Bool := decide (px ≤ l) && decide (l < px + 65536)
  s.holds.any (fun h => inX h.1) || (s.txLines (fun _ _ _ t => t.holds || t.locks)).any inX

/-- MOVE_START (R328, step 2). Where Y's page is missing, its lines are held once it is present (R330). -/
def execMoveStart (id : Nat) (s : State) : Out :=
  match s.relAt id with
  | none => .next s
  | some o =>
    if o.sweep || o.stage ≠ 0 || o.page.isSome || !s.relRuns o || s.storesDue o.core o.after then .next s
    else match s.tilePa o.ten o.x .r, s.tilePa o.ten o.y .w with
      | .error e, _ => relStop s o e
      | .ok _, .error (.cut st) => relStop s o (.cut st)
      | .ok px, y =>
        if s.lineOthers px then .next s
        else
          let t := s.doomRange px 65536 5
          let o := { o with stage := 1 }
          match y with
          | .ok py => .next ((holdY t o py).getD s)
          | .error _ => .next (t.setRel o)

/-- Step 4 of R328: the tack. The word of TIME that it stores takes no valid bit in the L2, for which the spec gives no
rule here (DESIGN CHOICE, log 84): it is read as the memory holds it. -/
def writeTack (s : State) (o : RelOp) : State :=
  let ex := s.tack o.ten o.x
  let ey := s.tack o.ten o.y
  let t := (s.tenOf o.ten).ttab
  let s := s.setTack o.ten o.x (2 ^ 63 + tackIn ex * 2 ^ 58 + o.y * 2 ^ 32 + o.holders * 2 ^ 16 + tackPin ex)
  let s := { s with mem := s.mem.writeN (t + 16 * o.x + 8) 8 s.hb.toNat }
  s.setTack o.ten o.y ((tackIn ex + 1) * 2 ^ 58 + tackTo ey * 2 ^ 32 + tackHold ey * 2 ^ 16 + tackPin ey)

/-- MOVE_LINE_COPY: the next line of X is taken, read, and written to Y; after the last the tack is written
(R328, steps 3 and 4), unless its entries cannot be read (R419). -/
def execMoveLineCopy (id : Nat) (s : State) : Out :=
  match s.relAt id with
  | none => .next s
  | some o =>
    if o.sweep || o.stage ≠ 1 || o.page.isSome then .next s
    else match s.tilePa o.ten o.x .r, s.tilePa o.ten o.y .w with
      | .error e, _ => relStop s o e
      | .ok _, .error e => relStop s o e
      | .ok px, .ok py =>
        let lx := px + 128 * o.done
        let ly := py + 128 * o.done
        if !o.yheld then .next ((holdY s o py).getD s)
        else if s.lineTx lx then .next s
        else
          let s := (wordsOf lx 128).foldl (fun s w => (s.l2Fill w o.ten).l2Correct w) s
          if (wordsOf lx 128).any s.l2Bad then .next (cutRel s o 5)
          else
            let s := s.hold o.keyX [lx]
            let s := (s.writeL2 ly (s.mem.bytes lx 128) 0xFF o.ten).unhold o.keyY (fun l => l != ly)
            let o := { o with done := o.done + 1 }
            if o.done < 512 then .next (s.setRel o)
            else if s.tackBad o.ten o.x || s.tackBad o.ten o.y then .next (cutRel s o 5)
            else .next ((writeTack s o).setRel { o with stage := 2 })

/-- The address that at most `fuel` tacks lead to from one of a tenancy; none when more exist (R331). -/
def followTacks (s : State) (ten : Nat) : Nat → Nat → Option Nat
  | 0, va => match s.tileOf ten va with
    | some t => if tackT (s.tack ten t) then none else some va
    | none => some va
  | fuel + 1, va => match s.tileOf ten va with
    | some t =>
      let e := s.tack ten t
      if tackT e then followTacks s ten fuel (s.tileAddr ten (tackTo e) + va % 65536) else some va
    | none => some va

/-- A store, and a load, that waited at a line of X, from `px` on, is translated again (R329). -/
def PStore.moved (s : State) (px : Nat) (p : PStore) : PStore :=
  if px ≤ p.pa ∧ p.pa < px + 65536 then p.placed s else p
def Delivery.moved (s : State) (px : Nat) (d : Delivery) : Delivery :=
  match d.bring with
  | .load pa _ _ _ _ _ => if px ≤ pa ∧ pa < px + 65536 then d.placed s else d
  | _ => d

/-- Bytes by address, those of a tile at its new place. -/
def movedTab {α : Type} (xa ya : Nat) (t : Tab α) : Tab α :=
  let inX (k : Nat) : Bool := decide (xa ≤ k % 2 ^ 64) && decide (k % 2 ^ 64 < xa + 65536)
  t.ents.foldl (fun t e => if inX e.1 then (t.erase e.1).set (e.1 - xa + ya) e.2 else t) t

/-- What a launch has staged in a tile goes with the tile (R329, R412), to where its tacks now end. -/
def Launch.moved (xa ya : Nat) (l : Launch) : Launch :=
  { l with stgA := movedTab xa ya l.stgA, stgB := movedTab xa ya l.stgB, stgCore := movedTab xa ya l.stgCore
           stgEcc := movedTab xa ya l.stgEcc }

/-- The accesses that waited at X, whose lines are from `px` on, go on at their new places. -/
def redirect (ten xa ya : Nat) (px : Option Nat) (s : State) : State :=
  let za := (followTacks s ten 5 ya).getD ya
  let s := { s with launches := s.launches.map (fun l => if l.ten = ten then l.moved xa za else l) }
  match px with
  | none => s
  | some px =>
    let t := s.mapCores (fun c => { c with stq := c.stq.map (PStore.moved s px) })
    { t with dlv := s.dlv.map (Delivery.moved s px) }

/-- MOVE_SHOOTDOWN_COMPLETE: translations of X are dropped, its lines released, and the move retires (R328,
steps 5 to 7). -/
def execMoveShootdownComplete (id : Nat) (s : State) : Out :=
  match s.relAt id with
  | none => .next s
  | some o =>
    if o.sweep || o.stage ≠ 2 then .next s
    else
      let xa := s.tileAddr o.ten o.x
      let s := s.dropTlb (fun e => e.ten == o.ten && e.base == xa)
      let px := (s.holds.find? (fun h => h.2 == o.keyX)).map (fun h => h.1 / 65536 * 65536)
      let s := redirect o.ten xa (s.tileAddr o.ten o.y) px s
      .next (endRel s o 0)

/-- MOVE_CUT_OFF: a cancel, or Goloc, ends a move before its tack, or a sweep (R330, R337). -/
def execMoveCutOff (id status : Nat) (s : State) : Out :=
  .next (match s.relAt id with
    | some o => if status = 0 || o.stage = 2 then s else cutRel s o status
    | none => s)

/-- MOVE_RESUME: the page is present (R330). -/
def execMoveResume (id : Nat) (s : State) : Out :=
  .next (match s.relAt id with
    | some o => if o.sweep then s else (s.setRel { o with page := none }).spend o.ten
    | none => s)

/-! ### unpick (R337) -/

/-- `unpick` at issue. -/
def execUnpick (x : Ext) (s : State) : Out :=
  issue 0x1D1 x.len x false (fun s => do
    let srcs := srcsOf 0x1D1 x
    let ls ← s.ready x srcs [x.dst] false
    let op (pos : Nat) : Option Word := (srcs.find? (fun r => r.pos == pos)).map (fun r => (s.opnd r 0).val)
    let p := (op 1).getD 0
    let k := ((op 2).getD 0).toNat % 2 ^ 32
    let die := s.cur.core / Config.coresPerDie
    match s.liveLanes x ls with
    | [] => do
      let q ← s.takeUp x ls srcs [x.dst] false
      .ok (q.lanes.foldl (fun t l => t.write x.dst l x.cntN .n32 0) q.post)
    | _ => do
      if s.bolt.staged then trap 0x34 0x1D1 s.sw.mask
      if p.toNat % 8 ≠ 0 then trap 0x0A p s.sw.mask
      let inGlob := winOf p = 0 ∧ p.toNat + 8 * k ≤ 2 ^ 56
      let inScr := winOf p = 2 ∧ winOff p + 8 * k ≤ s.panel.scrSize
      if (¬ inGlob ∧ ¬ inScr) ∨ k = 0 ∨ 2 ^ 20 - 1 < k then trap 0x0B p s.sw.mask
      if s.relFree die = 0 then retry s 11
      let q ← s.takeUp x ls srcs [x.dst] false
      let dlv := q.post.serial
      let t := q.post.owe x.dst 0 x.cntN .n32 none false false (.await .n32)
      let (id, t) := t.takeOp 2000
      let (seq, t) := t.takeOp (1000 + die)
      let o : RelOp :=
        { id := id, seq := seq, die := die, core := s.cur.core, sweep := true, ten := s.ten, launch := s.bolt.launch
          panel := s.bolt.panel, arr := s.placeOf 0 p, n := k
          tile := (op 3).bind (fun v => s.tileOf s.ten v.toNat), dlv := dlv, after := s.serial }
      .ok { t with rel := t.rel ++ [o] }) s

/-- An entry that `followTacks` reads has an error that cannot be corrected (R419). -/
def tacksBad (s : State) (ten : Nat) : Nat → Nat → Bool
  | 0, va => match s.tileOf ten va with
    | some t => s.tackBad ten t
    | none => false
  | fuel + 1, va => match s.tileOf ten va with
    | some t => s.tackBad ten t
        || (tackT (s.tack ten t) && tacksBad s ten fuel (s.tileAddr ten (tackTo (s.tack ten t)) + va % 65536))
    | none => false

/-- A word of the swept array, and the state with its error corrected. -/
def sweepRead (s : State) (o : RelOp) : E (Nat × State) :=
  match o.arr with
  | .glob va => do
    let r ← engRead s o.who (va.toNat + 8 * o.done) 8
    .ok (ofLE r.1, r.2)
  | .scr c off => do
    let r ← engScr s c (off + 8 * o.done) 8
    .ok (ofLE r.1, r.2)

/-- A swept word is rewritten. -/
def sweepWrite (s : State) (o : RelOp) (v : Nat) : E State :=
  match o.arr with
  | .glob va => engWrite s o.who (va.toNat + 8 * o.done) (toLE v 8)
  | .scr c off => .ok (s.scrWrite c (off + 8 * o.done) (toLE v 8))

/-- The sweep is over: HOLD of its tile falls, and the result is delivered. -/
def endSweep (s : State) (o : RelOp) : State :=
  let s := match o.tile with
    | none => s
    | some t =>
      let e := s.tack o.ten t
      if tackHold e = 0 then s else s.setTack o.ten t (e - 2 ^ 16)
  endRel s o 0

/-- UNPICK_SWEEP_WORD: the sweep's next word (R337). -/
def execUnpickSweepWord (id : Nat) (s : State) : Out :=
  match s.relAt id with
  | none => .next s
  | some o =>
    if !o.sweep || o.page.isSome || !s.relRuns o || s.storesDue o.core o.after then .next s
    else
      let step : E (RelOp × State) := do
        let r ← sweepRead s o
        if tacksBad s o.ten 4 r.1 then .error (.cut 5)
        else match s.tileOf o.ten r.1 with
        | none => .ok (o, r.2)
        | some t =>
          if !tackT (s.tack o.ten t) then .ok (o, r.2)
          else match followTacks s o.ten 4 r.1 with
            | none => .ok ({ o with long := true }, r.2)
            | some w => do
              let t ← sweepWrite r.2 o w
              .ok ({ o with rewritten := o.rewritten + 1 }, t)
      match step with
      | .error e => relStop s o e
      | .ok (o, t) =>
        let o := { o with done := o.done + 1, stage := 1 }
        .next (if o.done = o.n then endSweep t o else t.setRel o)

/-- UNPICK_RESUME: the page is present (R337). -/
def execUnpickResume (id : Nat) (s : State) : Out :=
  .next (match s.relAt id with
    | some o => if o.sweep then (s.setRel { o with page := none }).spend o.ten else s
    | none => s)

/-! ### tackq (R338) -/

/-- The tacks followed from an address: where it ends, the hops, whether a fifth exists, and whether every
translation was in the TLB. -/
def tackWalk (s : State) : Nat → Nat → Nat → Bool → Nat × Nat × Bool × Bool
  | 0, va, hops, hit => (va, hops, true, hit)
  | fuel + 1, va, hops, hit =>
    let h := hit && (s.cc.tlbGet s.ten va).isSome
    match s.fill s.ten va with
    | some e => match e.tack with
      | some t => if hops = 4 then (va, hops, true, h)
                  else tackWalk s fuel (s.tileAddr s.ten t + va % 65536) (hops + 1) h
      | none => (va, hops, false, h)
    | none => (va, hops, false, h)

/-- The address lies in a movable tile (R324). -/
def State.movableAt (s : State) (ten va : Nat) : Option Nat :=
  match s.tileOf ten va, s.walk ten va with
  | some t, some l => if l.movable then some t else none
  | _, _ => none

/-- The value of `tackq` for an address, and whether it is in hand. -/
def tackqVal (x : Ext) (s : State) (ea : Word) : Word × Bool :=
  if winOf ea ≠ 0 then (if x.modN = 0 then ea else 0, true)
  else
    let (va, hops, long, hit) := tackWalk s 6 ea.toNat 0 true
    if x.modN = 0 then (BitVec.ofNat 64 va, hit)
    else
      let e := match s.movableAt s.ten va with | some t => s.tack s.ten t | none => 0
      (BitVec.ofNat 64 (tackIn e * 2 ^ 24 + hops * 2 ^ 20 + (if long then 2 ^ 19 else 0)
        + (if (s.movableAt s.ten ea.toNat).isSome then 2 ^ 18 else 0) + (if hops ≠ 0 then 2 ^ 17 else 0)
        + (if tackM e then 2 ^ 16 else 0) + tackPin e), hit)

/-- `tackq` (R338). -/
def execTackq (x : Ext) (s : State) : Out :=
  issue 0x1D2 x.len x false (fun s => do
    let p ← s.prep x (srcsOf 0x1D2 x) [x.dst] (x.modN == 0)
    let tag : Tag := if x.modN = 0 then .n64 else .n32
    .ok (p.lanes.foldl (fun t l =>
      let ea := (p.opnd 1 l).val + memOff 0x1D2 x
      let r := tackqVal x p.pre ea
      let t := if r.2 then t else t.walkFill t.ten ea.toNat
      if r.2 then t.write x.dst l x.cntN tag r.1
      else t.owe x.dst l x.cntN tag (if x.g then none else some l) false false (.value r.1 tag 0 false)) p.post)) s

/-! ### pin and unpin (R333, R339) -/

/-- The movable tile that a lane's access ends in: none where a pin changes nothing. -/
def pinTile (s : State) (a : Acc) : Option Nat := if winOf a.va = 0 then s.movableAt s.ten a.za else none

/-- The bolt's pins on a tile changed by one lane's pin or unpin; none past a limit of R339. -/
def pinOne (add : Bool) (s : State) (t : Nat) : Option State :=
  let b := s.bolt
  let n := ((b.pins.find? (fun p => p.1 == t)).map Prod.snd).getD 0
  let rest := b.pins.filter (fun p => p.1 != t)
  if add then
    if (n = 0 ∧ 8 ≤ rest.length) ∨ 65535 ≤ tackPin (s.tack s.ten t) then none
    else some ((s.addPin s.ten t (· + 1)).modBolt (fun b => { b with pins := rest ++ [(t, n + 1)] }))
  else if n = 0 then none
  else some ((s.addPin s.ten t (· - 1)).modBolt (fun b => { b with pins := if n = 1 then rest else rest ++ [(t, n - 1)] }))

/-- Every lane's pin or unpin, by lane and tile, ascending: the state, and the lanes that fail. -/
def pinAll (add : Bool) (ts : List (Nat × Nat)) (s : State) : State × List Nat :=
  ts.foldl (fun r t => match pinOne add r.1 t.2 with
    | some u => (u, r.2)
    | none => (r.1, r.2 ++ [t.1])) (s, [])

/-- The address that a lane has reached. -/
def reached (a : Acc) : Word := if winOf a.va = 0 then BitVec.ofNat 64 a.za else a.va

/-- `pin` and `unpin` (R339). A tile that moves, or whose tack the core's TLB does not show yet, is waited for (R333). -/
def pinBody (opc : Nat) (add : Bool) (x : Ext) (s : State) : R State := do
  let srcs := srcsOf opc x
  let dsts := if add && x.cntN != 0 then [x.dst] else []
  let ls ← s.ready x srcs dsts true
  let live := s.liveLanes x ls
  let q : Ask := { size := 1, perm := .r }
  let m ← memPhase opc x q s live
  let tiles := m.2.1.filterMap (fun a => (pinTile s a).map (fun t => (a.lane, t)))
  if tiles.any (fun t => tackM (s.tack s.ten t.2) || tackT (s.tack s.ten t.2)) then retry s 8
  let fin := ls.filter (fun l => !m.2.2.2.any (fun u => u.1 == l))
  let p ← m.1.takeUp x fin srcs dsts true
  let r := pinAll add tiles p.post
  if !r.2.isEmpty then trap 0x2F (relAddr (if add then 7 else 6) x.a) (s.failMask x r.2)
  let val (l : Nat) : Word := match m.2.1.find? (fun a => a.lane == l) with
    | some a => reached a
    | none => (p.opnd 1 l).val + memOff opc x
  let t := if dsts.isEmpty then r.1 else fin.foldl (fun t l => t.write x.dst l x.cntN .n64 (val l)) r.1
  memEnd s x m.2.2.2 fin t

/-- `pin` (R339). -/
def execPin (x : Ext) (s : State) : Out := issue 0x1D3 x.len x false (pinBody 0x1D3 true x) s
/-- `unpin` (R339). -/
def execUnpin (x : Ext) (s : State) : Out := issue 0x1D4 x.len x false (pinBody 0x1D4 false x) s

end Sys2Proof.Machine
end

