-- ==== Sys2Proof/Machine/Collective.lean ====
section
/-! DEFINITION. The collective class (R346 to R367): the link table and its flooding, the derivation of the
trees, chunks and notches, the exchange after a failure, and the four instructions. -/

namespace Sys2Proof.Machine

/-! ### The link table (R346 to R349) -/

/-- The word of `CL.LINK[j]` (R346). -/
def Link.word (l : Link) : Word :=
  BitVec.ofNat 64 ((if l.up then 2 ^ 31 else 0) + (if l.fail then 2 ^ 30 else 0) + l.peerdev % 256 * 2 ^ 16
    + l.peerlink % 32 * 2 ^ 8 + (if l.en then 1 else 0))

def wEn (w : Word) : Bool := w.getLsbD 0
def wFail (w : Word) : Bool := w.getLsbD 30
def wPeer (w : Word) : Nat × Nat := (w.toNat / 2 ^ 16 % 256, w.toNat / 2 ^ 8 % 32)

def Dom.link (d : Dom) (j : Nat) : Link := d.links.getD j {}
def Dom.ownRow (d : Dom) : List Word := (List.range Config.links).map (fun j => (d.link j).word)

/-- A device's row of the table; the own row is the registers. -/
def Dom.row (d : Dom) (dev : Nat) : Option (List Word) := if dev = d.self then some d.ownRow else d.rows.get? dev
def Dom.entry (d : Dom) (dev j : Nat) : Option Word := (d.row dev).bind (fun r => r[j]?)

def Dom.devices (d : Dom) : List Nat := List.range (d.size + 1)

/-- The far end of a link, when the two rows name each other (R347). -/
def Dom.mate (d : Dom) (dev j : Nat) : Option (Nat × Nat) :=
  match d.entry dev j with
  | none => none
  | some w =>
    let p := wPeer w
    match d.entry p.1 p.2 with
    | some w' => if p.1 ≠ dev ∧ wPeer w' = (dev, j) then some p else none
    | none => none

/-- The entry belongs to an edge (R347). -/
def Dom.live (d : Dom) (dev j : Nat) : Bool :=
  match d.entry dev j, d.mate dev j with
  | some w, some p => match d.entry p.1 p.2 with
    | some w' => wEn w && wEn w' && !wFail w && !wFail w'
    | none => false
  | _, _ => false

/-- The link ends that the table marks as failed (R349, R372). -/
def Dom.failures (d : Dom) : List (Nat × Nat) :=
  d.devices.flatMap (fun dev => (List.range Config.links).filterMap (fun j =>
    match d.entry dev j with
    | some w => if wFail w then some (dev, j) else none
    | none => none))

def Dom.version (d : Dom) : BitVec 32 := BitVec.ofNat 32 (d.epoch % 65536 * 65536 + d.nfail % 65536)

/-- The rows that the device holds. -/
def Dom.table (d : Dom) : List (Nat × List Word) :=
  d.devices.filterMap (fun dev => (d.row dev).map (fun r => (dev, r)))

def State.modDom (s : State) (f : Dom → Dom) : State := { s with dom := f s.dom }

/-- The links over which messages of the domain go: enabled, trained and not failed. -/
def Dom.neighbours (d : Dom) : List Nat :=
  (List.range Config.links).filter (fun j => (d.link j).en && (d.link j).up && !(d.link j).fail)

/-- The 256-byte flits of a message: those of its body, and one at least (R348). The bodies of the spec's messages hold
data, table rows of 144 bytes, link ends and chunk numbers of 2 bytes each. -/
def Post.flits (p : Post) : Nat :=
  let n : Nat := match p with
    | .partialMsg _ _ _ bs => bs.length
    | .resultMsg _ _ _ bs => bs.length
    | .table _ _ rows => 144 * rows.length
    | .exchUp _ _ failed final => 2 * (failed.length + final.length)
    | .exchDown _ _ failed final => 2 * (failed.length + final.length)
    | _ => 0
  max 1 ((n + 255) / 256)

/-- A message goes out on a link: each flit is charged to the domain's tenancy (R365, R466), and waits to be acknowledged
(R348). -/
def State.send (s : State) (link : Nat) (p : Post) : State :=
  ((s.post p).charge s.dom.ten 3 (256 * p.flits)).modDom (fun d =>
    { d with unack := d.unack.set link (d.unack.getD link 0 + p.flits) })

/-- The flits that a live link has sent may be acknowledged. -/
def Dom.ackDue (d : Dom) (link : Nat) : Bool := (d.link link).up && !(d.link link).fail && d.unack.getD link 0 != 0

/-- The other end acknowledges what a link has sent: a sample for each flit (R442). -/
def ackFlits (link : Nat) (s : State) : State :=
  (s.modDom (fun d => { d with unack := d.unack.erase link })).densLink link s.dom.ten (s.dom.unack.getD link 0)

/-- A message on every live link. -/
def State.flood (s : State) (mk : Nat → Post) : State := s.dom.neighbours.foldl (fun s j => s.send j (mk j)) s

/-- The table goes to every live neighbour. -/
def State.sendTable (s : State) : State := s.flood (fun j => .table j s.dom.version s.dom.table)

/-- An epoch that a table or a message shows (R347). -/
def State.see (s : State) (epoch : Nat) : State :=
  if epoch ≤ max s.dom.epoch s.dom.seen then s else s.modDom (fun d => { d with seen := epoch })

/-- Operations stop at a new version (R356): partials and messages of the old one are discarded, notches kept. -/
def CollOp.halt (o : CollOp) : CollOp :=
  { o with parts := [], tokens := [], doneUp := false, exch := [], page := none, busy := false, state := 2 }

/-- A message of an operation is an abort (R358). -/
def CollMsg.aborts : CollMsg → Bool
  | .abort _ => true
  | _ => false

/-- The table has changed: the settle timer starts again, and a new version stops every operation, and those whose
completion other devices may still wait for (R354); of the messages kept it leaves the aborts. -/
def tableChanged (s : State) (old : BitVec 32) : State :=
  let s := s.modDom (fun d => { d with changed := s.hb, current := false })
  if s.dom.version == old then s
  else s.modDom (fun d => { d with
    ops := d.ops.map CollOp.halt, past := d.past.map CollOp.halt, base := d.seqNext, early := d.early.filter CollMsg.aborts })

/-- The domain at the start of an epoch: no link has failed in it, and only the own row is held. What a link that had failed
has sent is never acknowledged. -/
def Dom.freshEpoch (d : Dom) (e : Nat) : Dom :=
  { d with epoch := e, nfail := 0, rows := {}, unack := ⟨d.unack.ents.filter (fun u => !(d.link u.1).fail)⟩
           links := ⟨d.links.ents.map (fun l => (l.1, { l.2 with fail := false }))⟩ }

/-- A new epoch, above every one seen (R347). -/
def newEpoch (s : State) : State :=
  let old := s.dom.version
  let s := s.modDom (fun d => d.freshEpoch ((max d.epoch d.seen + 1) % 65536))
  (tableChanged s old).sendTable

/-- This end declares a link failed (R348, R349): nothing for a link that has failed or is not the domain's. -/
def declareFailed (s : State) (j : Nat) : State :=
  let l := s.dom.link j
  if !s.dom.en || !l.en || l.fail then s
  else
    let old := s.dom.version
    let s := if l.up then s.send j (.linkDown j) else s
    let s := s.modDom (fun d => { d with links := d.links.set j { l with fail := true } })
    let s := s.modDom (fun d => { d with nfail := d.failures.length })
    (tableChanged s old).sendTable

/-- LINK_TRAINED (R346). -/
def execLinkTrained (link : Nat) (s : State) : Out :=
  .next (s.modDom (fun d => { d with links := d.links.set link { d.link link with up := true, replays := {} } }))

/-- LINK_TRAINING_LOSS (R348). -/
def execLinkTrainingLoss (link : Nat) (s : State) : Out :=
  .next (declareFailed (s.modDom (fun d => { d with links := d.links.set link { d.link link with up := false } })) link)

/-- FLIT_CRC_ERROR: a flit received in error, named by its number on the link, is replayed; the sixteenth replay that
fails too, which is its seventeenth error, fails the link, whatever other flits have erred between (R348). -/
def execFlitCrcError (f : LinkFlit) (s : State) : Out :=
  let l := s.dom.link f.link
  let n := l.replays.getD f.flit 0 + 1
  let l := { l with replays := if n = 17 then l.replays.erase f.flit else l.replays.set f.flit n }
  let s := s.modDom (fun d => { d with links := d.links.set f.link l })
  .next (if n = 17 then declareFailed s f.link else s)

/-- LINK_ACK_TIMEOUT (R348). -/
def execLinkAckTimeout (link : Nat) (s : State) : Out := .next (declareFailed s link)
/-- LINK_DOWN_NOTICE (R348). -/
def execLinkDownNotice (link : Nat) (s : State) : Out := .next (declareFailed s link)

/-- A row with the failures of another merged in. -/
def mergeRow (mine other : List Word) : List Word :=
  mine.zipIdx.map (fun p => p.1 ||| ((other.getD p.2 0) &&& 0x40000000))

/-- The own links that a table marks as failed, at either end (R348). -/
def Dom.takeMarks (d : Dom) (rows : List (Nat × List Word)) : Dom :=
  let marked (dev j : Nat) : Bool := match rows.find? (fun r => r.1 == dev) with
    | some r => wFail (r.2.getD j 0)
    | none => false
  let js := (List.range Config.links).filter (fun j =>
    (d.link j).en && !(d.link j).fail && (marked d.self j
      || (match d.mate d.self j with | some p => marked p.1 p.2 | none => false)))
  { d with links := js.foldl (fun t j => t.set j { d.link j with fail := true }) d.links }

/-- The device's table with the rows of another table of its epoch (R349). -/
def Dom.merge (d : Dom) (rows : List (Nat × List Word)) : Dom :=
  let put (t : Tab (List Word)) (r : Nat × List Word) : Tab (List Word) :=
    if r.1 = d.self ∨ d.size < r.1 then t
    else match t.get? r.1 with
      | none => t.set r.1 r.2
      | some m => t.set r.1 (mergeRow m r.2)
  let d := ({ d with rows := rows.foldl put d.rows } : Dom).takeMarks rows
  { d with nfail := d.failures.length }

/-- LINK_TABLE_RECEIVED: adopted, merged, or of an old epoch (R349); its epoch is seen, in a domain not enabled too
(R347). -/
def execLinkTableReceived (epoch : BitVec 16) (rows : List (Nat × List Word)) (s : State) : Out :=
  let old := s.dom.version
  let s := s.see epoch.toNat
  if !s.dom.en || epoch.toNat < s.dom.epoch then .next s
  else if s.dom.epoch < epoch.toNat then
    let s := s.modDom (fun d => (d.freshEpoch epoch.toNat).merge rows)
    .next (tableChanged s old).sendTable
  else
    let t := s.modDom (fun d => d.merge rows)
    .next (if t.dom.table == s.dom.table then s else (tableChanged t old).sendTable)

/-- What an exchange message tells of the table (R349, R356): its version and the failed link ends that its sender
knows; none where it tells nothing new. A later epoch is adopted; its rows come with the tables of R349. -/
def Dom.learn (d : Dom) (version : BitVec 32) (failed : List (Nat × Nat)) : Option Dom :=
  let e := version.toNat / 65536
  if !d.en || decide (e < d.epoch) then none
  else
    let n := if d.epoch < e then d.freshEpoch e else d
    let marks (dev : Nat) : List Word :=
      (List.range Config.links).map (fun j => if failed.contains (dev, j) then 0x40000000 else 0)
    let n := n.merge (n.table.map (fun r => (r.1, marks r.1)))
    if n.version == d.version && n.table == d.table then none else some n

/-! ### The trees (R350) -/

/-- The live edges of a device that are not used, by rising peer and own link. -/
def Dom.edgesOf (d : Dom) (used : List (Nat × Nat)) (u : Nat) : List Edge :=
  let es := (List.range Config.links).filterMap (fun i =>
    if d.live u i && !used.contains (u, i) then (d.mate u i).map (fun p => { u := u, i := i, v := p.1, k := p.2 }) else none)
  sortBy (fun a b => decide (a.v < b.v) || (a.v == b.v && decide (a.i ≤ b.i))) es

/-- The search of one tree: `fuel` devices are taken from the queue. -/
def Dom.search (d : Dom) (used : List (Nat × Nat)) : Nat → List Nat → List Nat → List Edge → List Nat × List Edge
  | 0, _, seen, tree => (seen, tree)
  | _, [], seen, tree => (seen, tree)
  | fuel + 1, u :: queue, seen, tree =>
    let r := (d.edgesOf used u).foldl (fun (a : List Nat × List Nat × List Edge) e =>
      if a.2.1.contains e.v then a else (a.1 ++ [e.v], a.2.1 ++ [e.v], a.2.2 ++ [e])) (queue, seen, tree)
    d.search used fuel r.1 r.2.1 r.2.2

/-- Trees taken greedily, at most `fuel`. -/
def Dom.treesFrom (d : Dom) : Nat → List (Nat × Nat) → List (List Edge)
  | 0, _ => []
  | fuel + 1, used =>
    let r : List Nat × List Edge := d.search used (d.size + 1) [0] [0] []
    if d.devices.all (fun v => r.1.contains v) then
      r.2 :: d.treesFrom fuel (used ++ r.2.flatMap (fun e => [(e.u, e.i), (e.v, e.k)]))
    else []

/-- The trees of the table; a domain of one device has one, without edges. -/
def Dom.derive (d : Dom) : List (List Edge) := if d.size = 0 then [[]] else d.treesFrom 8 []

/-- A device's place in a tree: its parent's link, and the links of its children, rising. -/
def parentOf (t : List Edge) (dev : Nat) : Option Nat := (t.find? (fun e => e.v == dev)).map (·.k)
def childrenOf (t : List Edge) (dev : Nat) : List Nat :=
  (List.range Config.links).filter (fun j => t.any (fun e => e.u == dev && e.i == j))

/-- Hops from the root. -/
def depthOf (t : List Edge) : Nat → Nat → Nat
  | 0, _ => 0
  | fuel + 1, dev => match t.find? (fun e => e.v == dev) with
    | some e => depthOf t fuel e.u + 1
    | none => 0

/-! ### Chunks and notches (R351 to R354) -/

/-- The key under which a result from the parent stands among the parts, and that of a root's own fold. -/
def fromParent : Nat := 64
def folded : Nat := 65

def CollOp.chunk (o : CollOp) : Nat := 2 ^ (12 + o.hdr.ch.toNat)
def CollOp.nchunks (o : CollOp) : Nat := (o.hdr.len + o.chunk - 1) / o.chunk
def CollOp.finals (o : CollOp) : List Nat := (List.range o.nchunks).filter (fun c => o.notch.getD c 0 == 2)
def CollOp.who (o : CollOp) (d : Dom) : Who := { core := o.core, ten := d.ten, launch := o.launch }
def CollOp.key (o : CollOp) : Nat := opKey 5 0 o.seq
/-- The operands that a device uses (R361). -/
def usesDst (mode : Nat) (root : Bool) : Bool := mode != 1 || root
def usesSrc (mode : Nat) (root : Bool) : Bool := mode != 2 || root

/-- An operation has completed here: it is no longer in flight. -/
def Dom.over (d : Dom) (o : CollOp) : Bool := !d.ops.any (fun p => p.seq == o.seq)

/-- An operation in flight; one in flight or completed. -/
def State.collAt (s : State) (seq : Nat) : Option CollOp := s.dom.ops.find? (fun o => o.seq == seq)
def State.opAt (s : State) (seq : Nat) : Option CollOp := (s.collAt seq).or (s.dom.past.find? (fun o => o.seq == seq))
def State.setColl (s : State) (o : CollOp) : State :=
  let put (p : CollOp) : CollOp := if p.seq == o.seq then o else p
  s.modDom (fun d => if d.over o then { d with past := d.past.map put } else { d with ops := d.ops.map put })

/-- Bytes cut into elements of `w` bytes. -/
def elems (w : Nat) : Nat → List Byte → List Word
  | 0, _ => []
  | fuel + 1, bs => if bs.isEmpty then [] else BitVec.ofNat 64 (ofLE (bs.take w)) :: elems w fuel (bs.drop w)

/-- A fold step, element by element (R352). -/
def foldStep (h : CollHdr) (m y : List Byte) : List Byte :=
  let w := h.fmt.width / 8
  ((elems w m.length m).zip (elems w y.length y)).flatMap (fun p =>
    toLE (Alu.combine h.op.toNat h.fmt h.rnd p.1 p.2).1.toNat w)

/-- The header that a message of an operation carries: it bears the version of now. -/
def CollOp.header (o : CollOp) (d : Dom) : CollHdr := { o.hdr with version := d.version, seq := o.seq }

/-- The bytes of a chunk: where they begin in the operands, and how many. -/
def CollOp.span (o : CollOp) (c : Nat) : Nat × Nat := (c * o.chunk, min (c * o.chunk + o.chunk) o.hdr.len - c * o.chunk)

/-- A chunk of the own input. -/
def ownInput (s : State) (o : CollOp) (c : Nat) : E (List Byte × State) :=
  engRead s (o.who s.dom) (o.src.toNat + (o.span c).1) (o.span c).2

/-- A chunk's partial: the own input, then the children's partials by rising link (R352). -/
def partialFor (o : CollOp) (c : Nat) (kids : List Nat) (own : List Byte) : List Byte :=
  kids.foldl (fun m j => match o.parts.find? (fun p => p.1 == c && p.2.1 == j) with
    | some p => foldStep o.hdr m p.2.2
    | none => m) own

/-- A chunk's result goes to the children. -/
def sendDown (s : State) (o : CollOp) (c : Nat) (kids : List Nat) (bytes : List Byte) : State :=
  kids.foldl (fun s j => s.send j (.resultMsg j (o.header s.dom) c bytes)) s

/-- A chunk's result is written to the destination, whose lines it registers if they have come late, and the notch is
2 (R238, R353). The holds end on the lines that no chunk has still to write (R238, R359); one that is redone holds its lines
again as it is written (DEDUCED, log 110). -/
def finalChunk (s : State) (o : CollOp) (c : Nat) (bytes : List Byte) : E State :=
  let at_ := o.dst.toNat + (o.span c).1
  match s.register o.key (o.who s.dom) [(at_, (o.span c).2)] with
  | none => .error .busy
  | some s => do
    let s ← engWrite s (o.who s.dom) at_ (bytes.take (o.span c).2)
    let o := { o with notch := o.notch.set c 2 }
    let rest := engLines s (o.who s.dom) (((List.range o.nchunks).filter (fun k => o.notch.getD k 0 != 2)).map (fun k =>
      (o.dst.toNat + (o.span k).1, (o.span k).2)))
    .ok ((s.setColl o).unhold o.key rest.contains)

/-- A chunk's final bytes are written, and sent to the children where the mode has them do so. -/
def landFinal (s : State) (o : CollOp) (c : Nat) (kids : List Nat) (bytes : List Byte) : E State := do
  let t ← finalChunk s o c bytes
  .ok (if o.hdr.mode.toNat = 1 then t else sendDown t o c kids bytes)

/-- What a chunk does next on this device (R353): none when it waits for a message, or is final. -/
def chunkStep (s : State) (o : CollOp) (c : Nat) : Option (E State) :=
  let d := s.dom
  let t := d.trees.getD (c % d.trees.length) []
  let kids := childrenOf t d.self
  let n := o.notch.getD c 0
  let mode := o.hdr.mode.toNat
  let stands (k : Nat) : Option (List Byte) := (o.parts.find? (fun p => p.1 == c && p.2.1 == k)).map (·.2.2)
  let heard := kids.all (fun j => o.parts.any (fun p => p.1 == c && p.2.1 == j))
  if n = 2 || o.nchunks ≤ c then none
  else if mode = 2 then
    if d.self = 0 then some (do
      let own ← ownInput s o c
      landFinal own.2 o c kids own.1)
    else (stands fromParent).map (landFinal s o c kids)
  else if n = 0 then
    if !heard then none
    else match parentOf t d.self with
      | some up => some (do
        let own ← ownInput s o c
        let bs := partialFor o c kids own.1
        let s := own.2.setColl { o with notch := o.notch.set c (if mode = 1 then 2 else 1) }
        .ok (s.send up (.partialMsg up (o.header d) c bs)))
      | none =>
        if d.self ≠ 0 then none
        else some (do
          let own ← ownInput s o c
          .ok (own.2.setColl { o with notch := o.notch.set c 1, parts := o.parts ++ [(c, folded, partialFor o c kids own.1)] }))
  else (stands (if d.self = 0 then folded else fromParent)).map (landFinal s o c kids)

/-! ### Ends (R354, R358, R365) -/

/-- An operation ends on this device: its holds, its arrival, its record. The last four that complete are kept: an
operation that waits for its completion on another device is one of its four in flight (R354, R355). -/
def endColl (s : State) (o : CollOp) (status : Nat) : State :=
  let s := s.modDom (fun d => { d with
    ops := d.ops.filter (fun p => p.seq != o.seq)
    past := if status = 0 then (o :: d.past).take 4 else d.past })
  let s := (s.unhold o.key (fun _ => false)).engineStatus o.launch status
  let s := s.barEnd o.core o.panel o.bar (status != 0)
  if status != 0 || o.wrec then s.postDone 0x30 status o.core o.seq o.launch o.finals.length else s

/-- An operation aborts on this device (R358); where the abort arises, or passes through, it floods. One that has completed
here is forgotten. -/
def abortColl (s : State) (o : CollOp) (status : Nat) : State :=
  let s := s.flood (fun j => .abort j (o.header s.dom))
  if s.dom.over o then s.modDom (fun d => { d with past := d.past.filter (fun p => p.seq != o.seq) })
  else
  let s := endColl s o status
  s.modDom (fun d => { d with abort := true, aborted := d.aborted ++ [{ o with state := 5, status := status }] })

/-- The operation runs: its trees stand, and it neither settles nor exchanges. -/
def CollOp.runs (o : CollOp) (d : Dom) : Bool := o.started && d.current && o.state != 2 && o.state != 3

/-- A chunk goes one step further; a page that is missing is asked for, and the chunk waits (R358). -/
def chunkOnce (s : State) (seq c : Nat) : State :=
  match s.opAt seq with
  | none => s
  | some o =>
    if !o.runs s.dom || o.page.any (fun p => p.1 == c) then s
    else match chunkStep s o c with
      | none => s
      | some (.ok t) => t
      | some (.error (.page va)) =>
        if o.page.isSome then s else (s.setColl { o with page := some (c, va) }).post (.page 4 0 seq va)
      | some (.error (.cut st)) => abortColl s o st
      | some (.error .busy) => s.setColl { o with busy := true }

/-- A chunk goes as far as it can: a root folds, and then writes. -/
def tryChunk (s : State) (seq c : Nat) : State := chunkOnce (chunkOnce s seq c) seq c

/-- An operation's *complete* goes to the children, and it ends here, if it has not (R354). -/
def completeColl (s : State) (o : CollOp) (h : CollHdr) : State :=
  let s := (childrenOf (s.dom.trees.headD []) s.dom.self).foldl (fun s j => s.send j (.complete j h)) s
  if s.dom.over o then s.setColl { o with doneUp := true } else endColl s o 0

/-- The completion wave (R354). -/
def wave (s : State) (seq : Nat) : State :=
  match s.opAt seq with
  | none => s
  | some o =>
    let d := s.dom
    let t0 := d.trees.headD []
    let kids := childrenOf t0 d.self
    if !o.runs d || o.finals.length < o.nchunks || o.doneUp then s
    else if !kids.all (fun j => o.tokens.contains j) then s.setColl { o with state := 6 }
    else match parentOf t0 d.self with
      | some up => (s.setColl { o with state := 6, doneUp := true }).send up (.doneTok up (o.header d))
      | none => completeColl s o (o.header d)

/-- An operation that runs looks for its trees, and no longer waits for a line. -/
def takeTrees (s : State) (seq : Nat) : State :=
  match s.opAt seq with
  | none => s
  | some o =>
    if !o.runs s.dom then s
    else if s.dom.trees.isEmpty then abortColl s o 8
    else s.setColl { o with busy := false }

/-- Operations that run go as far as they can, chunk by chunk, in round-robin order of acceptance (R355). -/
def pumpSome (s : State) (seqs : List Nat) : State :=
  let s := seqs.foldl takeTrees s
  let n := ((s.dom.ops ++ s.dom.past).filter (fun o => seqs.contains o.seq && o.runs s.dom)).foldl (fun a o => max a o.nchunks) 0
  let s := (List.range n).foldl (fun s c => seqs.foldl (fun s seq => tryChunk s seq c) s) s
  seqs.foldl wave s

/-- One operation goes as far as it can. -/
def pump (s : State) (seq : Nat) : State := pumpSome s [seq]

/-- Every operation does. -/
def pumpAll (s : State) : State := pumpSome s (s.dom.ops.map (·.seq))

/-! ### Exchange (R356) -/

/-- The intersection reaches this device: chunks outside it start again, and it is sent to the children. -/
def applyFinal (s : State) (o : CollOp) (final : List Nat) : State :=
  let kids := childrenOf (s.dom.trees.headD []) s.dom.self
  let notch := (List.range o.nchunks).foldl (fun t c => if final.contains c then t else t.erase c) o.notch
  let s := s.setColl { o with notch := notch, state := 4, exch := [] }
  pump (kids.foldl (fun s j => s.send j (.exchDown j (o.header s.dom) s.dom.failures final)) s) o.seq

/-- The exchange of an operation goes on once every child of tree 0 has sent its set. -/
def exchange (s : State) (seq : Nat) : State :=
  match s.opAt seq with
  | none => s
  | some o =>
    let t0 := s.dom.trees.headD []
    let kids := childrenOf t0 s.dom.self
    if o.state ≠ 3 || !kids.all (fun j => o.exch.any (fun e => e.1 == j)) then s
    else
      let set := o.finals.filter (fun c => kids.all (fun j => o.exch.any (fun e => e.1 == j && e.2.contains c)))
      match parentOf t0 s.dom.self with
      | none => applyFinal s o set
      | some up => (s.setColl { o with exch := [] }).send up (.exchUp up (o.header s.dom) s.dom.failures set)

/-- An operation accepted since the version was adopted, among the four that another device may then have had in flight:
this device holds no chunk of it final, and its parent may wait for that set (R355, R356). -/
def CollOp.late (o : CollOp) (d : Dom) : Bool := o.started && o.state == 1 && d.current && decide (o.seq < d.base + 4)

/-- A device that has accepted an operation late sends its empty set up, and goes on. -/
def announce (s : State) (seq : Nat) : State :=
  match s.collAt seq with
  | none => s
  | some o => match parentOf (s.dom.trees.headD []) s.dom.self with
    | some up => if o.late s.dom then s.send up (.exchUp up (o.header s.dom) s.dom.failures []) else s
    | none => s

/-- The operations in flight exchange, as do those whose completion another device may wait for; the others run, and
those that have been accepted late say so. -/
def exchangeAll (s : State) : State :=
  let begin_ (o : CollOp) : CollOp := if o.state = 2 then { o with state := 3 } else o
  let stopped := ((s.dom.ops ++ s.dom.past).filter (fun o => o.state == 2)).map (·.seq)
  let s := s.modDom (fun d => { d with ops := d.ops.map begin_, past := d.past.map begin_ })
  let s := stopped.foldl exchange s
  pumpAll ((s.dom.ops.map (·.seq)).foldl announce s)

/-- SETTLE_EXPIRY: the trees are derived (R349, R350). -/
def execSettleExpiry (s : State) : Out :=
  let d := s.dom
  if !d.en || d.current || !d.devices.all (fun v => (d.row v).isSome) || s.hb.toNat < d.changed.toNat + d.settle then .next s
  else
    let ts := d.derive
    let s := s.modDom (fun d => { d with trees := ts, current := true })
    if ts.isEmpty then .next (d.ops.foldl (fun s o => abortColl s o 8) s)
    else .next (exchangeAll s)

/-- What every message of an operation carries (R355). -/
def CollMsg.hdr : CollMsg → CollHdr
  | .part h _ _ _ => h
  | .result h _ _ => h
  | .done h _ => h
  | .complete h => h
  | .up h _ _ _ => h
  | .down h _ _ => h
  | .abort h => h

/-- The failed link ends that an exchange message carries (R356). -/
def CollMsg.failed : CollMsg → Option (List (Nat × Nat))
  | .up _ _ f _ => some f
  | .down _ f _ => some f
  | _ => none

/-- The headers of matched operations agree (R355). -/
def agrees (a b : CollHdr) : Bool :=
  a.mode == b.mode && a.op == b.op && a.fmt == b.fmt && a.rnd == b.rnd && a.len == b.len && a.ch == b.ch

/-- Data of a chunk is taken among the parts. -/
def takeData (s : State) (o : CollOp) (chunk link : Nat) (bytes : List Byte) : State :=
  let parts := o.parts.filter (fun p => !(p.1 == chunk && p.2.1 == link)) ++ [(chunk, link, bytes)]
  pump (s.setColl { o with parts := parts }) o.seq

/-- A set of final chunks comes up (R356). A device that has accepted the operation since, and runs it or has come to its
completion wave, held none at the start of the exchange: no chunk is final on every device, and it says so. -/
def takeUpSet (s : State) (o : CollOp) (link : Nat) (final : List Nat) : State :=
  if o.state = 1 ∨ o.state = 6 then s.send link (.exchDown link (o.header s.dom) s.dom.failures [])
  else
    let exch := o.exch.filter (fun e => e.1 != link) ++ [(link, final)]
    exchange (s.setColl { o with exch := exch }) o.seq

/-- What a message of this device's version does to the operation it belongs to; one that differs in a field aborts
it (R355), but for the flooded abort itself. -/
def collTake (s : State) (o : CollOp) (m : CollMsg) : State :=
  if m.aborts then abortColl s o 10
  else if !agrees m.hdr o.hdr then (if s.dom.over o then s else abortColl s o 9)
  else match m with
    | .part _ c l bs => takeData s o c l bs
    | .result _ c bs => takeData s o c fromParent bs
    | .done _ l => pump (s.setColl { o with tokens := o.tokens.filter (· != l) ++ [l] }) o.seq
    | .complete h =>
      if !o.doneUp then s else completeColl s o h
    | .up _ l _ f => takeUpSet s o l f
    | .down _ _ f => if o.state = 3 then applyFinal s o f else s
    | .abort _ => s

/-- A message of an operation that this device has not accepted is kept until it starts (R355); an abort is flooded on at
once (R358). -/
def keepEarly (m : CollMsg) (s : State) : State :=
  if !s.dom.en || decide (m.hdr.seq < s.dom.seqNext) || (m.aborts && s.dom.early.contains m) then s
  else
    let s := if m.aborts then s.flood (fun j => .abort j m.hdr) else s
    s.modDom (fun d => { d with early := d.early ++ [m] })

/-- A message arrives: one that tells a failure merges it, and the derivation begins again (R356); one of another version
is discarded (R349). -/
def collMsg (m : CollMsg) (s : State) : Out :=
  let s := s.see (m.hdr.version.toNat / 65536)
  .next (match m.failed.bind (s.dom.learn m.hdr.version) with
    | some d => (tableChanged { s with dom := d } s.dom.version).sendTable
    | none =>
      if m.hdr.version ≠ s.dom.version then s
      else match s.opAt m.hdr.seq with
        | some o => collTake s o m
        | none => keepEarly m s)

/-- EXCHANGE_UP (R356). -/
def execExchangeUp (hdr : CollHdr) (link : Nat) (failed : List (Nat × Nat)) (final : List Nat) (s : State) : Out :=
  collMsg (.up hdr link failed final) s
/-- EXCHANGE_DOWN (R356). -/
def execExchangeDown (hdr : CollHdr) (failed : List (Nat × Nat)) (final : List Nat) (s : State) : Out :=
  collMsg (.down hdr failed final) s
/-- PARTIAL_RECEIVED (R352). -/
def execPartialReceived (hdr : CollHdr) (chunk link : Nat) (bytes : List Byte) (s : State) : Out :=
  collMsg (.part hdr chunk link bytes) s
/-- RESULT_RECEIVED (R353). -/
def execResultReceived (hdr : CollHdr) (chunk : Nat) (bytes : List Byte) (s : State) : Out :=
  collMsg (.result hdr chunk bytes) s
/-- DONE_TOKEN (R354). -/
def execDoneToken (hdr : CollHdr) (link : Nat) (s : State) : Out := collMsg (.done hdr link) s
/-- COMPLETE_MESSAGE (R354). -/
def execCompleteMessage (hdr : CollHdr) (s : State) : Out := collMsg (.complete hdr) s
/-- ABORT_FLOOD (R358). -/
def execAbortFlood (hdr : CollHdr) (s : State) : Out := collMsg (.abort hdr) s

/-- What an operation registers: its destination, where this device uses it (R359). -/
def CollOp.dstOf (o : CollOp) (d : Dom) : List (Nat × Nat) :=
  if usesDst o.hdr.mode.toNat (d.self == 0) then [(o.dst.toNat, o.hdr.len)] else []

/-- COLL_CHUNK_RESUME: the page has come; its lines are registered, and the chunk goes on (R238, R358). -/
def execCollChunkResume (seq : Nat) (s : State) : Out :=
  .next (match s.collAt seq with
    | some o =>
      let s := (s.setColl { o with page := none }).spend s.dom.ten
      if !o.started then s
      else match s.register o.key (o.who s.dom) (o.dstOf s.dom) with
        | some t => pump t seq
        | none => s.setColl { o with page := none, busy := true }
    | none => s)

/-- A cancel of a launch reaches its collectives (R358). -/
def cancelColl (s : State) (hit : Word → Bool) : State :=
  (s.dom.ops.filter (fun o => hit o.launch)).foldl (fun s o => abortColl s o 6) s

/-- COLL_START: the earlier stores are performed; the destination's lines are held, and the operation runs
(R359). -/
def execCollStart (seq : Nat) (s : State) : Out :=
  match s.collAt seq with
  | none => .next s
  | some o =>
    if o.started || s.storesDue o.core o.after then .next s
    else match s.register o.key (o.who s.dom) (o.dstOf s.dom) with
      | none => .next s
      | some s =>
        let s := s.setColl { o with started := true }
        let mine := s.dom.early.filter (fun m => m.hdr.seq == seq)
        let s := s.modDom (fun d => { d with early := d.early.filter (fun m => m.hdr.seq != seq) })
        let s := pump (announce s seq) seq
        match mine.find? CollMsg.aborts with
        | some _ => .next (match s.collAt seq with
          | some o => abortColl s o 10
          | none => s)
        | none => mine.foldl (fun (r : Out) m => match r with
          | .next s => collMsg m s
          | o => o) (.next s)

/-! ### The privileged registers (R346, R347) -/

/-- CL_DOM_ENABLE: a write of `CL.DOM`, ignored while an operation is in flight. -/
def execClDomEnable (value : Word) (s : State) : Out :=
  if !s.dom.ops.isEmpty then .next s
  else
    let v := value.toNat
    let was := s.dom.en
    let clear := value.getLsbD 31
    let s := s.modDom (fun d => { d with
      settle := v / 2 ^ 32 % 65536, size := v / 2 ^ 16 % 256, self := v / 2 ^ 8 % 256, ten := v / 2 ^ 4 % 16
      en := value.getLsbD 0, abort := d.abort && !clear, aborted := if clear then [] else d.aborted })
    let s := s.spend s.dom.ten
    .next (if !was && value.getLsbD 0 then newEpoch (s.modDom (fun d => { d with seqNext := 0, early := [], past := [] })) else s)

/-- CL_LINK_WRITE: a write of `CL.LINK[j]`, ignored while an operation is in flight. -/
def execClLinkWrite (link : Nat) (value : Word) (s : State) : Out :=
  if !s.dom.ops.isEmpty || Config.links ≤ link then .next s
  else
    let p := wPeer value
    .next (newEpoch (s.modDom (fun d => { d with
      links := d.links.set link { d.link link with peerdev := p.1, peerlink := p.2, en := value.getLsbD 0 } })))

/-! ### The instructions (R360 to R364) -/

/-- The fault of R361's checks on the values of `coll`: cause and address. -/
def collFault (x : Ext) (s : State) (d src n : Word) : Option (Nat × Word) :=
  let root := s.dom.self == 0
  let used := (if usesDst x.modN root then [d] else []) ++ (if usesSrc x.modN root then [src] else [])
  let ch := x.immF 12 3
  let C := 2 ^ (12 + ch)
  let mis := (used.filter (fun v => v.toNat % 16 != 0)).head?
  let out := (used.filter (fun v => winOf v != 0 || decide (2 ^ 56 < v.toNat + n.toNat))).head?
  match mis, out with
  | some v, _ => some (0x0A, v)
  | none, o =>
    if n.toNat % 16 ≠ 0 ∨ n.toNat % (x.fmt.width / 8) ≠ 0 then some (0x0A, n)
    else match o with
      | some v => some (0x0B, v)
      | none =>
        if !s.dom.en then some (0x30, 1)
        else if s.ten ≠ s.dom.ten then some (0x30, 2)
        else if n = 0 ∨ 65535 < (n.toNat + C - 1) / C then some (0x30, 3)
        else if used.length = 2 ∧ meets d.toNat n.toNat src.toNat n.toNat then some (0x30, 4)
        else if s.dom.abort then some (0x17, 0)
        else none

/-- The operation that a `coll` makes. -/
def collOf (x : Ext) (s : State) (d src n : Word) : CollOp :=
  { seq := s.dom.seqNext, dst := d, src := src, core := s.cur.core, panel := s.bolt.panel, launch := s.bolt.launch
    bar := barOf x, wrec := x.imm.getLsbD 5, after := s.serial
    hdr := { version := s.dom.version, seq := s.dom.seqNext, mode := x.mod.setWidth 2, op := BitVec.ofNat 4 (x.immF 8 4)
             fmt := x.fmt, rnd := x.rnd, len := n.toNat, ch := BitVec.ofNat 3 (x.immF 12 3) } }

/-- `coll` (R361). -/
def execColl (x : Ext) (s : State) : Out :=
  issue 0x1D8 x.len x false (fun s => do
    let srcs := srcsOf 0x1D8 x
    let ls ← s.ready x srcs [] false
    let op (pos : Nat) : Word := match srcs.find? (fun r => r.pos == pos) with
      | some r => (s.opnd r 0).val
      | none => 0
    match s.liveLanes x ls with
    | [] => do
      let p ← s.takeUp x ls srcs [] false
      .ok p.post
    | _ => do
      if s.bolt.staged then trap 0x34 0x1D8 s.sw.mask
      match collFault x s (op 1) (op 2) (op 3) with
      | some f => trap f.1 f.2 s.sw.mask
      | none => .ok ()
      let t ← issueBar s x (barOf x) 1
      if 4 ≤ s.dom.ops.length then retry s 11
      let p ← t.takeUp x ls srcs [] false
      let o := collOf x s (op 1) (op 2) (op 3)
      .ok (p.post.modDom (fun d => { d with ops := d.ops ++ [o], seqNext := d.seqNext + 1 }))) s

/-- The index of a query: source A when it is named, else the immediate (R360). -/
def queryIx (x : Ext) (p : Prep) : Nat := if x.a = 0 then x.imm.toNat else (p.opnd 1 0).val.toNat % 2 ^ 32

/-- A query writes one value (R362 to R364). -/
def query (opc : Nat) (val : Nat → Dom → Word) (x : Ext) (s : State) : Out :=
  issue opc x.len x false (fun s => do
    let p ← s.prep x (srcsOf opc x) [x.dst] true
    .ok (p.lanes.foldl (fun t l => t.write x.dst l x.cntN .n64 (val (queryIx x p) s.dom)) p.post)) s

/-- `linkq`'s value (R362). -/
def linkqVal (i : Nat) (d : Dom) : Word :=
  let dev := i / 32 % 256
  let j := i % 32
  let ver := d.version.setWidth 64 <<< 32
  if d.size < dev ∨ Config.links ≤ j then ver
  else match d.entry dev j with
    | none => ver
    | some w => ver ||| (if d.live dev j then 0x80000000 else 0) ||| (w &&& 0x40FF1F01)

/-- `treeq`'s value (R363). -/
def treeqVal (i : Nat) (d : Dom) : Word :=
  let dev := i / 32 % 256
  let t := i % 8
  let nt := d.trees.length
  let valid := decide (t < nt) && d.current
  let tree := d.trees.getD t []
  BitVec.ofNat 64 (nt * 2 ^ 36 + (if valid then 2 ^ 33 else 0) + (if dev = 0 then 2 ^ 32 else 0)
    + depthOf tree 256 dev * 2 ^ 24 + (parentOf tree dev).getD 31 * 2 ^ 18
    + (childrenOf tree dev).foldl (fun a j => a + 2 ^ j) 0)

/-- `collq`'s value (R364). -/
def collqVal (k : Nat) (d : Dom) : Word :=
  let ver := d.version.toNat * 2 ^ 32
  match (d.ops ++ d.aborted).find? (fun o => o.seq == k) with
  | none => BitVec.ofNat 64 (ver + d.trees.length * 2 ^ 8)
  | some o => BitVec.ofNat 64 (ver + o.finals.length * 2 ^ 16 + o.state * 2 ^ 12 + d.trees.length * 2 ^ 8 + o.status)

/-- `linkq` (R362). -/
def execLinkq (x : Ext) (s : State) : Out := query 0x1D9 linkqVal x s
/-- `treeq` (R363). -/
def execTreeq (x : Ext) (s : State) : Out := query 0x1DA treeqVal x s
/-- `collq` (R364). -/
def execCollq (x : Ext) (s : State) : Out := query 0x1DB collqVal x s

end Sys2Proof.Machine
end

