-- ==== Sys2Proof/Machine/Work.lean ====
section
/-! DEFINITION. Launches, the dispatcher, the work hierarchy, cancels, and staged nodes (R397 to R424). -/

namespace Sys2Proof.Machine

/-! ### Launches (R397 to R402) -/

/-- A launch runs staged: R412, but for a node that has exceeded STGCAP (R417). -/
def Launch.stages (l : Launch) : Bool := l.stage && !l.unstaged
def Launch.twins (l : Launch) : Bool := l.twin && l.stages

def Launch.panels (l : Launch) : Nat := l.nx * l.ny * l.nz
def Launch.stitches (l : Launch) : Nat := l.lanes / 8
/-- Groups along x, and in all (R401). -/
def Launch.groupsX (l : Launch) : Nat := (l.nx + 2 ^ l.group - 1) / 2 ^ l.group
def Launch.groups (l : Launch) : Nat := l.groupsX * l.ny * l.nz

/-- The place of a group: x in groups, y and z (R400: x varies fastest). -/
def Launch.groupAt (l : Launch) (i : Nat) : Nat × Nat × Nat := (i % l.groupsX, i / l.groupsX % l.ny, i / l.groupsX / l.ny)

/-- Panels of the groups dispatched so far. -/
def Launch.sentPanels (l : Launch) : Nat := l.sent / l.groupsX * l.nx + min (l.sent % l.groupsX * 2 ^ l.group) l.nx

/-- The members of a group: member number and x. -/
def Launch.members (l : Launch) (gx : Nat) : List (Nat × Nat) :=
  (List.range (2 ^ l.group)).filterMap (fun m => if gx * 2 ^ l.group + m < l.nx then some (m, gx * 2 ^ l.group + m) else none)

/-- A group may be dispatched. -/
def Launch.waits (l : Launch) : Bool := !l.complete && !l.cancelled && decide (l.sent < l.groups)

/-- Bytes of a bolt's bobbin, and of the launch's bobbin area (R77). -/
def Launch.bobbinSize (l : Launch) : Nat := l.peak * l.stitches * 48 + 8192
def Launch.bobbinArea (l : Launch) : Nat := l.bobbinSize * l.nbolt * l.panels * (if l.twins then 2 else 1)

/-- The home cluster of a group (R402, R15). -/
def Launch.home (l : Launch) (gx y z : Nat) : Nat :=
  let tx := gx / 2 ^ (l.tshift % 16)
  let ty := y / 2 ^ (l.tshift / 16 % 16)
  let tz := z / 2 ^ (l.tshift / 256 % 16)
  let k : Word := BitVec.ofNat 64 (tx + ty * 2 ^ 20 + tz * 2 ^ 40) ^^^ l.tilekey
  let s := (k * 0x9E3779B97F4A7C15).toNat / 2 ^ 57
  9 * (s / 64) + 9 * (s % 64) / 64

/-- The order in which clusters are tried (R403). -/
def probeOrder (home : Nat) : List Nat :=
  let i := home % 9
  let on (d : Nat) : List Nat := [0, 1, 8, 2, 7, 3, 6, 4, 5].map (fun o => 9 * d + (i + o) % 9)
  on (home / 9) ++ on (1 - home / 9)

/-- A set of boundaries is valid (R203). -/
def validBounds (reg scr l1 : Nat) : Bool := reg % 6 == 0 && decide (12 ≤ reg) && decide (4 ≤ l1) && decide (reg + scr + l1 ≤ 192)

/-! ### Placement (R73, R145, R404) -/

def Core.busy (c : Core) : Bool := !c.panels.ents.isEmpty
def Core.residents (c : Core) : List Bolt := c.bolts.vals.filter (fun b => !b.left)
def Core.freeStitches (c : Core) : Nat := Config.stitchSlots - c.residents.foldl (fun a b => a + b.stitches) 0

/-- A slot that a new bolt may take: one without a bolt, or one whose bolt has left and owes nothing. -/
def Core.slotFree (c : Core) (i : Nat) : Bool :=
  match c.bolts.get? i with
  | none => true
  | some b => b.left && b.regs.ents.isEmpty && !c.panels.has b.panel

def Core.freeSlots (c : Core) : List Nat := (List.range Config.boltSlots).filter c.slotFree

/-- The shuttles that the bolts of a panel go to, each with the swatch entries that it brings, those placed so far given
(R404): a bolt goes where, its first entry taken, 16 remain free (R145). -/
def pickShuttles (c : Core) (pool : Nat) (l : Launch) : List Nat → List (Nat × Nat) → Option (List Nat)
  | [], placed => some (placed.map Prod.fst)
  | n :: ns, placed =>
    let S := l.stitches
    let here (sh : Nat) : List (Nat × Nat) := placed.filter (fun p => p.1 == sh)
    let sum (sh : Nat) : Nat := (c.residents.filter (fun b => b.shuttle == sh)).foldl (fun a b => a + b.floor * b.stitches) 0
      + (here sh).length * l.floor * S
    let guard (sh : Nat) : Nat := (c.residents.filter (fun b => b.shuttle == sh)).foldl
      (fun a b => max a ((b.peak - b.floor) * b.stitches)) ((l.peak - l.floor) * S)
    let ok (sh : Nat) : Bool := decide (sum sh + l.floor * S + guard sh ≤ pool)
      && decide (c.entriesUsed sh + (here sh).foldl (fun a p => a + p.2) 0 + 17 ≤ Config.entriesPerShuttle)
    let best := (List.range Config.shuttles).foldl (fun (m : Option Nat) sh =>
      if !ok sh then m else match m with
        | none => some sh
        | some b => if sum sh < sum b then some sh else some b) none
    match best with
    | none => none
    | some sh => pickShuttles c pool l ns (placed ++ [(sh, n)])

/-- The lowest offset at which a region fits (R198). -/
def Core.scrPlace (c : Core) (total size : Nat) : Option Nat :=
  let ps := c.panels.vals.filter (fun p => decide (0 < p.scrSize))
  let fits (o : Nat) : Bool := decide (o + size ≤ total) && ps.all (fun p => !meets o size p.scrOff p.scrSize)
  ((0 :: ps.map (fun p => p.scrOff + p.scrSize)).filter fits).foldl (fun (m : Option Nat) o => match m with
    | none => some o
    | some a => some (min a o)) none

/-- Where a panel would go on a core, whose bolts bring some swatch entries each: the shuttles of its bolts and its
scratchpad offset (R404). -/
def State.boltsFit (s : State) (core : Nat) (l : Launch) (ns : List Nat) : Option (List Nat × Nat) :=
  let c := s.core core
  let n := ns.length
  let idle := !c.busy
  let reg := if idle then l.bound.1 else c.ubReg
  let scr := if idle then l.bound.2.1 else c.ubScr
  let group := c.residents.foldl (fun a b => a + b.gfloor) 0 + n * l.gfloor
    + c.residents.foldl (fun a b => max a (b.gpeak - b.gfloor)) (l.gpeak - l.gfloor)
  if c.fenced || s.plat.tripped || !(idle || (c.ubReg, c.ubScr, c.ubL1) == l.bound)
      || decide (c.freeSlots.length < n) || decide (c.freeStitches < n * l.stitches)
      || decide (Config.groupEntries < group) then none
  else match c.scrPlace (scr * 16384) l.scratch, pickShuttles c (reg / 6 * 512) l ns [] with
    | some off, some shs => some (shs, off)
    | _, _ => none

/-- Where a panel of `n` new bolts would go. -/
def State.panelFits (s : State) (core : Nat) (l : Launch) (n : Nat) : Option (List Nat × Nat) :=
  s.boltsFit core l (List.replicate n 1)

/-- The cores of a choice `j` on a cluster. -/
def choiceCore (l : Launch) (cl j m : Nat) : Nat := 8 * cl + 2 ^ l.group * j + m

/-- The choices of a cluster, most free stitch slots first (R404). -/
def State.choices (s : State) (l : Launch) (cl : Nat) : List Nat :=
  let free (j : Nat) : Nat := (List.range (2 ^ l.group)).foldl (fun a m => a + (s.core (choiceCore l cl j m)).freeStitches) 0
  sortBy (fun a b => decide (free b < free a) || (free a == free b && decide (a ≤ b))) (List.range (8 / 2 ^ l.group))

/-- A group fits on a choice of a cluster. -/
def State.groupFits (s : State) (l : Launch) (gx cl j : Nat) : Bool :=
  (l.members gx).all (fun m => (s.panelFits (choiceCore l cl j m.1) l l.nbolt).isSome)

/-- The first cluster of a list that admits a group, and the choice on it; a cluster stopped for the tenancy
admits none (R429). -/
def State.findPlace (s : State) (l : Launch) (gx : Nat) : List Nat → Option (Nat × Nat)
  | [] => none
  | cl :: cls =>
    let d := s.dbcl.getD cl {}
    let j := if d.stopped && d.ten == l.ten then none else (s.choices l cl).find? (fun j => s.groupFits l gx cl j)
    match j with
    | some j => some (cl, j)
    | none => s.findPlace l gx cls

/-! ### Admission (R405) -/

/-- The boundaries of an idle core are written: the whole L1 is invalid, and the scratchpad's contents go (R204, R405). -/
def Core.setBounds (c : Core) (reg scr l1 : Nat) : Core :=
  { c with ubReg := reg, ubScr := scr, ubL1 := l1, l1 := {}, scr := [], scrEcc := {} }

/-- The lowest swatch entry of a shuttle that no bolt uses. -/
def Core.freeEntryOn (c : Core) (sh : Nat) : Nat :=
  let used := (c.bolts.vals.filter (fun b => b.shuttle == sh)).flatMap (fun b => b.sw.keys)
  ((List.range Config.entriesPerShuttle).find? (fun e => !used.contains e)).getD 0

/-- A bolt of a launch at its admission. -/
def newBolt (s : State) (l : Launch) (panel index age sh : Nat) (copyB : Bool) (shown : Option Nat) : Bolt :=
  { ten := l.ten, launch := l.id, panel := panel, index := index, age := age, shuttle := sh, prio := l.prio
    stitches := l.stitches, splitEmpty := l.split, peak := l.peak, floor := l.floor, gpeak := l.gpeak, gfloor := l.gfloor
    priv := l.priv, errinj := l.errinj, staged := l.stages, copyB := copyB, asShuttle := shown
    admitted := s.hb }

/-- A bolt takes the lowest free slot. -/
def addBolt (s : State) (core : Nat) (b : Bolt) (w : Swatch) : State :=
  let c := s.core core
  let slot := c.freeSlots.headD 0
  let e := c.freeEntryOn b.shuttle
  let b := { b with age := c.ageNext, lastClk := c.clock.getD b.shuttle 0, sw := (⟨[]⟩ : Tab Swatch).set e w }
  let c := c.passed (b.shuttle * 65536 + e)
  s.setCore core { c with ageNext := c.ageNext + 1, bolts := c.bolts.set slot b }

/-- A panel's place is prepared: boundaries, region, L1 (R405), and the panel with its identifier. -/
def addPanel (s : State) (core : Nat) (l : Launch) (p : Panel) : Nat × State :=
  let c := s.core core
  let c := if c.busy then c else c.setBounds l.bound.1 l.bound.2.1 l.bound.2.2
  let id := c.panelNext
  let c := { c with
    scr := c.scr.zero p.scrOff p.scrSize, scrEcc := writeEcc c.scrEcc 4 p.scrOff p.scrSize
    l1 := ⟨c.l1.ents.filter (fun e => e.2.owned)⟩
    panels := c.panels.set id p, panelNext := id + 1 }
  (id, s.setCore core c)

/-- The shuttle of copy A's bolt of an index, on its core (R414). -/
def State.twinShuttle (s : State) (core : Nat) (l : Launch) (x y z index : Nat) : Option Nat :=
  let c := s.core core
  (c.bolts.vals.find? (fun b =>
    let p := c.panels.getD b.panel {}
    b.launch == l.id && !b.copyB && b.index == index && p.x == x && p.y == y && p.z == z)).map (·.shuttle)

/-- A panel of a launch is admitted to a core; `shown` is copy A's core of a twin. -/
def admitPanel (s : State) (core : Nat) (l : Launch) (x y z group member : Nat) (copyB : Bool) (shown : Option Nat) : State :=
  match s.panelFits core l l.nbolt with
  | none => s
  | some (shs, off) =>
    let p : Panel := { launch := l.id, ten := l.ten, x := x, y := y, z := z, group := group, member := member, copyB := copyB
                       scrOff := off, scrSize := l.scratch, nbolt := l.nbolt, out := l.nbolt, asCore := shown }
    let (id, s) := addPanel s core l p
    let as_ (sh index : Nat) : Option Nat :=
      if copyB then shown.bind (fun a => s.twinShuttle a l x y z index) else shown.map (fun _ => sh)
    shs.zipIdx.foldl (fun s q => addBolt s core (newBolt s l id q.2 0 q.1 copyB (as_ q.1 q.2))
      { mask := fullMask l.lanes, pc := l.entry }) s

/-- A group is admitted to a choice of a cluster; of a twin, with copy A's cluster and choice. -/
def admitGroup (s : State) (l : Launch) (g : Nat × Nat × Nat) (cl j : Nat) (copyB : Bool) (a : Option (Nat × Nat)) : State :=
  let (gx, y, z) := g
  let first := gx * 2 ^ l.group + l.nx * (y + l.ny * z)
  (l.members gx).foldl (fun s m => admitPanel s (choiceCore l cl j m.1) l m.2 y z first m.1 copyB
    (a.map (fun a => choiceCore l a.1 a.2 m.1))) s

/-! ### Restores (R387, R388, R392) -/

/-- The member's bolts, oldest first. -/
def ImgPanel.byAge (m : ImgPanel) : List Bolt := sortBy (fun a b => decide (a.age ≤ b.age)) m.bolts.vals

/-- Where a member's bolts would go on a core, oldest first, each with the swatch entries that it holds (R145, R392). -/
def State.memberPlace (s : State) (core : Nat) (l : Launch) (m : ImgPanel) : Option (List Nat × Nat) :=
  s.boltsFit core { l with scratch := m.panel.scrSize } (m.byAge.map (fun b => b.sw.size))

/-- A pattern table may be loaded on a core: it is free, or the launch's, and no unretired operation decodes with it
(R98, R116, R299). -/
def Core.takesTable (c : Core) (launch : Word) : Bool :=
  !c.psRegen && (c.psOwner.isNone || c.psOwner == some launch) && !c.mxq.any MxOp.pb

/-- A member of an image fits on a core: its bolts, its region, its trays and regions by number, its pattern table
(R98). -/
def State.memberFits (s : State) (core : Nat) (l : Launch) (m : ImgPanel) : Bool :=
  let c := s.core core
  (s.memberPlace core l m).isSome
    && m.trays.all (fun t => !c.trayOwn.has t) && m.regions.keys.all (fun r => !c.regOwn.has r)
    && (m.pattern.isNone || c.takesTable l.id)

/-- The first place of an image: a cluster, and for a single panel the core's index on it. -/
def State.findRestore (s : State) (l : Launch) (ms : List ImgPanel) : List Nat → Option (List Nat)
  | [] => none
  | cl :: cls =>
    let d := s.dbcl.getD cl {}
    let here : Option (List Nat) :=
      if d.stopped && d.ten == l.ten then none
      else if l.group = 0 then
        ((s.choices l cl).find? (fun j => ms.all (s.memberFits (8 * cl + j) l))).map (fun j => [8 * cl + j])
      else if ms.all (fun m => s.memberFits (8 * cl + m.cidx) l m) then some (ms.map (fun m => 8 * cl + m.cidx)) else none
    match here with
    | some r => some r
    | none => s.findRestore l ms cls

/-- A saved bolt takes a slot, its swatches free entries of its shuttle; the records of parked swatches are posted
again (R387). -/
def restoreBolt (s : State) (core : Nat) (l : Launch) (panel : Nat) (q : Bolt × Nat) : State :=
  let c := s.core core
  let b := q.1
  let slot := c.freeSlots.headD 0
  let used := (c.bolts.vals.filter (fun o => o.shuttle == q.2)).flatMap (fun o => o.sw.keys)
  let free := (List.range Config.entriesPerShuttle).filter (fun e => !used.contains e)
  let map (e : Nat) : Nat := (((b.sw.keys.zip free).find? (fun p => p.1 == e)).map Prod.snd).getD e
  let rec_ (e : Nat) (r : FaultRec) : FaultRec := { r with shuttle := q.2, core := core, bolt := slot, entry := map e }
  let sw : Tab Swatch := b.sw.ents.foldl (fun t e =>
    t.set (map e.1) { e.2 with frec := e.2.frec.map (rec_ e.1) }) {}
  let fits := b.rows ≤ c.freeRows q.2 && b.gents ≤ c.freeGroup
  let b := { b with
    panel := panel, shuttle := q.2, age := c.ageNext, sw := sw, frozen := false, parked := b.parked || !fits
    trap := { b.trap with ent := map b.trap.ent }, stop := { b.stop with last := map b.stop.last }, staged := l.stages }
  let c := sw.keys.foldl (fun c e => c.passed (q.2 * 65536 + e)) c
  let s := s.setCore core { c with ageNext := c.ageNext + 1, bolts := c.bolts.set slot b }
  sw.vals.foldl (fun s w => match w.st, w.frec with
    | .parked, some r => s.post (.fault r)
    | _, _ => s) s

/-- A member of an image is admitted to a core: its panel there. Its trays and regions are claimed zero, check bits and
all (R294), and take what the image holds. -/
def admitMember (s : State) (l : Launch) (q : ImgPanel × Nat) : Nat × State :=
  let m := q.1
  match s.memberPlace q.2 l m with
  | none => (0, s)
  | some (shs, off) =>
    let (id, s) := addPanel s q.2 l { m.panel with scrOff := off }
    let s := s.modCore q.2 (fun c =>
      let own (t : Tab Nat) (ks : List Nat) : Tab Nat := ks.foldl (fun t k => t.set k id) t
      let c := m.regions.ents.foldl (fun c e => c.zeroRegion e.1 e.2) (m.trays.foldl Core.zeroTray c)
      { c with
        scr := m.scr.foldl (fun t e => t.write (off + e.1) e.2) c.scr
        trayOwn := own c.trayOwn m.trays, regOwn := own c.regOwn m.regions.keys
        tray := m.tray.foldl (fun t e => t.write e.1 e.2) c.tray
        acc := m.acc.ents.foldl (fun t e => t.set e.1 e.2) c.acc
        leaders := m.pattern.getD c.leaders
        psBad := if m.pattern.isSome then [] else c.psBad
        psOwner := if m.pattern.isSome then some l.id else c.psOwner })
    (id, (m.byAge.zip shs).foldl (fun s p => restoreBolt s q.2 l id p) s)

/-- A waiting `ctxload` of a launch class whose image fits now, with its cores. -/
def State.readyRestore (s : State) (ten q : Nat) : Option (Restore × List Nat) :=
  s.restores.findSome? (fun r =>
    let l := s.launchOf r.image.launch
    if r.image.ten ≠ ten ∨ l.prio ≠ q ∨ r.placed ≠ [] then none
    else match r.image.members with
      | [] => none
      | m :: _ =>
        let home := l.home (m.panel.x / 2 ^ l.group) m.panel.y m.panel.z
        (s.findRestore l r.image.members (probeOrder home)).map (fun cs => (r, cs)))

/-- The places of a group's copies: one, or with TWIN two on different clusters (R414); none while it does not
fit. -/
def State.groupPlaces (s : State) (l : Launch) (g : Nat × Nat × Nat) : Option (List (Nat × Nat)) :=
  let order := probeOrder (l.home g.1 g.2.1 g.2.2)
  match s.findPlace l g.1 order with
  | none => none
  | some a =>
    if !l.twins then some [a]
    else
      let rest := (order.dropWhile (· != a.1)).drop 1 ++ order.takeWhile (· != a.1)
      (s.findPlace l g.1 rest).map (fun b => [a, b])

/-! ### Completion (R406 to R409) -/

def State.obj (s : State) (level : Nat) (id : Word) : Option Obj := s.objs.find? (fun o => o.level == level && o.id == id)
def State.setObj (s : State) (o : Obj) : State :=
  { s with objs := s.objs.map (fun p => if p.level == o.level && p.id == o.id then o else p) }

/-- A work counter is used: a single-bit error that its reading has corrected is counted, at the slice of the object's
identifier (R419). -/
def State.usedCounter (s : State) (id ecc : Word) : State :=
  if ecc = 0 then s
  else
    let sl := homeSlice id.toNat
    { s with l2corr := s.l2corr.set sl (s.l2corr.getD sl 0 + 1) }

/-- A counter of a graph, phase or job changes. -/
def State.putObj (s : State) (o : Obj) : State := (s.usedCounter o.id o.ecc).setObj { o with ecc := 0 }

/-- A launch's counter changes. -/
def State.putLaunch (s : State) (l : Launch) : State :=
  (s.usedCounter l.id l.ecc).modLaunch l.id (fun _ => { l with ecc := 0 })

/-- A graph, phase or job whose counter is zero completes (R407, R408), and lowers its parent's. -/
def settleObj : Nat → State → Nat → Word → State
  | 0, s, _, _ => s
  | fuel + 1, s, level, id =>
    match s.obj level id with
    | none => s
    | some o =>
      if o.out ≠ 0 ∨ o.complete then s
      else
        let s := (s.setObj { o with complete := true }).postDone (0x3F + level)
          (o.status.getD (if o.cancelled then 6 else 0)) 0 0 id o.children
        match s.obj (level + 1) o.parent with
        | none => s
        | some p => settleObj fuel (s.putObj { p with out := p.out - 1, children := p.children + 1 }) (level + 1) o.parent

/-- A child of an object completes. -/
def childDone (s : State) (level : Nat) (id : Word) : State :=
  match s.obj level id with
  | none => s
  | some o => settleObj 4 (s.putObj { o with out := o.out - 1, children := o.children + 1 }) level id

/-- GRAPH_CREATE (R406): the counter starts at 1, and counts as a child of the parent. -/
def execGraphCreate (level : Nat) (id parent : Word) (s : State) : Out :=
  if level < 2 ∨ 4 < level ∨ (s.obj level id).isSome then .next s
  else
    let up := if level = 4 then none else s.obj (level + 1) parent
    let o : Obj := { level := level, id := id, parent := if level = 4 then 0 else parent, out := 1
                     cancelled := up.any (·.cancelled) }
    let s := match up with
      | some p => s.putObj { p with out := p.out + 1 }
      | none => s
    .next ({ s with objs := s.objs ++ [o] }.spend (State.tenOfId id))

/-- GRAPH_SEAL (R406). -/
def execGraphSeal (level : Nat) (id : Word) (s : State) : Out :=
  .next (match s.obj level id with
    | some o => if o.sealed then s
      else (settleObj 4 (s.putObj { o with sealed := true, out := o.out - 1 }) level id).spend (State.tenOfId id)
    | none => s)

/-- An engine still works for a launch, or a write of it is still to be performed (R407, R408). -/
def State.launchBusy (s : State) (id : Word) : Bool :=
  s.cores.vals.any (fun c => c.copies.any (fun k => k.launch == id) || c.mxq.any (fun o => o.launch == id)
      || c.stq.any (fun p => p.launch == id) || c.panels.vals.any (fun p => p.launch == id))
    || s.rel.any (fun r => r.launch == id) || s.dom.ops.any (fun o => o.launch == id)

/-! ### Staged nodes (R412 to R417) -/

/-- H of R413 for one word. -/
def sigWord (a v m : Word) : Word :=
  let x := v ^^^ (a * 0x9E3779B97F4A7C15)
  let x := x + m * 0xC2B2AE3D27D4EB4F
  let x := (x ^^^ (x >>> 31)) * 0x94D049BB133111EB
  x ^^^ (x >>> 29)

/-- A copy's signature (R413). -/
def signature (t : Tab Byte) : Word :=
  ((t.keys.map (fun a => a / 8 * 8)).eraseDups).foldl (fun sig a =>
    let bs := (List.range 8).map (fun i => t.get? (a + i))
    let v := ofLE (bs.map (fun b => b.getD 0))
    let m := (bs.zipIdx.filter (fun p => p.1.isSome)).foldl (fun n p => n + 2 ^ p.2) 0
    sig + sigWord (BitVec.ofNat 64 a) (BitVec.ofNat 64 v) (BitVec.ofNat 64 m)) 0

/-- The physical address of a staged byte at the commit. -/
def commitPa (s : State) (ten va : Nat) : E Nat := (engPa s { core := 0, ten := ten, launch := 0 } .w va 1).map Prod.fst

/-- Every staged word of a copy can be committed now: its page is present and its line is free (R260, R415). -/
def canCommit (s : State) (l : Launch) (t : Tab Byte) : Bool :=
  t.keys.all (fun va => match commitPa s l.ten va with
    | .ok pa => !s.lineBusy pa none
    | .error (.cut _) => true
    | .error _ => false)

/-- The commit of copy A (R415): word by word; transactions that have read or written one are doomed, those of the core
that staged it too (R259). -/
def commitStaged (s : State) (l : Launch) : State :=
  (wordWrites l.stgA).foldl (fun s e => match commitPa s l.ten e.1 with
    | .ok pa => ((s.stgCorrect l.id (some false) pa e.1).writeL2 pa e.2 (l.stgCore.getD (e.1 / 8 * 8) 0) l.ten).doomWords (wordsOf pa e.2.length) 1 (fun _ _ _ => false)
    | .error _ => s) s

/-- A launch's staged words are discarded. -/
def Launch.unstage (l : Launch) : Launch := { l with stgA := {}, stgB := {}, stgCore := {}, stgEcc := {} }

/-- A node runs again (R414). -/
def Launch.again (l : Launch) : Launch :=
  { l.unstage with sent := 0, out := l.panels, done := 0, ended := [], cancelled := false, status := none, rollback := false, engBad := false }

/-! ### Cancels (R410, R411) -/

/-- The engine operations that a cancel ends (R410, step 4): by core, panel and launch. -/
def cancelEngines (s : State) (hit : Nat → Nat → Word → Bool) : State :=
  let s := s.cores.ents.foldl (fun s c =>
    let s := (c.2.copies.filter (fun k => hit c.1 k.panel k.launch)).foldl (fun s k => endCopy s c.1 k 6) s
    let mine (p : Nat) : Bool := hit c.1 p (c.2.panels.getD p {}).launch
    s.modCore c.1 (fun d => { d with kicks := d.kicks.filter (fun l => !mine l.panel) })) s
  let s := (s.rel.filter (fun r => hit r.core r.panel r.launch && r.stage != 2)).foldl (fun s r => cutRel s r 6) s
  (s.dom.ops.filter (fun o => hit o.core o.panel o.launch)).foldl (fun s o => abortColl s o 6) s

/-- The current bolt ends whole. -/
def endBolt (s : State) : State :=
  let s := match s.token with
    | some (c, b, _) => if c = s.cur.core ∧ b = s.cur.slot then { s with token := none } else s
    | none => s
  boltLeaves s 0

/-- The swatches of a cancelled bolt leave, but for those that hold a lane in an irrevocable transaction (R410). -/
def reapBolt (s : State) (core slot : Nat) : State :=
  let cur := s.cur
  let b := s.boltAt core slot
  let irr := b.irrLanes
  let s := { s with cur := { core := core, slot := slot, ent := 0 } }
  let s := if b.left then s
    else if irr = 0 then endBolt s
    else
      let s := s.modBolt (fun b => { b with tx := ⟨b.tx.ents.map (fun t => (t.1, t.2.doomBy 9))⟩ })
      (b.sw.ents.filter (fun e => e.2.mask &&& irr == 0)).foldl (fun s e =>
        exitLanes { s with cur := { s.cur with ent := e.1 } } (s.boltAt core slot |>.sw.getD e.1 {}).mask 0) s
  { s with cur := cur }

/-- The bolts of cancelled panels: core and slot. -/
def State.cancelledBolts (s : State) : List (Nat × Nat) :=
  s.cores.ents.flatMap (fun c => c.2.bolts.ents.filterMap (fun b =>
    if !b.2.left && (c.2.panels.getD b.2.panel {}).cancelled && !s.saving c.1 b.2.panel then some (c.1, b.1) else none))

/-- Every cancelled bolt leaves as far as it may. -/
def reap (s : State) : State := s.cancelledBolts.foldl (fun s p => reapBolt s p.1 p.2) s

/-- A cancel of one panel (R421). -/
def cancelPanel (s : State) (core p : Nat) : State :=
  let s := s.modPanelAt core p (fun q => { q with cancelled := true })
  reap (cancelEngines s (fun c q _ => c == core && q == p))

/-- The place of a panel in its launch, and its copy. -/
def Panel.at (p : Panel) : Nat × Nat × Nat × Bool := (p.x, p.y, p.z, p.copyB)

/-- A copy of a panel is complete, having run or not: the launch counts its panel as complete once, a twin's when both copies
are over (R406, R407, R414); a panel that a later load of its image has run again is complete already (R392). -/
def Launch.panelOver (l : Launch) (p : Panel) (ran : Bool) : Launch :=
  if l.ended.contains p.at then l
  else if p.asCore.isSome && !l.ended.contains (p.x, p.y, p.z, !p.copyB) then { l with ended := l.ended ++ [p.at] }
  else { l with ended := l.ended ++ [p.at], out := l.out - 1, done := if ran then l.done + 1 else l.done }

/-- The panels of a launch that stand in saved images alone. -/
def State.savedPanels (s : State) (id : Word) : List Panel :=
  let here := s.cores.vals.flatMap (fun c => (c.panels.vals.filter (fun p => p.launch == id)).map Panel.at)
  ((s.images.filter (fun i => i.launch == id && !i.discarded)).flatMap (fun i => i.members.map (fun m => m.panel))).filter
    (fun p => !here.contains p.at)

/-! ### The launch queues (R397, R464) -/

def State.queue (s : State) (ten q : Nat) : LaunchQ := s.queues.getD (4 * ten + q) {}
def State.setQueue (s : State) (ten q : Nat) (x : LaunchQ) : State := { s with queues := s.queues.set (4 * ten + q) x }

/-- A record waits in a queue. -/
def LaunchQ.holds (x : LaunchQ) : Bool := x.log2n != 0 && x.cons != x.prod

/-- The launch of a queue whose groups are being dispatched. -/
def State.dispatching (s : State) (ten q : Nat) : Option Launch := s.launches.find? (fun l => l.ten == ten && l.q == q && l.waits)

/-- A tenancy has work queued (R464). -/
def State.queued (s : State) (ten : Nat) : Bool :=
  [0, 1, 2, 3].any (fun q => (s.queue ten q).holds || (s.dispatching ten q).isSome)

/-- A tenancy with no work queued has no deficit (R464). -/
def State.settleDeficit (s : State) (ten : Nat) : State :=
  if s.queued ten then s else s.modTen ten (fun t => { t with deficit := 0 })

/-! ### Cancels (R410) -/

/-- A cancel of a launch (R410), with the status that its record will carry; one without a status ends a node that waits
to run again too. -/
def cancelLaunch (s : State) (id : Word) (status : Option Nat := none) : State :=
  match s.launches.find? (fun l => l.id == id && !l.complete) with
  | none => s
  | some l =>
    let st := if l.rollback && status.isNone then none else l.status.or status
    let gone := if l.cancelled then 0 else l.panels - l.sentPanels
    let l := (s.savedPanels id).foldl (fun l p => l.panelOver p false) l
    let l := { l.unstage with cancelled := true, status := st, out := l.out - gone
                              rollback := l.rollback && status.isSome, requeue := l.requeue && status.isSome }
    let s := s.putLaunch l
    let images := s.images.map (fun i => if i.launch == id then { i with discarded := true } else i)
    let mark (p : Nat × Panel) : Nat × Panel := (p.1, if p.2.launch == id then { p.2 with cancelled := true } else p.2)
    let s := { s with images := images, restores := s.restores.filter (fun r => r.image.launch != id) }
    let s := s.mapCores (fun c => { c with panels := ⟨c.panels.ents.map mark⟩ })
    (reap (cancelEngines s (fun _ _ w => w == id))).settleDeficit l.ten

/-- An object and the objects under it: the identifiers at each level. -/
def State.under (s : State) (level : Nat) (id : Word) : List (Nat × Word) :=
  let kids (l : Nat) (ps : List Word) : List Word :=
    (s.objs.filter (fun o => o.level == l && ps.contains o.parent)).map (·.id)
  match level with
  | 4 =>
    let ph := kids 3 [id]
    (4, id) :: ph.map (fun p => (3, p)) ++ (kids 2 ph).map (fun g => (2, g))
  | 3 => (3, id) :: (kids 2 [id]).map (fun g => (2, g))
  | _ => [(level, id)]

/-- The launch lies under an object. -/
def Launch.under (l : Launch) (level : Nat) (id : Word) : Bool :=
  match level with
  | 1 => l.id == id
  | 2 => l.graph == id
  | 3 => l.phase == id
  | _ => l.job == id

/-- A cancel of a launch, graph, phase or job (R410): none of a completed object. -/
def cancelObj (s : State) (level : Nat) (id : Word) : State :=
  if (s.obj level id).any (·.complete) then s
  else
    let s := if level < 2 then s
      else (s.under level id).foldl (fun s o => match s.obj o.1 o.2 with
        | some p => if p.complete then s else s.setObj { p with cancelled := true }
        | none => s) s
    (s.launches.filter (fun l => l.under level id && !l.complete)).foldl (fun s l => cancelLaunch s l.id) s

/-- A staged node is rolled back (R416), or is to run again unstaged (R417): a third rollback ends it. None of a launch
that is cancelled already. -/
def rollBack (s : State) (id : Word) (unstaged : Bool) : State :=
  let l := s.launchOf id
  if l.cancelled then s
  else if 2 ≤ l.rolled && !unstaged then cancelObj (cancelLaunch s id (some 5)) 2 l.graph
  else
    let s := s.modLaunch id (fun l => { l with rollback := true, unstaged := l.unstaged || unstaged
                                               rolled := if unstaged then l.rolled else l.rolled + 1 })
    cancelLaunch s id (some 12)

/-- A node has consumed an uncorrectable error (R381): a staged one is rolled back (R416), an unstaged one's graph is
cancelled with it (R417). -/
def errorIn (s : State) (id : Word) : State :=
  let l := s.launchOf id
  if l.stages then rollBack s id false else cancelObj (cancelLaunch s id (some 5)) 2 l.graph

/-- An engine's error is acted on once. -/
def engineError (s : State) (id : Word) : State := (errorIn s id).modLaunch id (fun l => { l with engBad := false })

/-- A staged launch whose lines exceed STGCAP (R412, R417). -/
def Launch.overCap (l : Launch) : Bool :=
  l.stages && !l.cancelled && decide ((if l.stgcap = 0 then 16384 else l.stgcap) < max (stagedLines l.stgA) (stagedLines l.stgB))

/-- A launch's record is posted (R408). -/
def postLaunch (s : State) (l : Launch) : State :=
  s.postDone 0x40 (l.status.getD (if l.cancelled then 6 else 0)) 0 0 l.id l.done

/-- A launch completes (R407, R408). -/
def finishLaunch (s : State) (l : Launch) : State :=
  let s := s.modLaunch l.id (fun l => { l.unstage with complete := true })
  childDone (postLaunch s l) 2 l.graph

/-- Nothing holds a launch any more: its panels are complete, its engine operations have ended, its writes are performed;
one whose record is to come again has ended before. -/
def Launch.ends (l : Launch) (s : State) : Bool :=
  !(l.complete || l.requeue || l.out != 0 || (decide (l.sent < l.groups) && !l.cancelled) || s.launchBusy l.id)

/-- A staged word that the end of a node reads has an error that cannot be corrected (R419). -/
def Launch.stagedBad (l : Launch) : Bool := l.stgEcc.vals.any (fun e => decide (2 ≤ ones e))

/-- A launch that nothing holds any more ends: cancelled, to run again, compared with its twin, committed, or
complete (R407, R414 to R416); where a staged word cannot be read, the node has consumed the error. -/
def settleLaunch (s : State) (l : Launch) : State :=
  if !l.ends s then s
  else if l.cancelled then
    if l.rollback then (postLaunch s l).modLaunch l.id (fun l => { l with requeue := true }) else finishLaunch s l
  else if !l.stages then finishLaunch s l
  else if l.stagedBad then errorIn s l.id
  else if l.twins && signature l.stgA != signature l.stgB then
    if l.differ + 1 = 3 then
      let l := { l with differ := 3, status := some 11 }
      finishLaunch (cancelObj (s.modLaunch l.id (fun _ => l)) 2 l.graph) { l with cancelled := true }
    else s.modLaunch l.id (fun l => { l.again with differ := l.differ + 1 })
  else if canCommit s l l.stgA then finishLaunch (commitStaged s l) l
  else s

/-- A launch can end now. -/
def State.canSettle (s : State) (l : Launch) : Bool :=
  l.ends s && (l.cancelled || !l.stages || l.stagedBad || (l.twins && signature l.stgA != signature l.stgB) || canCommit s l l.stgA)

/-- Every launch that can end does. -/
def settleLaunches (s : State) : State := s.launches.foldl (fun s l => settleLaunch s (s.launchOf l.id)) s

/-! ### The end of a panel (R289, R294, R98) -/

/-- A place lies in a panel's region. -/
def inRegion (core : Nat) (p : Panel) : Place → Bool
  | .scr c o => c == core && decide (p.scrOff ≤ o) && decide (o < p.scrOff + p.scrSize)
  | .glob _ => false

/-- An engine still works on a panel: the waits of R289, and operations on its trays and regions (R294). -/
def State.panelBusy (s : State) (core id : Nat) : Bool :=
  let c := s.core core
  let p := s.panelAt core id
  c.kicks.any (fun l => l.panel == id)
    || s.cores.ents.any (fun e => e.2.copies.any (fun k =>
      inRegion core p k.src || inRegion core p k.lay || k.dst.any (inRegion core p)
        || (e.1 == core && k.panel == id && (k.bar.isSome || k.tray.isSome))
        || k.recv.any (fun r => r.core == core && r.panel == id)))
    || c.mxq.any (fun o => o.panel == id)
    || (s.slaving core).any (fun o => c.regOwn.get? o.region == some id)
    || s.rel.any (fun r => r.core == core && r.panel == id && r.bar.isSome)
    || s.dom.ops.any (fun o => o.core == core && o.panel == id && o.bar.isSome)

/-- What a panel holds is freed: trays, regions, its region, barriers and bolt slots; with the owning launch's
last panel the pattern store regenerates (R98). -/
def freePanel (s : State) (core id : Nat) : State :=
  let launch := (s.panelAt core id).launch
  s.modCore core (fun c =>
    let ps := c.panels.erase id
    let regen := c.psOwner == some launch && ps.vals.all (fun p => p.launch != launch)
    { c with
      panels := ps
      trayOwn := ⟨c.trayOwn.ents.filter (fun e => e.2 != id)⟩
      regOwn := ⟨c.regOwn.ents.filter (fun e => e.2 != id)⟩
      bolts := ⟨c.bolts.ents.filter (fun e => !(e.2.panel == id && e.2.left && e.2.regs.ents.isEmpty))⟩
      psOwner := if regen then none else c.psOwner
      psRegen := c.psRegen || regen })

/-- A panel may complete (R407). -/
def State.panelDone (s : State) (core id : Nat) : Bool :=
  let c := s.core core
  c.panels.has id && (s.panelAt core id).out == 0 && !s.panelBusy core id

/-- PANEL_COMPLETE (R407): a panel that is done gives back what it holds; every launch that nothing holds any
more then ends (R408, R414, R415). -/
def execPanelComplete (core panel : Nat) (s : State) : Out :=
  if s.panelDone core panel then
    let p := s.panelAt core panel
    let s := freePanel s core panel
    let l := s.launchOf p.launch
    let m := l.panelOver p true
    .next (settleLaunches (if m.out = l.out then s.modLaunch l.id (fun _ => m) else s.putLaunch m))
  else .next (settleLaunches s)

/-- PATTERN_STORE_REGEN_DONE (R97, R98). -/
def execPatternStoreRegenDone (core : Nat) (s : State) : Out :=
  .next (if (s.core core).psRegen then
    s.modCore core (fun c => { c with leaders := {}, psBad := [], psRegen := false }) else s)

/-! ### The dispatcher (R397 to R400, R464) -/

/-- LQ_PROD_WRITE (R397): one that lowers PROD or overfills the ring is ignored. -/
def execLqProdWrite (ten q : Nat) (prod : BitVec 32) (s : State) : Out :=
  let x := s.queue ten q
  .next (if prod.toNat < x.prod ∨ x.cons + 2 ^ x.log2n < prod.toNat then s else (s.setQueue ten q { x with prod := prod.toNat }).spend ten)

/-- Bytes of a record. -/
def recN (r : List Byte) (off n : Nat) : Nat := ofLE ((r.drop off).take n)
def recW (r : List Byte) (off : Nat) : Word := BitVec.ofNat 64 (recN r off 8)

/-- The launch that a record of R398 and its kernel's descriptor (R179) give. -/
def launchOfRecord (ten q : Nat) (r d : List Byte) : Launch :=
  { id := recW r 24, ten := ten, q := q, kdesc := recW r 0, entry := recW r 8, argbase := recW r 16, tilekey := recW r 32
    nx := recN r 40 4, ny := recN r 44 4, nz := recN r 48 4, tshift := recN r 52 2, nbolt := recN r 54 1, group := recN r 55 1
    prio := recN r 56 1, stage := (recN r 57 1).testBit 0, twin := (recN r 57 1).testBit 1, priv := (recN r 57 1).testBit 2
    errinj := (recN r 57 1).testBit 3, bound := (recN r 60 1, recN r 61 1, recN r 62 1), scratch := recN r 64 4
    stgcap := recN r 68 4, bobbin := recW r 72, stack := recW r 80, graph := recW r 88, phase := recW r 96, job := recW r 104
    lanes := recN d 16 2, split := recN d 18 1 == 1, peak := recN d 20 2, floor := recN d 22 2, gpeak := recN d 24 4
    gfloor := recN d 28 4, stkSize := recN d 36 4, features := recW d 40, out := recN r 40 4 * recN r 44 4 * recN r 48 4 }

/-- An identifier of the tenancy (R398). -/
def idOk (ten : Nat) (w : Word) : Bool := w.toNat / 2 ^ 32 == ten

/-- A floor stands in its range below the peak (R72). -/
def floorOk (floor peak : Nat) : Bool := decide (floor ≤ peak) && (floor != 0 || peak == 0)

/-- A kernel's descriptor is no descriptor of R179: a zero field is not zero, SPLIT is neither of its values, or the mask
names a feature that the device does not implement, or not the base set (R184: every object carries it). DESIGN CHOICE: such
a launch is refused (log 123). -/
def badDescriptor (l : Launch) (d : List Byte) : Bool :=
  decide (1 < recN d 18 1) || recN d 19 1 != 0 || recN d 56 8 != 0 || l.features &&& ~~~Config.features != 0
    || !l.features.getLsbD 0

/-- A record is refused (R399, R72, R73), or its bobbins cannot be reserved: the area leaves the global window (R77). -/
def refused (q : Nat) (r d : List Byte) (l : Launch) : Bool :=
  let S := l.stitches
  badDescriptor l d || decide (2 ^ 56 < l.bobbin.toNat + l.bobbinArea) ||
  !(recN r 52 2 / 4096 == 0 && recN r 57 1 / 16 == 0 && recN r 58 2 == 0 && recN r 63 1 == 0 && recN r 112 16 == 0)
    || l.nx == 0 || l.ny == 0 || l.nz == 0 || l.nbolt == 0 || decide (3 < l.group) || l.prio != q
    || l.scratch % 512 != 0 || l.stack.toNat % 65536 != 0
    || !(idOk l.ten l.id && idOk l.ten l.graph && idOk l.ten l.phase && idOk l.ten l.job)
    || (l.twin && !l.stage) || !floorOk l.floor l.peak || !floorOk l.gfloor l.gpeak
    || l.lanes % 8 != 0 || l.lanes == 0 || decide (1024 < l.lanes) || decide (4096 < l.nbolt * l.lanes)
    || decide (l.nx < 2 ^ l.group)
    || decide (16384 * l.bound.2.1 < l.scratch)
    || !validBounds l.bound.1 l.bound.2.1 l.bound.2.2
    || decide (l.bound.1 / 6 * 512 < l.floor * S + (l.peak - l.floor) * S)
    || decide (Config.groupEntries < l.gfloor + (l.gpeak - l.gfloor))

/-- The launch's graph, phase or job has been cancelled. -/
def State.cancelledAbove (s : State) (l : Launch) : Bool :=
  [(2, l.graph), (3, l.phase), (4, l.job)].any (fun p => (s.obj p.1 p.2).any (·.cancelled))

/-- A launch object is created (R406); the record of a node that was rolled back makes the same object run again
(R416, R417). -/
def addLaunch (s : State) (l : Launch) : State :=
  let old := s.launches.find? (fun m => m.id == l.id && m.requeue)
  let l := match old with
    | some m => { l with rolled := m.rolled, unstaged := m.unstaged, differ := m.differ }
    | none => l
  let others := s.launches.filter (fun m => !(m.id == l.id && (m.complete || m.requeue)))
  let s := { s with launches := others ++ [l] }
  if old.isSome then s else match s.obj 2 l.graph with
  | some o => s.putObj { o with out := o.out + 1 }
  | none => s

/-- LAUNCH_RECORD_CONSUME (R399): the next record of a queue is refused, or makes a launch; one under a cancelled
object is consumed without running (R410). DESIGN CHOICE: a record with an error that cannot be corrected, in it or in its
kernel's descriptor, is consumed as a refused one is, with status 5 (log 112). -/
def execLaunchRecordConsume (ten q : Nat) (s : State) : Out :=
  let x := s.queue ten q
  let t := s.tenOf ten
  if !x.holds || !t.en || t.busy || (s.dispatching ten q).isSome then .next s
  else
    let at_ := x.addr + 128 * (x.cons % 2 ^ x.log2n)
    let r := s.mem.bytes at_ 128
    let s := s.setQueue ten q { x with cons := (x.cons + 1) % 2 ^ 32 }
    let k := engRead s { core := 0, ten := ten, launch := 0 } (recN r 0 8) 64
    let (d, s) := match k with
      | .ok d => d
      | .error _ => ([], s)
    let s := (wordsOf at_ 128).foldl State.l2Correct s
    let l := launchOfRecord ten q r d
    let bad := (wordsOf at_ 128).any s.l2Bad || (match k with
      | .error (.cut st) => st == 5
      | _ => false)
    if bad then .next ((s.postDone 0x40 5 0 0 l.id 0).settleDeficit ten)
    else if refused q r d l || s.launches.any (fun m => m.id == l.id && !m.complete && !m.requeue) then .next ((s.postDone 0x40 4 0 0 l.id 0).settleDeficit ten)
    else if s.cancelledAbove l then
      let l := { l with cancelled := true, out := 0 }
      .next ((finishLaunch (addLaunch s l) l).settleDeficit ten)
    else .next (addLaunch s l)

/-- The lowest class of a tenancy whose next group fits, or whose next record is to be consumed: a group that fits on no
core blocks its own queue and no other (R400). Where every queue is blocked, the lowest. -/
def State.classOf (s : State) (ten : Nat) : Option Nat :=
  ([0, 1, 2, 3].find? (fun q => match s.dispatching ten q with
    | some l => (s.groupPlaces l (l.groupAt l.sent)).isSome
    | none => (s.queue ten q).holds)).or ([0, 1, 2, 3].find? (fun q => (s.dispatching ten q).isSome))

/-- The dispatcher's visit to a tenancy is under way: `rrTen` is 16 more than it. -/
def State.visiting (s : State) (ten : Nat) : Bool := s.rrTen == 16 + ten

/-- The next group of a launch is admitted to its places. -/
def admitNext (s : State) (l : Launch) (g : Nat × Nat × Nat) (places : List (Nat × Nat)) : State :=
  let s := places.zipIdx.foldl (fun s p => admitGroup s l g p.1.1 p.1.2 (p.2 == 1)
    (if l.twins then places.head? else none)) s
  s.modLaunch l.id (fun l => { l with sent := l.sent + 1 })

/-- A visit of the dispatcher to a tenancy's class (R400 to R405, R464): at its start the weight is added; while the
deficit covers the next group and it fits, it is admitted, and the visit goes on. -/
def dispatchGroup (ten q : Nat) (s : State) : Out :=
  let t := s.tenOf ten
  match s.dispatching ten q with
  | none => .next s
  | some l =>
    if !t.en || t.busy || s.classOf ten != some q || t.weight = 0 then .next s
    else
      let g := l.groupAt l.sent
      let cost := (l.members g.1).length * l.nbolt * l.stitches * (if l.twins then 2 else 1)
      let have_ := if s.visiting ten then t.deficit else t.deficit + t.weight
      let s := s.modTen ten (fun t => { t with deficit := have_ })
      match if have_ < cost then none else s.groupPlaces l g with
      | none => .next { s with rrTen := ten }
      | some places =>
        let s := admitNext s l g places
        let empty := !s.queued ten
        .next { s.modTen ten (fun t => { t with deficit := if empty then 0 else have_ - cost }) with
          rrTen := if empty then ten else 16 + ten }

/-- A `ctxload` of a launch class whose panels have been admitted, and whose every swatch can issue: no bolt of theirs is
parked (R392). -/
def State.loaded (s : State) (ten q : Nat) : Option Restore :=
  s.restores.find? (fun r => r.image.ten == ten && (s.launchOf r.image.launch).prio == q && r.placed != []
    && r.placed.all (fun p => (s.core p.1).bolts.vals.all (fun b => b.panel != p.2 || b.left || (!b.parked && !b.winding))))

/-- PANEL_GROUP_ADMIT: the panels of a `ctxload` that fit are admitted, and its destination gets the first panel's
core once every swatch of theirs can issue (R392); else the dispatcher's next group of the class (R404, R464). -/
def execPanelGroupAdmit (ten q : Nat) (s : State) : Out :=
  match s.loaded ten q with
  | some r =>
    let s := { s with restores := s.restores.filter (fun o => o.dlv != r.dlv) }
    .next (s.deliver r.dlv (BitVec.ofNat 64 (r.placed.headD (0, 0)).1) .n64 0 false)
  | none => match s.readyRestore ten q with
    | some (r, cs) =>
      let l := s.launchOf r.image.launch
      let (ps, s) := (r.image.members.zip cs).foldl (fun (t : List (Nat × Nat) × State) p =>
        let (id, s) := admitMember t.2 l p
        (t.1 ++ [(p.2, id)], s)) ([], s)
      .next { s with restores := s.restores.map (fun o => if o.dlv = r.dlv then { o with placed := ps } else o) }
    | none => dispatchGroup ten q s

/-! ### The instructions (R420 to R422) -/

/-- The issuing panel's ancestor at a level: its identifier. -/
def State.ancestor (s : State) (level : Nat) : Word :=
  match level with
  | 1 => s.bolt.launch
  | 2 => s.launch.graph
  | 3 => s.launch.phase
  | _ => s.launch.job

/-- `cancel` (R421): the swatch stops at the boundary after it. -/
def execCancel (x : Ext) (s : State) : Out :=
  issue 0x1E6 x.len x true (fun s => do
    checkNext s (s.nextPc x.len)
    let t := s.modSw (fun w => { w with pc := s.nextPc x.len })
    if !s.gActive x || s.dry x then .ok t
    else
      let lv := x.immF 0 3
      .ok (if lv = 0 then cancelPanel t s.cur.core s.bolt.panel else cancelObj t lv (s.ancestor lv))) s

/-- The counter of an ancestor with CAN (R422). -/
def hcntVal (s : State) (level : Nat) : Word :=
  let v (can : Bool) (n : Nat) : Word := BitVec.ofNat 64 ((if can then 2 ^ 63 else 0) + n % 2 ^ 32)
  match level with
  | 0 => v s.panel.cancelled s.panel.out
  | 1 => v s.launch.cancelled s.launch.out
  | n => match s.obj n (s.ancestor n) with
    | some o => v o.cancelled o.out
    | none => 0

/-- The counter of an ancestor is read: a single-bit error is corrected in place (R419). -/
def State.readCounter (s : State) (level : Nat) : State :=
  if level = 0 then s.usedPanel s.cur.core s.bolt.panel
  else if level = 1 then s.putLaunch s.launch
  else match s.obj level (s.ancestor level) with
    | some o => s.putObj o
    | none => s

/-- `hcnt` (R422). -/
def execHcnt (x : Ext) (s : State) : Out :=
  issue 0x1E7 x.len x false (fun s => do
    let p ← s.prep x [] [x.dst] true
    let t := p.lanes.foldl (fun t l => t.write x.dst l x.cntN .n64 (hcntVal s (x.immF 0 3))) p.post
    .ok (if p.lanes.isEmpty then t else t.readCounter (x.immF 0 3))) s

end Sys2Proof.Machine
end

