-- ==== Sys2Proof/Machine/System.lean ====
section
/-! DEFINITION. System instructions, traps and pre-emption (R373 to R396): Goloc's answers to faults, special
registers, services, saves and restores of panels, error injection; and the unified store's boundaries. -/

namespace Sys2Proof.Machine

/-! ### Words of code (R34, R36) -/

/-- The word of code at an address of a tenancy. -/
def State.codeWord (s : State) (ten : Nat) (a : Word) : Option W32 :=
  match s.translateNow ten a.toNat .x with
  | .ok pa _ _ _ => some (BitVec.ofNat 32 (s.mem.readN pa 4))
  | _ => none

/-- The address after the instruction at an address. -/
def State.afterInstr (s : State) (ten : Nat) (a : Word) : Word :=
  match s.codeWord ten a with
  | some w => a + BitVec.ofNat 64 (4 * wordLen w)
  | none => a

/-! ### Answers to faults (R373, R375) -/

/-- A function on one swatch, as the step's own. -/
def State.on (s : State) (core slot ent : Nat) (f : State → State) : State :=
  let t := f { s with cur := { core := core, slot := slot, ent := ent } }
  { t with cur := s.cur }

/-- Goloc's answer to a swatch that is parked on a record, whose tenancy its control core's cycles are charged to. -/
def onParked (core slot ent : Nat) (s : State) (f : FaultRec → State → State) : Out :=
  let w := (s.boltAt core slot).sw.getD ent {}
  .next (match w.st, w.frec with
    | .parked, some r => (s.on core slot ent (f r)).spend (s.boltAt core slot).ten
    | _, _ => s)

/-- FAULT_REPLAY (R375, R433): the swatch resumes at the PC in portable form. -/
def execFaultReplay (core slot ent : Nat) (s : State) : Out :=
  onParked core slot ent s (fun r s => s.modSw (fun w =>
    { w with st := .ready, frec := none, native := false, noWatch := w.noWatch || r.cause == 0x14
             unfin := if unfinishedCause r.cause then w.unfin else none }))

/-- A new record of cause 0x02 in place of another: raised now, with the region stack of now (R375, R426). -/
def badNext (s : State) (r : FaultRec) (addr : Word) : State :=
  postFault s { r with cause := 0x02, addr := addr, time := s.hb, regions := s.bolt.top3 } s.sw.ctx

/-- FAULT_SKIP (R375): the swatch resumes at the following instruction, when that word starts one. -/
def execFaultSkip (core slot ent : Nat) (s : State) : Out :=
  onParked core slot ent s (fun r s =>
    let n := s.afterInstr s.ten r.pc
    if s.nextBit s.ten r.pc n then
      s.modSw (fun w => { w with st := .ready, frec := none, native := false, unfin := none, pc := n, noWatch := false
                                 noProbe := none })
    else badNext s r n)

/-- Delivery to the bolt's handler of a fault that Goloc or a wait has kept (R375, R378), at the vector that stood when
it was raised (R383); zero always fails the check. -/
def deliverTo (s : State) (r : FaultRec) : State :=
  if s.sw.vec != 0 && s.startBit s.ten s.sw.vec then enterHandler s r s.sw.ctx s.sw.vec
  else badNext s r (BitVec.ofNat 64 (r.cause % 256))

/-- FAULT_DELIVER (R375): it waits while another swatch of the bolt is in the handler. -/
def execFaultDeliver (core slot ent : Nat) (s : State) : Out :=
  onParked core slot ent s (fun r s =>
    if s.bolt.trap.act && !s.sw.hand then s.modSw (fun w => { w with st := .deferred }) else deliverTo s r)

/-- FAULT_END (R375, R416, R417): the launch is cancelled; a staged node that consumed an uncorrectable error is
rolled back, an unstaged one's graph is cancelled with it. -/
def execFaultEnd (core slot ent : Nat) (s : State) : Out :=
  onParked core slot ent s (fun r s =>
    if r.cause ≠ 0x13 then cancelLaunch s s.launch.id else errorIn s s.launch.id)

/-- DEFERRED_FAULT_DELIVERY (R373): after the handler's `trapret`. -/
def execDeferredFaultDelivery (core slot ent : Nat) (s : State) : Out :=
  let b := s.boltAt core slot
  let w := b.sw.getD ent {}
  .next (match w.st, w.frec with
    | .deferred, some r => if b.trap.act then s else s.on core slot ent (fun s => deliverTo s r)
    | _, _ => s)

/-- `trapret` (R379). -/
def execTrapret (x : Ext) (s : State) : Out :=
  issue 0x1E1 x.len x true (fun s =>
    if (s.actLanes x).isEmpty then do
      checkNext s (s.nextPc x.len)
      .ok (s.modSw (fun w => { w with pc := s.nextPc x.len }))
    else trapReturn s (if x.modN = 1 then s.afterInstr s.ten s.bolt.trap.pc else s.bolt.trap.pc)) s

/-! ### The unified store (R202 to R204) -/

/-- A write to a boundary register of a core: 0 REG, 1 SCR, 2 L1; 3 is the status. -/
def State.ubWrite (s : State) (core which : Nat) (value : Word) : State :=
  s.modCore core (fun c =>
    let g := value.toNat % 256
    let b : Nat × Nat × Nat := match which with
      | 0 => (g, c.ubScr, c.ubL1)
      | 1 => (c.ubReg, g, c.ubL1)
      | _ => (c.ubReg, c.ubScr, g)
    if which = 3 then { c with ubRej := c.ubRej && !value.getLsbD 1 }
    else if c.busy || !validBounds b.1 b.2.1 b.2.2 then { c with ubRej := true }
    else { c with ubReg := b.1, ubScr := b.2.1, ubL1 := b.2.2, l1 := {}, scr := [], scrEcc := {} })

/-- UB_BOUNDARY_WRITE (R203). -/
def execUbBoundaryWrite (core : Nat) (which : Nat) (value : Word) (s : State) : Out := .next (s.ubWrite core which value)

/-! ### Saves (R385 to R391) -/

/-- The panels that are saved with a panel: its group's (R385). -/
def State.groupOf (s : State) (core p : Nat) : List (Nat × Nat) :=
  (List.range 8).filterMap (fun i => s.groupPanel core p i)

/-- The bolts of a panel that have not left, by slot. -/
def Core.boltsOf (c : Core) (p : Nat) : List (Nat × Bolt) := c.bolts.ents.filter (fun b => b.2.panel == p && !b.2.left)

/-- The numbers that a panel owns in a table of owners. -/
def owned (t : Tab Nat) (p : Nat) : List Nat := (t.ents.filter (fun e => e.2 == p)).map Prod.fst

/-- The bound of R390 on an image of some panels. -/
def State.imageBound (s : State) (ms : List (Nat × Nat)) : Nat :=
  ms.foldl (fun a m =>
    let c := s.core m.1
    let p := s.panelAt m.1 m.2
    (c.boltsOf m.2).foldl (fun a b => a + b.2.peak * b.2.stitches * 48 + 12288 + 128 * b.2.stitches)
      (a + p.scrSize + 4096 * ((owned c.trayOwn m.2).length + (owned c.regOwn m.2).length) + 3072)) 4096

/-- A bolt is pre-empted: its swatches stop, and its revocable lanes are doomed (R262, R386). -/
def Bolt.preempted (b : Bolt) : Bolt := { b with frozen := true, tx := ⟨b.tx.ents.map (fun t => (t.1, t.2.doomBy 9))⟩ }

/-- The bolts of some panels are pre-empted: again once every swatch has stopped, for one that has run on with an
irrevocable lane may have begun revocable ones (R262). -/
def preempt (s : State) (ms : List (Nat × Nat)) : State :=
  ms.foldl (fun s m => s.modCore m.1 (fun c =>
    { c with bolts := ⟨c.bolts.ents.map (fun b => (b.1, if b.2.panel == m.2 then b.2.preempted else b.2))⟩ })) s

/-- A save begins (R386, step 1; R387): the panels' swatches stop, revocable lanes are doomed, and every copy of
theirs will write its record. -/
def startSave (s : State) (core : Nat) (v : Save) : State :=
  let ms := s.groupOf core v.panel
  let s := ms.foldl (fun s m => s.modCore m.1 (fun c =>
    let rec_ (k : Copy) : Copy := if k.panel == m.2 then { k with wrec := true } else k
    { c with copies := c.copies.map rec_ })) (preempt s ms)
  s.modCore core (fun c => { c with save := some v })

/-- The waits of step 2 are over, and every swatch has come to a boundary (R386). -/
def State.saveReady (s : State) (ms : List (Nat × Nat)) : Bool :=
  ms.all (fun m =>
    let bs := (s.core m.1).boltsOf m.2
    !s.panelBusy m.1 m.2 && bs.all (fun b => b.2.irrLanes == 0 && !b.2.sw.vals.any Swatch.midway)
      && s.dlv.all (fun d => d.core != m.1 || !(s.core m.1).bolts.ents.any (fun b => b.2.panel == m.2 && b.1 == d.slot))
      && s.remote.all (fun r => r.core != m.1 || r.panel != m.2))

/-- A swatch as an image holds it: what it waited for at its instruction begins again (R248). -/
def Swatch.saved (w : Swatch) : Swatch :=
  { w with phase := 0, hold := w.kept, edge := none, bad := [], walked := [], yield := [], yieldAt := 0, short := none, grant := (0, 0)
           native := false, block := none
           st := match w.st with
             | .retry _ => .ready
             | .walk _ => .ready
             | st => st }

/-- A bolt as an image holds it. -/
def Bolt.saved (b : Bolt) : Bolt :=
  { b with sw := ⟨b.sw.ents.map (fun e => (e.1, e.2.saved))⟩, flagLog := [], lastClk := 0, cached := 0, winding := false
           tx := ⟨b.tx.ents.map (fun t => (t.1, { t.2 with rd := [], wr := {}, wrw := [], vas := {}, lines := [], dec := 0 }))⟩ }

/-- A panel as an image holds it (R388). -/
def imgPanel (s : State) (core p : Nat) : ImgPanel :=
  let c := s.core core
  let q := s.panelAt core p
  let ts := owned c.trayOwn p
  let rs := owned c.regOwn p
  { cidx := core % 8, panel := q
    bolts := ⟨(c.boltsOf p).map (fun b => (b.1, b.2.saved))⟩
    scr := (c.scr.filter (fun e => decide (q.scrOff ≤ e.1) && decide (e.1 < q.scrOff + q.scrSize))).map
      (fun e => (e.1 - q.scrOff, e.2))
    trays := ts
    tray := c.tray.filter (fun e => ts.contains (e.1 / 4096))
    regions := rs.foldl (fun t r => t.set r (c.regS32.getD r false)) {}
    acc := ⟨c.acc.ents.filter (fun e => rs.contains (e.1 / 1024))⟩
    pattern := if c.psOwner == some q.launch then some c.leaders else none }

/-- The header of an image (R389), without its MAGIC. -/
def imageHeader (s : State) (l : Launch) (n size : Nat) (table : Bool) : List Byte :=
  toLE 1 2 ++ toLE n 2 ++ toLE 1 8 ++ toLE size 8 ++ toLE l.id.toNat 8 ++ toLE s.hb.toNat 8
    ++ [BitVec.ofNat 8 l.bound.1, BitVec.ofNat 8 l.bound.2.1, BitVec.ofNat 8 l.bound.2.2, 0]
    ++ toLE ((if table then 1 else 0) + (if l.priv then 2 else 0) + (if l.errinj then 4 else 0)) 4 ++ toLE 0 16

/-- The four bytes of MAGIC. -/
def imageMagic : List Byte := [0x4C, 0x43, 0x58, 0x00]

/-- Writes in order, up to the first that does not go on. -/
def writeAll (w : Who) : List (Nat × List Byte) → State → State × Option EngStop
  | [], s => (s, none)
  | (va, bs) :: r, s => match engWrite s w va bs with
    | .ok t => writeAll w r t
    | .error e => (s, some e)

/-- The writes of an image, page by page: MAGIC zero, the body, the header, MAGIC (R390). -/
def imageWrites (a : Nat) (body header : List Byte) : List (Nat × List Byte) :=
  (a, toLE 0 4) :: (segsOf (a + 64) body.length).map (fun g => (g.2.1, (body.drop g.1).take g.2.2))
    ++ [(a + 4, header), (a, imageMagic)]

/-- The bolts of some panels issue again, from the boundaries where they stopped (R390). -/
def unfreeze (s : State) (ms : List (Nat × Nat)) : State :=
  ms.foldl (fun s m => s.modCore m.1 (fun c =>
    { c with bolts := ⟨c.bolts.ents.map (fun b => (b.1, if b.2.panel == m.2 then { b.2.rest with frozen := false } else b.2))⟩ })) s

/-- A save is abandoned at an address (R390). -/
def abandonSave (s : State) (core : Nat) (v : Save) (va : Word) : State :=
  let s := unfreeze s (s.groupOf core v.panel)
  let s := s.modCore core (fun c => { c with save := none })
  match v.by_ with
  | some (e, _) => s.on core v.slot e (fun s => raise s 0x09 va s.sw.mask)
  | none =>
    let launch := (s.panelAt core v.panel).launch
    (s.modCore core (fun c => { c with peFail := true, peDone := true })).post
      (.fault { cause := 0x16, core := core, bolt := v.slot, launch := launch, time := s.hb, mask := va.setWidth 128 })

/-- The `ctxsave` that a save runs for has read its operand, counts as an instruction that has issued (R60), and its swatch is
saved at the next one (R391). -/
def pastSave (s : State) (core : Nat) (v : Save) : State :=
  match v.by_ with
  | none => s
  | some (e, c) => s.on core v.slot e (fun s =>
    s.completed 1 ((s.setCell c 0 ((s.cell c 0).take 1)).modSw (fun w => { w with pc := w.pc + 12, st := .ready })))

/-- The panels of a save leave their cores, and the irrevocability token with a bolt of theirs that has not used it. -/
def dropPanels (s : State) (ms : List (Nat × Nat)) : State :=
  ms.foldl (fun s m =>
    let mine (t : Nat × Nat × Nat) : Bool := t.1 == m.1 && (s.boltAt t.1 t.2.1).panel == m.2
    let s := { s with token := if s.token.any mine then none else s.token }
    let s := s.modCore m.1 (fun c => { c with bolts := ⟨c.bolts.ents.filter (fun b => b.2.panel != m.2)⟩ })
    freePanel s m.1 m.2) s

/-- The image is complete (R386, steps 3 and 4): a cancel that waited for it discards it (R410). -/
def endSave (s : State) (core : Nat) (v : Save) (ms : List (Nat × Nat)) : State :=
  let p := s.panelAt core v.panel
  let l := s.launchOf p.launch
  let gone := l.cancelled || p.cancelled
  let i : Image := { ten := p.ten, addr := v.addr, launch := p.launch, time := s.hb, discarded := gone
                     members := ms.map (fun m => imgPanel s m.1 m.2) }
  let s := dropPanels s ms
  let images := s.images.filter (fun j => !(j.ten == i.ten && j.addr == i.addr)) ++ [i]
  let s := { s with images := images }
  let s := if gone then s.modLaunch l.id (fun l => i.members.foldl (fun l m => l.panelOver m.panel false) l) else s
  let s := s.modCore core (fun c => { c with save := none, peDone := true })
  let r : FaultRec := { cause := 0x16, core := core, bolt := v.slot, addr := v.addr, launch := l.id, time := s.hb }
  settleLaunches (s.post (.fault r))

/-- SAVE_WRITE (R386, R390): once its waits are over, the image is written. -/
def execSaveWrite (core : Nat) (s : State) : Out :=
  match (s.core core).save with
  | none => .next s
  | some v =>
    let ms := s.groupOf core v.panel
    if v.page || !s.saveReady ms then .next s
    else
      let p := s.panelAt core v.panel
      let l := s.launchOf p.launch
      let size := 64 + Config.imageBytes s.fresh % (s.imageBound ms - 63)
      let body := (List.range (size - 64)).map (fun i => Config.freeByte (s.fresh + i))
      let table := ms.any (fun m => (s.core m.1).psOwner == some l.id)
      let t := { preempt s ms with fresh := s.fresh + size }
      match writeAll { core := core, ten := p.ten, launch := l.id }
          (imageWrites v.addr.toNat body (imageHeader t l ms.length size table)) t with
      | (t, none) => .next (endSave (pastSave t core v) core v ms)
      | (t, some (.page va)) =>
        .next ((t.modCore core (fun c => { c with save := some { v with page := true } })).post (.page 5 core 0 va))
      | (t, some (.cut _)) =>
        let bad := (segsOf v.addr.toNat size).find? (fun g => match engPa t { core := core, ten := p.ten, launch := l.id } .w g.2.1 1 with
          | .error (.cut _) => true
          | _ => false)
        .next (abandonSave t core v (match bad with | some g => BitVec.ofNat 64 g.2.1 | none => v.addr))
      | (_, some .busy) => .next s

/-- SAVE_PAGE_RESUME (R390). -/
def execSavePageResume (core : Nat) (s : State) : Out :=
  let t := s.modCore core (fun c => { c with save := c.save.map (fun v => { v with page := false }) })
  .next (match (s.core core).save with
    | some v => t.spend (s.panelAt core v.panel).ten
    | none => t)

/-- A write of `PE.CTL` (R385): GO starts a save of the panel that holds the slot, unless one runs. -/
def State.peWrite (s : State) (core : Nat) (value : Word) : State :=
  let slot := value.toNat / 2 ^ 56
  let s := s.modCore core (fun c => { c with
    peBolt := slot, peImg := value.toNat / 2 ^ 12 % 2 ^ 44
    peFail := c.peFail && !value.getLsbD 3, peDone := c.peDone && !value.getLsbD 2 })
  let c := s.core core
  match c.bolts.get? slot with
  | some b =>
    if value.getLsbD 0 && c.save.isNone && !b.left && c.panels.has b.panel && !s.saving core b.panel then
      (startSave s core { panel := b.panel, addr := BitVec.ofNat 64 (c.peImg * 4096), slot := slot }).spend b.ten
    else s
  | none => s

/-- PE_GO (R385). -/
def execPeGo (core : Nat) (value : Word) (s : State) : Out := .next (s.peWrite core value)

/-- The word of `PE.CTL` (R385). -/
def Core.peWord (c : Core) : Word :=
  BitVec.ofNat 64 (c.peBolt * 2 ^ 56 + c.peImg * 2 ^ 12 + (if c.peFail then 8 else 0) + (if c.peDone then 4 else 0)
    + (if c.save.isSome then 2 else 0))

/-- The checks that `ctxsave` and `ctxload` make of an image's address (R391, R392): the physical address. -/
def imageAddr (s : State) (a : Word) (p : Perm) : R Nat :=
  if a.toNat % 4096 ≠ 0 then trap 0x0A a s.sw.mask
  else if winOf a ≠ 0 then trap 0x0B a s.sw.mask
  else match s.translate s.cur.core s.ten a.toNat p s.sw with
    | .ok pa _ _ _ => .ok pa
    | .miss v => .error (.wait (.walk (BitVec.ofNat 64 v)) s)
    | .bad c v => trap c (BitVec.ofNat 64 v) s.sw.mask

/-- `ctxsave` (R391): the swatch waits at it until the image is written, its operand then read. -/
def execCtxsave (x : Ext) (s : State) : Out :=
  issue 0x1E4 x.len x false (fun s => do
    let srcs := srcsOf 0x1E4 x
    let ls ← s.ready x srcs [] false
    match s.liveLanes x ls with
    | [] => do
      let p ← s.takeUp x ls srcs [] false
      .ok p.post
    | _ => do
      let a := (s.opnd (srcs.headD { pos := 1 }) 0).val
      let _ ← imageAddr s a .w
      if s.cc.save.isSome || s.saving s.cur.core s.bolt.panel then retry s 1
      .error (.wait (.retry 1) (startSave s s.cur.core
        { panel := s.bolt.panel, addr := a, slot := s.cur.slot, by_ := some (s.cur.ent, x.a) }))) s

/-! ### Special registers (R382, R383) -/

/-- The word of `CQ.…` by its index from 0x110 on. -/
def Core.cqWord (c : Core) (i : Nat) : Nat :=
  match i / 4 with
  | 0 => c.cqMinOf (i % 4)
  | 1 => c.cqCapOf (i % 4)
  | 2 => c.cqQuantOf (i % 4)
  | _ => c.cqOcc (i % 4)

/-- The word of `MX.STAT` (R317). -/
def State.mxStat (s : State) (core : Nat) : Nat :=
  let q := (s.core core).mxq
  (if (s.slaving core).isEmpty then 0 else 32) + (if q.any (·.started) then 16 else 0) + min q.length 8

/-- The special register of an index, in a lane. -/
def spVal (s : State) (i lane : Nat) : Word :=
  let b := s.bolt
  let c := s.cc
  let n (v : Nat) : Word := BitVec.ofNat 64 v
  match i with
  | 0x000 => b.flags.setWidth 64
  | 0x001 => s.hb
  | 0x010 => b.trap.vec
  | 0x011 => b.trap.deleg
  | 0x012 => n ((if b.trap.act then 256 else 0) + b.trap.cause % 256)
  | 0x013 => b.trap.pc
  | 0x014 => b.trap.addr
  | 0x015 => b.trap.mask.setWidth 64
  | 0x016 => b.trap.mask.extractLsb' 64 64
  | 0x017 => if b.trap.lfail.getLsbD lane then 1 else 0
  | 0x020 => n ((if b.priv then 1 else 0) + (if b.errinj then 2 else 0))
  | 0x021 => n (s.imageBound (s.groupOf s.cur.core b.panel))
  | 0x100 => n c.ubReg
  | 0x101 => n c.ubScr
  | 0x102 => n c.ubL1
  | 0x103 => n ((if c.ubRej then 2 else 0) + (if c.busy then 1 else 0))
  | 0x120 => n ((if c.psRegen then 2 else 0) + (if c.psOwner.isSome then 1 else 0))
  | 0x121 => c.psOwner.getD 0
  | 0x122 => n (s.mxStat s.cur.core)
  | 0x130 => c.peWord
  | k => n (c.cqWord (k - 0x110))

/-- A write of `FX.FLAGS` that has waited overwrites the conditions of earlier instructions and no later ones (R135). -/
def Bolt.setFlags (b : Bolt) (since : Nat) (v : BitVec 5) : Bolt :=
  { b with flags := (b.flagLog.filter (fun e => decide (since < e.1))).foldl (fun f e => f ||| e.2) v }

/-- A write of a special register (R382): of its writable fields alone. -/
def spWrite (s : State) (i : Nat) (v : Word) : State :=
  let core := s.cur.core
  match i with
  | 0x000 => s.modBolt (fun b => b.setFlags s.sw.hold.toNat (v.setWidth 5))
  | 0x010 => s.modBolt (fun b => { b with trap := { b.trap with vec := v &&& 0xFFFFFFFFFFFFFFFC } })
  | 0x011 => s.modBolt (fun b => { b with trap := { b.trap with deleg :=
      v &&& ~~~(BitVec.ofNat 64 ((List.range 64).foldl (fun a c => if delegable c then a else a + 2 ^ c) 0)) } })
  | 0x013 => s.modBolt (fun b => if b.trap.act then { b with trap := { b.trap with pc := v } } else b)
  | 0x100 | 0x101 | 0x102 | 0x103 => s.ubWrite core (i - 0x100) v
  | 0x130 => s.peWrite core v
  | k =>
    if 0x110 ≤ k ∧ k ≤ 0x11B then
      match execCqQueueWrite core (k - 0x110) v s with
      | .next t => t
      | _ => s
    else s

/-- The check of privilege on a special register (R377, R382). Its place in the order of R6, before the checks of sources
and destination, is a DESIGN CHOICE (log 62), here as for `ctxload` and `errinj`. -/
def spPriv (s : State) (opc i : Nat) (lanes : Mask) : R Unit :=
  if 0x100 ≤ i && !s.bolt.priv then trap 0x07 (BitVec.ofNat 64 (opc + i * 2 ^ 16)) lanes else .ok ()

/-- The wait of R135 before `FX.FLAGS` is read or written: for the deliveries, of memory too, of the instructions issued
before it, which its serial number parts from later ones. Flags that are recorded meanwhile are kept apart. -/
def flagsWait (i : Nat) (s : State) : R State :=
  if i ≠ 0 then .ok s
  else
    let s := if s.sw.phase = 0 then s.takeSerial.2.modSw (fun w => { w with phase := 8, hold := BitVec.ofNat 64 s.serial }) else s
    if s.dlv.any (fun d => d.core == s.cur.core && d.slot == s.cur.slot && decide (d.id < s.sw.hold.toNat)
        && (match d.bring with | .value _ _ _ _ => true | _ => false)) then retry s 12
    else .ok s

/-- `getsp` (R383). -/
def execGetsp (x : Ext) (s : State) : Out :=
  issue 0x1E2 x.len x false (fun s => do
    let i := x.immF 0 12
    let ls := s.actLanes x
    if !ls.isEmpty then spPriv s 0x1E2 i (s.failMask x ls)
    let ls ← s.ready x [] [x.dst] x.fmt.is64
    let s ← if ls.isEmpty then .ok s else flagsWait i s
    let p ← s.takeUp x ls [] [x.dst] x.fmt.is64
    .ok (p.lanes.foldl (fun t l => t.write x.dst l x.cntN x.fmt (spVal s i l)) p.post)) s

/-- `setsp` (R383). -/
def execSetsp (x : Ext) (s : State) : Out :=
  issue 0x1E3 x.len x false (fun s => do
    let i := x.immF 0 12
    let srcs := srcsOf 0x1E3 x
    if !(s.actLanes x).isEmpty then spPriv s 0x1E3 i s.sw.mask
    let ls ← s.ready x srcs [] false
    let s ← if ls.isEmpty then .ok s else flagsWait i s
    let p ← s.takeUp x ls srcs [] false
    .ok (p.lanes.foldl (fun t l => spWrite t i (p.opnd 1 l).val) p.post)) s

/-! ### Services (R384) -/

/-- The code of an `svc`. -/
def svcCode (x : Ext) : Nat := x.immF 0 16

/-- `svc` (R384): a release, then the request is posted, and the swatch goes on. -/
def execSvc (x : Ext) (s : State) : Out :=
  issue 0x1E0 x.len x false (fun s => do
    let srcs := srcsOf 0x1E0 x
    let ls ← s.ready x srcs [x.dst] true
    match s.liveLanes x ls with
    | [] => do
      let p ← s.takeUp x ls srcs [x.dst] true
      .ok (p.lanes.foldl (fun t l => t.write x.dst l x.cntN .n64 0) p.post)
    | _ => do
      let s ← s.releaseWait 12
      let p ← s.takeUp x ls srcs [x.dst] true
      let v := (p.opnd 1 0).val
      let code := svcCode x
      let id := p.post.serial
      let t := p.post.owe x.dst 0 x.cntN .n64 none false false (.await .n64)
      let r : FaultRec := { faultRec s 0x31 (BitVec.ofNat 64 (code + x.dst.toNat * 2 ^ 16)) 0 with mask := v.setWidth 128 }
      let q : Service := { dlv := id, code := code, arg := v, ten := s.ten, launch := s.bolt.launch }
      .ok { t.post (.fault r) with services := s.services ++ [q] }) s

/-- A result of R384 that is an error. -/
def svcError (r : Word) : Bool := decide (0xFFFFFFFFFFFFFF00 ≤ r.toNat)

/-- The error results of R384: an unknown service, a bad argument, a refusal. -/
def svcUnknown : Word := 0xFFFFFFFFFFFFFF01
def svcBadArg : Word := 0xFFFFFFFFFFFFFF02
def svcRefused : Word := 0xFFFFFFFFFFFFFF03

/-- The number of a `.lko` at an offset, or nothing where its bytes cannot be read (R181). -/
def lkoN (s : State) (w : Who) (base off n : Nat) : Option Nat :=
  match engRead s w (base + off) n with
  | .ok bs => some (ofLE bs.1)
  | .error _ => none

/-- The header of a `.lko` (R181): its MAGIC, VERSION and NSECT, its start map's offset, and its features; a table that
would leave the global window makes it none. -/
def lkoHeader (s : State) (w : Who) (base : Nat) : Option (Nat × Nat × Word) := do
  let f (off n : Nat) : Option Nat := lkoN s w base off n
  let magic ← f 0 4
  let version ← f 4 2
  let nsect ← f 6 2
  let sectab ← f 8 8
  let map ← f 16 8
  let tables ← [24, 32, 40, 48].mapM (fun o => f o 8)
  let features ← f 56 8
  if magic ≠ 0x004F4B4C ∨ version ≠ 1 ∨ nsect ≠ 4 ∨ (sectab :: map :: tables).any (fun o => decide (2 ^ 56 ≤ base + o)) then none
  else some (sectab, map, BitVec.ofNat 64 features)

/-- The `.text` of a `.lko` and its start map: offsets of the first words of instructions. -/
def lkoText (s : State) (w : Who) (base sectab map : Nat) : Option (List Byte × List Nat) := do
  let off ← lkoN s w base sectab 8
  let size ← lkoN s w base (sectab + 8) 8
  match engRead s w (base + off) size, engRead s w (base + map) ((size / 4 + 7) / 8) with
  | .ok text, .ok bits => some (text.1, (List.range (size / 4)).filter (fun i => (bits.1.getD (i / 8) 0).getLsbD (i % 8)))
  | _, _ => none

/-- The places of a code object: for each page its offset, its physical address and its bytes; none where a page is not
mapped readable and executable (R36). -/
def codePlaces (s : State) (ten : Nat) (at_ : Word) (n : Nat) : Option (List (Nat × Nat × Nat)) :=
  (segsOf at_.toNat n).mapM (fun g => match s.translateNow ten g.2.1 .x, s.translateNow ten g.2.1 .r with
    | .ok pa _ _ _, .ok _ _ _ _ => some (g.1, pa, g.2.2)
    | _, _ => none)

/-- What Goloc does with a `.lko` (R36, R181, R184): it is no `.lko`; its mask names a feature that the device does not
implement, or the place chosen for it is not executable; its lines must be waited for (R238); or it stands. -/
inductive Install where
  | result (r : Word)
  | wait
  | done (s : State)

/-- The code object of a `.lko` placed at an address: its `.text`, and its start map. The alignment that the section's entry
gives is not read, a multiple of 4 is enough, and an object whose mask lacks bit 0 is installed as any other (DESIGN CHOICE,
log 86). -/
def installCode (s : State) (q : Service) (at_ : Word) : Install :=
  let w : Who := { core := 0, ten := q.ten, launch := q.launch }
  match lkoHeader s w q.arg.toNat with
  | none => .result svcBadArg
  | some (sectab, map, features) =>
    if features &&& ~~~Config.features ≠ 0 then .result svcRefused
    else match lkoText s w q.arg.toNat sectab map with
      | none => .result svcBadArg
      | some (text, starts) => match codePlaces s q.ten at_ text.length with
        | none => .result svcRefused
        | some ps =>
          if at_.toNat % 4 ≠ 0 then .result svcRefused
          else if ps.any (fun p => (linesOf p.2.1 p.2.2).any (fun l => s.lineBusy l none)) then .wait
          else
            let s := ps.foldl (fun s p => s.writeL2 p.2.1 ((text.drop p.1).take p.2.2) 0x90 q.ten) s
            .done { s with codes := s.codes ++ [{ ten := q.ten, base := at_, words := text.length / 4, starts := starts }] }

/-- A post to the control program: a vector of the tenancy's function (R384, R455). -/
def State.postHost (s : State) (ten : Nat) : State :=
  let (n, s) := s.freshId
  s.post (.vector (ten + 1) (2 + Config.hostVector n % 6))

/-- A service's result and effect (R384): none while it waits for a line. `result` is what Goloc chose: where a code
object stands, or its refusal. -/
def serve (s : State) (q : Service) (result : Word) : Option (Word × State) :=
  match q.code with
  | 0 => some (1, s)
  | 1 =>
    if svcError result then some (svcRefused, s)
    else match installCode s q result with
      | .result r => some (r, s)
      | .wait => none
      | .done t => some (result, t)
  | 2 =>
    let mine (c : CodeObj) : Bool := c.ten == q.ten && c.base == q.arg
    if s.codes.any mine then some (0, { s with codes := s.codes.filter (fun c => !mine c) }) else some (svcBadArg, s)
  | 3 => some (0, s.postHost q.ten)
  | 5 => some (if 7 < q.arg.toNat then svcBadArg else BitVec.ofNat 64 (s.acctWord q.ten q.arg.toNat), s)
  | _ => some (svcUnknown, s)

/-- SVC_RESULT: Goloc delivers what a service gave, its writes performed (R384): a code object is installed or
removed, the launch ends. -/
def execSvcResult (id : Nat) (result : Word) (s : State) : Out :=
  .next (match s.services.find? (fun q => q.dlv == id) with
    | none => s
    | some q =>
      let rest (t : State) : State := { t.spend q.ten with services := t.services.filter (fun r => r.dlv != id) }
      if q.code = 4 then cancelLaunch (rest s) q.launch
      else match serve s q result with
        | none => s
        | some (r, t) => (rest t).deliver id r .n64 0 false)

/-! ### ctxload (R392) -/

/-- The lowest feature of an image that the device does not implement. -/
def missingFeature (live : Word) : Option Nat :=
  (List.range 64).find? (fun i => live.getLsbD i && !Config.features.getLsbD i)

/-- The image that a header names: the one saved at the address, else one with the launch and time. -/
def State.imageOf (s : State) (ten : Nat) (a launch time : Word) : Option Image :=
  let is := s.images.filter (fun i => i.ten == ten && i.launch == launch && i.time == time && !i.discarded)
  match is.find? (fun i => i.addr == a) with
  | some i => some i
  | none => is.head?

/-- A panel of an image is resident, or waits to be. -/
def State.imageResident (s : State) (i : Image) : Bool :=
  let same (p q : Panel) : Bool := p.launch == q.launch && p.x == q.x && p.y == q.y && p.z == q.z && p.copyB == q.copyB
  i.members.any (fun m => s.cores.vals.any (fun c => c.panels.vals.any (same m.panel))
    || s.restores.any (fun r => r.image.members.any (fun n => same m.panel n.panel)))

/-- The checks of R392 on a header: the image, or the fault. One that passes them all and names no image that this device
has saved is refused as one of a launch that is gone (log 42). -/
def checkImage (s : State) (a : Word) (h : List Byte) : R Image :=
  let m := s.sw.mask
  let launch := recW h 24
  let l := s.launches.find? (fun l => l.id == launch && !l.complete)
  let i := s.imageOf s.ten a launch (recW h 32)
  if h.take 4 ≠ imageMagic then trap 0x33 1 m
  else if recN h 4 2 ≠ 1 then trap 0x33 2 m
  else if recN h 6 2 = 0 ∨ 8 < recN h 6 2 then trap 0x33 3 m
  else if recN h 16 8 < 64 ∨ 2 ^ 56 < a.toNat + recN h 16 8 then trap 0x33 4 m
  else if l.isNone then trap 0x33 5 m
  else if i.any (fun i => i.members.length != recN h 6 2) then trap 0x33 3 m
  else if i.any s.imageResident then trap 0x33 6 m
  else match missingFeature (recW h 8), i with
    | some f, _ => trap 0x19 (BitVec.ofNat 64 f) m
    | none, some i => .ok i
    | none, none => trap 0x33 5 m

/-- The header of an image (R389), a direct access (R381): an error that cannot be corrected is 0x13 at its word, and a
line that must be waited for is. -/
def readHeader (s : State) (a : Word) (pa : Nat) : R (List Byte × State) :=
  let m := s.sw.mask
  match engRead s { core := s.cur.core, ten := s.ten, launch := s.bolt.launch, stg := s.bolt.stage } a.toNat 64 with
  | .ok h => .ok h
  | .error .busy => retry s 2
  | .error (.page v) => trap 0x08 v m
  | .error (.cut c) =>
    if c = 2 then trap 0x09 a m
    else if c = 7 then trap 0x0C a m
    else trap 0x13 (BitVec.ofNat 64 (((wordsOf pa 64).find? s.l2Bad).getD pa)) m

/-- `ctxload` (R392). -/
def execCtxload (x : Ext) (s : State) : Out :=
  issue 0x1E5 x.len x false (fun s => do
    let srcs := srcsOf 0x1E5 x
    if !(s.actLanes x).isEmpty && !s.bolt.priv then trap 0x07 0x1E5 s.sw.mask
    let ls ← s.ready x srcs [x.dst] true
    match s.liveLanes x ls with
    | [] => do
      let p ← s.takeUp x ls srcs [x.dst] true
      .ok (p.lanes.foldl (fun t l => t.write x.dst l x.cntN .n64 0) p.post)
    | _ => do
      let a := (s.opnd (srcs.headD { pos := 1 }) 0).val
      let pa ← imageAddr s a .r
      let (h, s) ← readHeader s a pa
      let i ← checkImage s a h
      let p ← s.takeUp x ls srcs [x.dst] true
      let id := p.post.serial
      let t := p.post.owe x.dst 0 x.cntN .n64 none false false (.await .n64)
      .ok { t with restores := t.restores ++ [{ dlv := id, image := i }] }) s

/-! ### errinj (R393) -/

/-- DET, and the bit that a form flips. -/
def injDet (x : Ext) : Bool := x.imm.getLsbD 21
def injBit (x : Ext) : Word := BitVec.ofNat 64 (2 ^ (x.immF 0 6))

/-- A stored value and its check's flips after a flip of `bit`: with new check bits, or with the old ones. -/
def flipBit (det : Bool) (val flips bit : Word) : Word × Word := if det then (val, flips ^^^ bit) else (val ^^^ flips ^^^ bit, 0)

/-- Sets an entry of flips; none is not listed. -/
def setFlips (t : Tab Word) (k : Nat) (v : Word) : Tab Word := if v = 0 then t.erase k else t.set k v

/-- `errinj.acc`. -/
def injAcc (x : Ext) (s : State) : R State :=
  let g := x.immF 15 6
  let k := 1024 * g + x.immF 5 10
  let bit : Word := BitVec.ofNat 64 (2 ^ (x.immF 0 5))
  if s.cc.regOwn.get? g != some s.bolt.panel then trap 0x0F (BitVec.ofNat 64 g) s.sw.mask
  else if s.regInUse s.cur.core g then retry s 10
  else .ok (s.modCore s.cur.core (fun c =>
    let r := flipBit (injDet x) ((c.acc.getD k 0).setWidth 64) (c.accEcc.getD k 0) bit
    let v : BitVec 32 := r.1.setWidth 32
    { c with acc := if v = 0 then c.acc.erase k else c.acc.set k v, accEcc := setFlips c.accEcc k r.2 }))

/-- `errinj.tray`. -/
def injTray (x : Ext) (s : State) : R State :=
  let t := x.immF 15 6
  let k := 4096 * t + 4 * x.immF 5 10
  let bit : Word := BitVec.ofNat 64 (2 ^ (x.immF 0 5))
  if s.cc.trayOwn.get? t != some s.bolt.panel then trap 0x0E (BitVec.ofNat 64 t) s.sw.mask
  else if s.trayBusy s.cur.core t then retry s 10
  else .ok (s.modCore s.cur.core (fun c =>
    let r := flipBit (injDet x) (BitVec.ofNat 64 (c.tray.readN k 4)) (c.trayEcc.getD k 0) bit
    { c with tray := c.tray.writeN k 4 r.1.toNat, trayEcc := setFlips c.trayEcc k r.2 }))

/-- A flip at the home of a word of a staged launch: the copy's own word, staged by the atomic (R249, R412). -/
def injStaged (x : Ext) (s : State) (cb : Bool) (a : Acc) : State :=
  let za := BitVec.ofNat 64 a.za
  let r := flipBit (injDet x) (BitVec.ofNat 64 (ofLE (s.myLoad a.pa za 8).1)) (s.launch.stgFlips cb a.za) (injBit x)
  (s.stagePut s.bolt.launch cb a.za a.pa (toLE r.1.toNat 8) s.cur.core s.cur.core).modLaunch s.bolt.launch
    (fun l => { l with stgEcc := setFlips l.stgEcc (a.za / 8 * 8 + (if cb then 2 ^ 64 else 0)) r.2 })

/-- One lane's flip in a scratchpad word or at a word's home, there as a relaxed atomic (R249, R259). -/
def injOne (x : Ext) (s : State) (a : Acc) : State :=
  let bit := injBit x
  match a.place with
  | some (.scr c off) => s.modCore c (fun c =>
    let r := flipBit (injDet x) (BitVec.ofNat 64 (c.scr.readN off 4)) (c.scrEcc.getD off 0) bit
    { c with scr := c.scr.writeN off 4 r.1.toNat, scrEcc := setFlips c.scrEcc off r.2 })
  | some (.glob _) =>
    let s := ((s.plainAccess a.pa).l2Fill a.pa s.ten).bump a.pa a.acc
    let s := match s.bolt.stage with
      | some cb => injStaged x s cb a
      | none =>
        let r := flipBit (injDet x) (s.l2Word a.pa) (s.ecc.getD a.pa 0) bit
        let s := s.writeL2 a.pa (toLE r.1.toNat 8) s.cur.core s.ten
        { s with ecc := setFlips s.ecc a.pa r.2 }
    s.mapCores (fun c => { c with l1 := c.l1.erase a.pa })
  | none => s

/-- `errinj.mem`: like an atomic, it waits for an earlier load of its word by the core (R227, R249). -/
def injMem (x : Ext) (s : State) : R State := do
  let srcs := srcsOf 0x1E8 x
  let ls ← s.ready x srcs [] false
  let live := s.liveLanes x ls
  let ad (l : Nat) : Word := (s.opnd (srcs.headD { pos := 1 }) l).val
  let scr (l : Nat) : Bool := winOf (ad l) == 2 || winOf (ad l) == 3
  let word0 := ((encode (.errinj x)).headD 0).setWidth 64
  let wide := live.filter (fun l => scr l && decide (32 ≤ x.immF 0 6))
  if !wide.isEmpty then trap 0x01 word0 (s.failMask x wide)
  let odd := live.filter (fun l => (ad l).toNat % (if scr l then 4 else 8) != 0)
  if !odd.isEmpty then trap 0x0A (ad (odd.headD 0)) (s.failMask x odd)
  let q : Ask := { size := 4, perm := .w }
  let p ← addrPhase s x q (accsOf live ad 0 q)
  let r ← transPhase s x q p.2 p.1
  let as := finished r.1 x q r.2.1 r.2.2
  if as.any (fun a => (match a.place with | some (.glob _) => true | _ => false)
      && (s.lineBusy a.pa (some s.cur.core) || s.earlierLoad s.cur.core s.serial a.pa)) then retry s 2
  let ws := (as.filter (fun a => match a.place with | some (.glob _) => true | _ => false)).map (fun a => a.pa / 8 * 8)
  match r.1.drainWords s.cur.core ws 65536 with
  | none => retry s 2
  | some t => do
    let fin := ls.filter (fun l => !r.2.2.any (fun u => u.1 == l))
    let p ← t.takeUp x fin srcs [] false
    memEnd s x r.2.2 fin (as.foldl (injOne x) p.post)

/-- `errinj.reg` in one lane (R393). -/
def Cell.inject (c : Cell) (det : Bool) (bit : Word) : Cell :=
  if c.st == .empty then (if det then { c with ecc := c.ecc ^^^ bit } else { c with flip := c.flip ^^^ bit })
  else
    let r := flipBit det c.val c.ecc bit
    { c with val := r.1, ecc := r.2, poison := c.poison || rowBad r.2 }

/-- `errinj.reg`: a group-wide name is one word of storage, and is flipped once. A lane that runs dry is checked as a
register's (R258), and flips nothing. -/
def injReg (x : Ext) (s : State) : R State :=
  let ls := s.liveLanes x (s.actLanes x)
  let dead := (s.actLanes x).filter (fun l => (s.cell x.a l).dead)
  let wide := ls.filter (fun l => decide (32 ≤ x.immF 0 6) && !(s.cell x.a l).tag.is64)
  let word0 := ((encode (.errinj x)).headD 0).setWidth 64
  if !dead.isEmpty then trap 0x03 (nameAddr 1 x.a) (s.failMask x dead)
  else if !wide.isEmpty then trap 0x01 word0 (s.failMask x wide)
  else .ok ((if x.a.isV then ls else ls.take 1).foldl (fun s l =>
    s.setCell x.a l ((s.cell x.a l).inject (injDet x) (injBit x))) s)

/-- `errinj` (R393). -/
def execErrinj (x : Ext) (s : State) : Out :=
  issue 0x1E8 x.len x false (fun s => do
    let ls := s.actLanes x
    if !ls.isEmpty && !s.bolt.errinj then trap 0x07 0x1E8 (s.failMask x ls)
    match x.modN with
    | 0 => if (s.liveLanes x ls).isEmpty then .ok s else injAcc x s
    | 1 => if (s.liveLanes x ls).isEmpty then .ok s else injTray x s
    | 2 => injMem x s
    | _ => injReg x s) s

end Sys2Proof.Machine
end

