-- ==== Sys2Proof/Machine/Bobbin.lean ====
section
/-! DEFINITION. The progress rule of the register pools (R74 to R76): winding out, winding in, protection, and the
order in which freed rows serve; and the issue slots' events (R163, R164). -/

namespace Sys2Proof.Machine

/-- No delivery is pending into a bolt's names (R76, step 2). -/
def State.noDelivery (s : State) (core slot : Nat) : Bool := !s.dlv.any (fun d => d.core == core && d.slot == slot)

/-- Rows that the core's bobbin cache region still takes: what the boundaries leave of the unified store (R77, R202). -/
def Core.cacheRows (c : Core) : Nat :=
  (192 - c.ubReg - c.ubScr - c.ubL1) * 16384 / 48 - c.bolts.vals.foldl (fun a b => a + b.cached) 0

/-- The address of a bolt's bobbin in its launch's area (R77), which a twin's second copy has apart. -/
def State.bobbinAt (s : State) (core : Nat) (b : Bolt) : Nat :=
  let l := s.launchOf b.launch
  let p := s.panelAt core b.panel
  let i := (p.x + l.nx * (p.y + l.ny * p.z)) * l.nbolt + b.index
  l.bobbin.toNat + (i + (if b.copyB then l.panels * l.nbolt else 0)) * l.bobbinSize

/-- Step 3 of R76: rows go to the bobbin cache region as far as it takes them, the others and the group-wide names to
the bobbin in memory, whose layout is not architectural: free bytes. None while the bobbin cannot be written. -/
def writeBobbin (s : State) (core : Nat) (b : Bolt) : Option (Nat × State) :=
  let k := min b.rows (s.core core).cacheRows
  let n := (b.rows - k) * 48 + (if b.gents = 0 then 0 else 8192)
  let bytes := (List.range n).map (fun i => Config.freeByte (s.fresh + i))
  match engWrite { s with fresh := s.fresh + n } { core := core, ten := b.ten, launch := b.launch } (s.bobbinAt core b) bytes with
  | .ok t => some (k, t)
  | .error _ => none

/-- WIND_OUT (R76): the swatches stop at instruction boundaries; once no delivery is pending the rows are written to the
bobbin, the bolt parks, and its rows and entries return to the pools. None of a bolt that is protected (R75). -/
def execWindOut (core slot : Nat) (s : State) : Out :=
  let b := s.boltAt core slot
  .next (if !(s.core core).bolts.has slot || b.left || b.parked || (s.core core).protects b then s
    else
      let out := if s.noDelivery core slot && !b.sw.vals.any Swatch.midway then writeBobbin s core b else none
      match out with
      | some (k, t) => t.setBoltAt core slot { b.ungrant with winding := false, parked := true, cached := k }
      | none => s.setBoltAt core slot { b with winding := true })

/-- The rows and entries of a parked bolt fit (R74). -/
def Core.canWindIn (c : Core) (b : Bolt) : Bool := decide (b.rows ≤ c.freeRows b.shuttle) && decide (b.gents ≤ c.freeGroup)

/-- WIND_IN (R75, R76): the bolt takes its rows, and is protected. -/
def execWindIn (core slot : Nat) (s : State) : Out :=
  let b := s.boltAt core slot
  .next (if b.parked && !b.left && (s.core core).canWindIn b then
      s.setBoltAt core slot { b with parked := false, protect := some 0, cached := 0, lastClk := (s.core core).clockOf b }
    else s)

/-- WIND_IN_PROTECTION_END (R75). -/
def execWindInProtectionEnd (core slot : Nat) (s : State) : Out :=
  .next (if (s.core core).unprotects (s.boltAt core slot) then s.modBoltAt core slot (fun b => { b with protect := none }) else s)

/-- What a stalled swatch asks of the pools: rows and entries (R74); a wait of R71 asks for none. -/
def Swatch.asks (w : Swatch) : Option (Nat × Nat) := if w.st == .retry 4 then w.short else none

/-- What a bolt asks of the pools: its wind-in when it is parked, and else the requests of its stalled swatches. -/
def Bolt.asks (b : Bolt) : List (Nat × Nat) := if b.parked then [(b.rows, b.gents)] else b.sw.vals.filterMap Swatch.asks

/-- The pools of a shuttle can serve a request. -/
def Core.fits (c : Core) (sh : Nat) (r : Nat × Nat) : Bool := decide (r.1 ≤ c.freeRows sh) && decide (r.2 ≤ c.freeGroup)

/-- One of a bolt's requests can be served. -/
def Core.helps (c : Core) (b : Bolt) : Bool := b.asks.any (c.fits b.shuttle)

/-- The first stalled swatch of a bolt whose request can be served tries again, what it asks for being kept for it (R74). The
order among one bolt's own requests, by entry, is a DESIGN CHOICE (log 106). -/
def Core.unstall (c : Core) (b : Bolt) : Bolt :=
  match b.sw.ents.find? (fun e => e.2.asks.any (c.fits b.shuttle)) with
  | some (e, w) => { b with sw := b.sw.set e { w with st := .ready, short := none, grant := w.short.getD (0, 0) } }
  | none => b

/-- The bolts of a core, oldest first, with their slots; those of a shuttle. -/
def Core.allByAge (c : Core) : List (Nat × Bolt) :=
  sortBy (fun a b => decide (a.2.age ≤ b.2.age)) (c.bolts.ents.filter (fun e => !e.2.left))
def Core.byAge (c : Core) (sh : Nat) : List (Nat × Bolt) := c.allByAge.filter (fun e => e.2.shuttle == sh)

/-- The bolt whose request is served next among some that are sorted by age (R74): the oldest one, for which the others
wait while it asks; then the oldest parked one that fits, then the oldest stalled one. -/
def Core.servedOf (c : Core) (asks : Bolt → Bool) (es : List (Nat × Bolt)) : Option (Nat × Bolt) :=
  match es with
  | [] => none
  | o :: r =>
    if asks o.2 then (if c.helps o.2 then some o else none)
    else (r.find? (fun e => e.2.parked && asks e.2 && c.helps e.2)).or (r.find? (fun e => !e.2.parked && asks e.2 && c.helps e.2))

/-- The bolt of a shuttle that freed rows serve next; one that asks for entries too must come first for those on the core. -/
def Core.served (c : Core) (sh : Nat) : Option (Nat × Bolt) :=
  let ents (b : Bolt) : Bool := b.asks.any (fun r => r.2 != 0)
  (c.servedOf (fun b => !b.asks.isEmpty) (c.byAge sh)).filter (fun e =>
    !ents e.2 || (c.servedOf ents c.allByAge).any (fun o => o.1 == e.1))

/-- ALLOCATION_GRANT (R74): freed rows and entries serve the next request: a parked bolt is wound in, a stalled swatch is
granted what it asks for and tries again. -/
def execAllocationGrant (core shuttle : Nat) (s : State) : Out :=
  let c := s.core core
  match c.served shuttle with
  | none => .next s
  | some (k, b) => if b.parked then execWindIn core k s else .next (s.setBoltAt core k (c.unstall b))

/-- The youngest of some bolts that may be wound out for bolt `k`: wound in, and not protected; none while one is being
wound out already. -/
def Core.youngest (c : Core) (k : Nat) (es : List (Nat × Bolt)) : Option Nat :=
  if es.any (fun e => e.2.winding) then none
  else ((es.filter (fun e => e.1 != k && !e.2.parked && !c.protects e.2)).getLast?).map Prod.fst

/-- The bolt to be wound out (R74): for a request of the oldest wound-in bolt of a shuttle that does not fit its rows, one of
the shuttle; for a request of the oldest wound-in bolt of the core that does not fit the entries, one of the core. A
parked bolt that is oldest on the shuttle asks for its wind-in as the oldest does. -/
def Core.victim (c : Core) (sh : Nat) : Option Nat :=
  let es := c.byAge sh
  let all := c.allByAge
  let wide (b : Bolt) : Bool := b.asks.any (fun r => decide (c.freeRows sh < r.1))
  let many (b : Bolt) : Bool := b.asks.any (fun r => decide (c.freeGroup < r.2))
  match es with
  | [] => none
  | o :: _ =>
    if o.2.parked then
      if wide o.2 then c.youngest o.1 es
      else if many o.2 && (all.head?.map Prod.fst) == some o.1 then c.youngest o.1 all
      else none
    else if wide o.2 then c.youngest o.1 es
    else match all.find? (fun e => !e.2.parked) with
      | some e => if e.1 == o.1 && many o.2 then c.youngest e.1 all else none
      | none => none

/-- OLDEST_BOLT_SLOT (R163): the shuttle's clocks have come to one whose number is 63 mod 64, which goes to its oldest
bolt's ready swatch. -/
def execOldestBoltSlot (core shuttle : Nat) (s : State) : Out :=
  .next (s.modCore core (fun c => let n := c.clock.getD shuttle 0
    { c with clock := c.clock.set shuttle (n / 64 * 64 + 63) }))

/-- YIELD_TIMEOUT (R164): 64 clocks after its `yield` the swatch comes back to selection. -/
def execYieldTimeout (core slot ent : Nat) (s : State) : Out :=
  .next (s.modBoltAt core slot (fun b => match b.sw.get? ent with
    | some w => if (s.core core).clockOf b < w.yieldAt + 64 then b else { b with sw := b.sw.set ent { w with yield := [] } }
    | none => b))

end Sys2Proof.Machine
end

