-- ==== Sys2Proof/Machine/Debug.lean ====
section
/-! DEFINITION. Debug and profile (R425 to R447): the region stack, stops and steps, probe points and the safelight
context, the contact sheet, engine stall counts, and densitometers. -/

namespace Sys2Proof.Machine

/-! ### The region stack (R425, R426) -/

/-- The identifier that a form gives. -/
def regionId (x : Ext) : Nat := x.immF 0 16

/-- The bolt issues an `enter` or a `leave`, active or not: a stop that is asked for, and a step's, lands after it
(R427, R428). -/
def Bolt.atEdge (b : Bolt) : Bolt := { b with stop := { b.stop with edge := b.stop.request.isSome || b.stop.stepEnt.isSome } }

/-- A push. -/
def Bolt.enterRegion (b : Bolt) (id : Nat) : Bolt := { b with rdepth := b.rdepth + 1, regions := (id :: b.regions).take 8 }

/-- A pop: while eight entries or more stay, the eighth is unknown. -/
def Bolt.leaveRegion (b : Bolt) : Bolt :=
  { b with rdepth := b.rdepth - 1, regions := b.regions.drop 1 ++ (if 8 ≤ b.rdepth - 1 then [0] else []) }

/-- `enter` (R425). -/
def execEnter (x : Ext) (s : State) : Out :=
  issue 0x1F0 x.len x false (fun s =>
    if !s.gActive x then .ok (s.modBolt Bolt.atEdge)
    else if s.bolt.rdepth = 255 then trap 0x35 1 s.sw.mask
    else .ok (s.modBolt (fun b => (b.enterRegion (regionId x)).atEdge))) s

/-- `leave` (R425). -/
def execLeave (x : Ext) (s : State) : Out :=
  issue 0x1F1 x.len x false (fun s =>
    let top := s.bolt.regions.headD 0
    if !s.gActive x then .ok (s.modBolt Bolt.atEdge)
    else if s.bolt.rdepth = 0 then trap 0x35 2 s.sw.mask
    else if x.modN = 1 ∧ top ≠ 0 ∧ top ≠ x.immF 0 16 then trap 0x35 (BitVec.ofNat 64 (3 + top * 2 ^ 16)) s.sw.mask
    else .ok (s.modBolt (fun b => b.leaveRegion.atEdge))) s

/-! ### Stops (R427 to R430) -/

/-- The stop record of the current bolt (R428): its last swatch's PC, the stitches of every swatch. -/
def stopRec (s : State) (reason : Nat) (edge : Bool) (skid : Nat) : FaultRec :=
  let b := s.bolt
  let all := b.sw.vals.foldl (fun m w => m ||| w.mask) 0
  { cause := 0x36, shuttle := b.shuttle, core := s.cur.core, bolt := s.cur.slot, entry := b.stop.last
    pc := (b.sw.getD b.stop.last ((b.sw.vals.head?).getD {})).pc
    addr := BitVec.ofNat 64 (reason * 2 ^ 56 + (if edge then 2 ^ 9 else 0) + skid)
    mask := stitchesOf s.nlanes all, launch := b.launch, time := s.hb, regions := b.top3 }

/-- A stop record of the current bolt waits for the core's stores (R428). -/
def State.keepStop (s : State) (r : FaultRec) : State :=
  s.modCore s.cur.core (fun c => { c with stopRecs := c.stopRecs ++ [(r, s.serial)] })

/-- The current bolt stops, and its record waits for its stores (R428). -/
def landStop (s : State) (reason : Nat) (edge : Bool) (skid : Nat) : State :=
  (s.modBolt (fun b => { b.rest with stop :=
    { b.stop with stopped := true, request := none, skid := 0, stepEnt := none, edge := false } })).keepStop (stopRec s reason edge skid)

/-- A bolt whose stop has been asked for may stop: none with a swatch in the safelight context, which waits for its
`pmret` (R436), or with a `relocate` whose moves enter the engine (R336). -/
def Bolt.stoppable (b : Bolt) : Bool :=
  b.stop.request.isSome && !b.stop.stopped && !b.left && b.sw.vals.all (fun w => w.safe.isNone && w.phase % 16 != 11)

/-- A stop request lands now: after a region edge, or at 256 instructions (R427). -/
def Bolt.lands (b : Bolt) : Bool := b.stoppable && (b.stop.edge || decide (256 ≤ b.stop.skid))

/-- Its 64 clocks without an instruction are over (R427). -/
def Core.idles (c : Core) (b : Bolt) : Bool := b.stoppable && decide (max b.lastClk b.stop.since + 64 ≤ c.clockOf b)

/-- The request of a bolt lands. -/
def landAt (s : State) (core slot : Nat) : State :=
  s.on core slot 0 (fun s =>
    let b := s.bolt
    landStop s (b.stop.request.getD 1) b.stop.edge (min 256 b.stop.skid))

/-- The core's first stop record is due: its stores are performed. -/
def Core.recordDue (c : Core) : Bool := c.stopRecs.head?.any (fun r => c.stq.all (fun p => decide (r.2 ≤ p.id)))

/-- The core's first stop record, once its stores are performed, is posted. -/
def postStop (s : State) (core : Nat) : State :=
  match (s.core core).stopRecs with
  | (r, _) :: rest =>
    if (s.core core).recordDue then (s.modCore core (fun c => { c with stopRecs := rest })).post (.fault r) else s
  | [] => s

/-- STOP_COUNT_EXPIRY (R427): the request lands by its count, or after a region edge; a record whose stores are
performed is posted. -/
def execStopCountExpiry (core slot : Nat) (s : State) : Out :=
  .next (postStop (if (s.boltAt core slot).lands then landAt s core slot else s) core)

/-- STOP_IDLE_EXPIRY (R427): 64 shuttle clocks have passed without an instruction of the bolt. -/
def execStopIdleExpiry (core slot : Nat) (s : State) : Out :=
  .next (postStop (if (s.core core).idles (s.boltAt core slot) then landAt s core slot else s) core)

/-- DB_CORE_STOP (R427, R429). -/
def execDbCoreStop (core slot : Nat) (s : State) : Out :=
  .next (if (s.core core).bolts.has slot then
      (s.modBoltAt core slot (fun b => b.requestStop 1 ((s.core core).clockOf b))).spend (s.boltAt core slot).ten
    else s)

/-- A stopped bolt issues again. -/
def Bolt.resume (b : Bolt) : Bolt :=
  { b with stop := { b.stop with stopped := false, request := none, stepEnt := none, edge := false } }

/-- DB_CORE_RESUME (R429). -/
def execDbCoreResume (core slot : Nat) (s : State) : Out :=
  .next (if (s.boltAt core slot).stop.stopped then (s.modBoltAt core slot Bolt.resume).spend (s.boltAt core slot).ten else s)

/-- A waiting swatch that is stepped runs its instruction again from the start (R430). -/
def Swatch.stepped (w : Swatch) : Swatch :=
  match w.st with
  | .retry _ => w.again
  | _ => w

/-- DB_CORE_STEP (R430): a swatch of a stopped bolt is released for one instruction. -/
def execDbCoreStep (core slot ent : Nat) (s : State) : Out :=
  let b := s.boltAt core slot
  .next (if b.stop.stopped && b.sw.has ent then
      (s.setBoltAt core slot { b with stop := { b.stop with stepEnt := some ent }
                                      sw := b.sw.set ent (b.sw.getD ent {}).stepped }).spend b.ten
    else s)

/-- DB_CL_STOP (R429). -/
def execDbClStop (cluster ten : Nat) (s : State) : Out :=
  let d := s.dbcl.getD cluster {}
  .next ({ s with dbcl := s.dbcl.set cluster { d with stopped := true, ten := ten } }.stopCluster cluster ten 2 none |>.spend ten)

/-- DB_CL_RESUME (R429). -/
def execDbClResume (cluster ten : Nat) (s : State) : Out :=
  let d := s.dbcl.getD cluster {}
  let up (b : Bolt) : Bolt := if b.ten = ten ∧ b.stop.stopped then b.resume else b
  let s := { s with dbcl := s.dbcl.set cluster { d with stopped := false } }.spend ten
  .next { s with cores := ⟨s.cores.ents.map (fun c =>
    (c.1, if c.1 / 8 = cluster then { c.2 with bolts := ⟨c.2.bolts.ents.map (fun b => (b.1, up b.2))⟩ } else c.2))⟩ }

/-- A wait that ends a step (R430): for EMPTY, a barrier, an entry, a fence or a token. -/
def endsStep (c : Nat) : Bool := [2, 3, 5, 6, 12, 13].contains c

/-- How a step ends (R430): `pre` is the state at its issue, `s` the state after it. A fault leaves no stop record,
a probe's handler goes on with the instruction, and a miss or a wait for a place goes on to its end. The record of a step
that ends the bolt gives the PC of its `exit`: DESIGN CHOICE, log 87. -/
def stepEnd (pre s : State) : State :=
  let b := pre.bolt
  if b.stop.stepEnt ≠ some pre.cur.ent then s
  else
    let s := { s with cur := pre.cur }
    let done := { s.bolt with stop := { s.bolt.stop with stepEnt := none } }
    if s.bolt.left then (s.setBolt done).keepStop { stopRec s 4 false 0 with pc := pre.sw.pc }
    else
      let w := s.bolt.sw.get? pre.cur.ent
      let probing := w.any (fun w => w.safe.isSome || (w.noProbe == some w.pc && w.st == .ready))
      if b.issued < s.bolt.issued then (if probing then s else landStop s 4 s.bolt.stop.edge 0)
      else match w with
        | none => s.setBolt done
        | some w => match w.st with
          | .ready => if probing then s else s.setBolt done
          | .parked => s.setBolt done
          | .deferred => s.setBolt done
          | .retry c => if endsStep c then landStop s 5 false 0 else s
          | .join _ => landStop s 5 false 0
          | .piece _ => landStop s 5 false 0
          | .walk _ => s

/-! ### Probe points (R434 to R437) -/

/-- The probe that matches an instruction of a launch of a tenancy: the lowest. -/
def State.probeAt (s : State) (ten : Nat) (launch pc : Word) : Option Nat :=
  let t := s.tenOf ten
  if t.plaunch != 0 && t.plaunch != launch then none
  else (List.range 32).find? (fun p => let q := t.probes.getD p {}; q.act != 0 && q.pc == pc)

/-- The probe that a swatch meets when it is selected: none within an instruction that has taken effect. -/
def State.probeOf (s : State) (core slot ent : Nat) : Option Nat :=
  let b := s.boltAt core slot
  let w := b.sw.getD ent {}
  if w.noProbe == some w.pc || w.safe.isSome || w.midway then none else s.probeAt b.ten b.launch w.pc

/-- PROBE_POINT_STOP (R435): the bolt stops at once, before the instruction. -/
def execProbePointStop (core slot ent : Nat) (s : State) : Out :=
  match s.probeOf core slot ent with
  | none => .next s
  | some p =>
    if ((s.tenOf (s.boltAt core slot).ten).probes.getD p {}).act ≠ 1 then .next s
    else .next (s.on core slot ent (fun s =>
      let r := faultRec s 0x15 (BitVec.ofNat 64 p) 0
      let s := s.modBolt (fun b => { b.rest with stop :=
        { b.stop with stopped := true, request := none, skid := 0, stepEnt := none, edge := false, last := ent } })
      (s.modSw (fun w => { w with noProbe := some w.pc })).post (.fault r)))

/-- The safelight context of a swatch at a probe (R436): the handler runs in every lane of the mask, and the lanes that a
replay still has to execute are kept for it (R375). -/
def enterSafe (s : State) (p : Nat) (hnd : Word) : State :=
  let w := s.sw.again
  let held (tag : Tag) (v : Word) : Cell := { st := .full, cnt := 15, tag := tag, val := v }
  let ks : Tab Mask := ⟨(List.range 8).map (fun i => (i, s.kMask i))⟩
  let s := s.modBolt (fun b => (b.setCell 263168 (held .bits64 w.pc)).setCell 263169 (held .n64 (BitVec.ofNat 64 p)))
  s.setSw { w with pc := hnd, native := false, unfin := none
                   safe := some { probe := p, pc := w.pc, k := ks, q := s.bolt.q, unfin := w.unfin } }

/-- PROBE_POINT_HANDLER (R435): the swatch runs the handler before the instruction. -/
def execProbePointHandler (core slot ent : Nat) (s : State) : Out :=
  match s.probeOf core slot ent with
  | none => .next s
  | some p =>
    let q := (s.tenOf (s.boltAt core slot).ten).probes.getD p {}
    if q.act ≠ 2 then .next s
    else .next (s.on core slot ent (fun s =>
      if s.startBit s.ten q.hnd then enterSafe s p q.hnd
      else postFault s (faultRec s 0x02 q.hnd s.sw.mask) s.sw.mask))

/-- `pmret` (R437): back to the probed instruction, which issues once without matching, in the lanes it had to (R375). -/
def execPmret (x : Ext) (s : State) : Out :=
  let back (s : State) : State := match s.sw.safe with
    | none => s
    | some f =>
      let s := s.modBolt (fun b => (b.setCell 263168 {}).setCell 263169 {})
      s.modSw (fun w => { w with safe := none, pc := f.pc })
  let acts := !(s.actLanes x).isEmpty && s.inSafe
  match issue 0x1F2 x.len x true (fun s =>
      if (s.actLanes x).isEmpty then do
        checkNext s (s.nextPc x.len)
        .ok (s.modSw (fun w => { w with pc := s.nextPc x.len }))
      else .ok (back s)) s with
  | .next t => .next (if acts && !t.inSafe then t.modSw (fun w => { w with noProbe := some w.pc, unfin := s.sw.safe.bind (·.unfin) }) else t)
  | o => o

/-! ### The contact sheet (R438 to R440) -/

/-- A swatch of the state: by core, slot and entry. -/
def State.swatchAt (s : State) (p : Nat × Nat × Nat) : Swatch := (s.boltAt p.1 p.2.1).sw.getD p.2.2 {}

/-- What a swatch that waits on EMPTY lanes waits for first (R69): the blocking name's cell in its first waiting lane. -/
def State.emptyOf (s : State) (p : Nat × Nat × Nat) : Option Cell :=
  let b := s.boltAt p.1 p.2.1
  let w := s.swatchAt p
  match w.block with
  | none => none
  | some (m, cs) => (lanesOf (8 * b.stitches) m).findSome? (fun l =>
      (cs.map (fun c => b.regs.getD (regKey w.safe.isSome c l) {})).find? (fun c => c.st == .empty))

/-- The stall cause of a swatch: of one on EMPTY lanes, after the producer of its first waiting lane. -/
def State.stallCause (s : State) (p : Nat × Nat × Nat) : Nat :=
  match (s.swatchAt p).st with
  | .ready => 0
  | .retry c => ((s.emptyOf p).map s.emptyCause).getD c
  | .join _ => 6
  | .piece _ => 6
  | .parked => 9
  | .deferred => 9
  | .walk _ => 8

/-- The cause that a bolt counts in a clock in which it issues nothing (R439): that of its first swatch which is not in the
safelight context; with none but such it counts under none (DEDUCED, log 111). -/
def State.boltCause (s : State) (core slot : Nat) : Option Nat :=
  let b := s.boltAt core slot
  if b.parked || b.winding then some 14
  else if b.stop.stopped then some 15
  else ((b.sw.ents.filter (fun e => e.2.safe.isNone)).foldl (fun (m : Option (Nat × Swatch)) e => match m with
    | none => some e
    | some f => if e.2.pc.toNat < f.2.pc.toNat then some e else m) none).map (fun e => s.stallCause (core, slot, e.1))

/-- A bolt counts `n` clocks under a cause (R439). -/
def Bolt.stallFor (b : Bolt) (cause : Option Nat) (n : Nat) : Bolt :=
  match cause with
  | some c => { b with sheet := b.sheet.set c (sat32 (b.sheet.getD c 0 + n)) }
  | none => b

/-- `n` clocks of a shuttle pass, in which its bolts, but for one, issue nothing: each counts them under its cause (R439). -/
def State.passClocks (s : State) (core sh n : Nat) (but : Option Nat) : State :=
  let up (k : Nat) (b : Bolt) : Bolt :=
    if b.shuttle = sh ∧ !b.left ∧ but ≠ some k then b.stallFor (s.boltCause core k) n else b
  s.modCore core (fun c => { c with clock := c.clock.set sh (c.clock.getD sh 0 + n)
                                    bolts := ⟨c.bolts.ents.map (fun e => (e.1, up e.1 e.2))⟩ })

/-- The bolt whose swatch was selected has issued nothing in this clock after all (R439). -/
def issueClock (pre s : State) : State :=
  let c := pre.cur.core
  let k := pre.cur.slot
  if (s.boltAt c k).issued = pre.bolt.issued && !(s.boltAt c k).left then s.modBoltAt c k (fun b => b.stallFor (s.boltCause c k) 1) else s

/-- STALL_CLOCK (R439): a clock of a shuttle in which its bolts issue nothing. -/
def execStallClock (core shuttle : Nat) (s : State) : Out :=
  .next (if s.cores.has core then s.passClocks core shuttle 1 none else s)

/-- The first of some causes that applies, from cause `i` on. -/
def lowestCause (i : Nat) : List Bool → Option Nat
  | [] => none
  | b :: bs => if b then some i else lowestCause (i + 1) bs

/-- A copy that could start, or that goes on after a page, waits to register its destination (R238). -/
def Copy.unregistered (s : State) (core : Nat) (k : Copy) : Bool :=
  let fails (t : State) (j : Copy) : Bool :=
    (t.register (opKey 0 core j.id) (j.who core) (copyGlobal j (2048 * j.done) j.total)).isNone
  if k.page.isSome then false
  else if k.started then fails s k
  else !s.storesDue core k.after && k.recv.all (·.reached) && (match readLayout s core k with
    | .ok r => fails r.2 r.1
    | .error _ => false)

/-- The queue that the engine visits has a chunk to send, and not the deficit for it (R285). -/
def Core.deficitSpent (c : Core) : Bool :=
  c.cqIn && (match c.copies.filter (fun k => k.queue == c.cqAt && k.sends) with
    | [] => false
    | ks => ks.all (fun k => decide (c.deficit.getD c.cqAt 0 < min 2048 (k.total - 2048 * k.done))))

/-- The lowest cause that holds a core's copy engine up (R441). -/
def copyStall (s : State) (core : Nat) : Option Nat :=
  let c := s.core core
  lowestCause 0 [c.copies.any (Copy.unregistered s core), c.copies.any (·.page.isSome), c.deficitSpent,
    c.copies.any Copy.sends]

/-- The lowest cause of a core's request engine: a copy of its list that finds no pool entry, or the reading of the list
once the stores before it are performed. -/
def requestStall (s : State) (core : Nat) : Option Nat :=
  let c := s.core core
  match c.kicks with
  | [] => none
  | l :: _ =>
    if s.storesDue core l.after then none
    else match headRequest s core l with
      | .error _ => some 1
      | .ok (r, _) => lowestCause 0 [!badRequest r && [1, 2, 3].contains (layN r 0 1)
          && !c.canEnter (s.launchOf (s.panelAt core l.panel).launch).prio 1,
        badRequest r || !(layN r 0 1 == 4 && c.copies.any (fun k => k.list == some l.id))]

/-- The array performs K-steps, or the rows of an `accst` go out. -/
def matrixGoes (s : State) (core : Nat) : Bool :=
  let c := s.core core
  c.stepping.isSome || c.mxq.any (fun o => o.kind == 2 && o.started && o.page.isNone && decide (o.step < 32)
    && (s.register (opKey 1 core o.id) (o.who core) (accstRows o o.step)).isSome)

/-- The lowest cause of a core's matrix engine: what its first operation not started waits for. -/
def matrixStall (s : State) (core : Nat) : Option Nat :=
  let c := s.core core
  let before := c.mxq.takeWhile (·.started)
  if matrixGoes s core then none
  else match c.mxq.drop before.length with
    | [] => none
    | o :: _ => lowestCause 0 [o.fills.any (fun f => (s.core f.1).copies.any (fun k => k.id == f.2)),
        o.pair && !(s.core (core + 1)).mxq.isEmpty, o.pb && c.psRegen, before.any (fun q => q.region == o.region)]

/-- A move or a sweep waits for a line that another agent holds (R328). -/
def RelOp.lineHeld (s : State) (o : RelOp) : Bool :=
  if o.page.isSome || !s.relRuns o || s.storesDue o.core o.after then false
  else if o.sweep then (match sweepRead s o with
    | .error .busy => true
    | _ => false)
  else match s.tilePa o.ten o.x .r, s.tilePa o.ten o.y .w with
    | .ok px, .ok py =>
      if o.stage = 0 then s.lineOthers px
      else if o.stage = 1 then (if o.yheld then s.lineTx (px + 128 * o.done) else (holdY s o py).isNone)
      else false
    | .ok px, .error _ => o.stage == 0 && s.lineOthers px
    | .error _, _ => false

/-- The lowest cause of a die's relocation engine. -/
def relStall (s : State) (die : Nat) : Option Nat :=
  let rs := s.relOn die
  lowestCause 0 [rs.any (RelOp.lineHeld s), rs.any (·.page.isSome), decide (s.relFree die = 0),
    rs.any (fun r => !r.sweep && r.stage == 2)]

/-- The lowest cause of the collective engine. -/
def collStall (s : State) : Option Nat :=
  match s.dom.ops with
  | [] => none
  | os => some (if os.any (fun o => o.state == 2) || !s.dom.current then 0 else if os.any (fun o => o.state == 3) then 1
    else if os.all (fun o => o.page.isNone) then 2 else 3)

/-- An engine's `n` clocks without progress count under a cause, those it holds no work in under none (R441). -/
def engineClocks (n : Nat) (engine : EngineId) (s : State) : State :=
  let up (t : Tab Nat) (k : Nat) : Tab Nat := t.set k (sat32 (t.getD k 0 + n))
  let on (core e : Nat) (cause : Option Nat) : State := match cause with
    | none => s
    | some i => s.modCore core (fun c => { c with es := up c.es (4 * e + i) })
  match engine with
  | .copy core => on core 0 (copyStall s core)
  | .request core => on core 1 (requestStall s core)
  | .matrix core => on core 2 (matrixStall s core)
  | .reloc die => match relStall s die with
    | none => s
    | some i => { s with esRel := up s.esRel (4 * die + i) }
  | .coll => match collStall s with
    | none => s
    | some i => { s with esCol := up s.esCol i }

/-- ENGINE_STALL_CLOCK (R441). -/
def execEngineStallClock (engine : EngineId) (s : State) : Out := .next (engineClocks 1 engine s)

/-- `stallrd` (R445). -/
def execStallrd (x : Ext) (s : State) : Out :=
  issue 0x1F3 x.len x false (fun s => do
    let eng := x.modN = 2
    let i := x.immF 0 4
    let ls := s.actLanes x
    if eng && !ls.isEmpty && !s.bolt.priv then
      trap 0x07 (BitVec.ofNat 64 (0x1F3 + x.immF 4 2 * 2 ^ 16)) (s.failMask x ls)
    let p ← s.prep x [] [x.dst] false
    let v := if eng then s.cc.es.getD (4 * x.immF 4 2 + i) 0 else s.bolt.sheet.getD i 0
    let t := p.lanes.foldl (fun t l => t.write x.dst l x.cntN .n32 (BitVec.ofNat 64 v)) p.post
    .ok (if x.modN = 1 && !p.lanes.isEmpty then t.modBolt (fun b => { b with sheet := b.sheet.erase i }) else t)) s

/-! ### Densitometers (R442, R443) -/

/-- A field of a unit by its code. -/
def Dens.field (d : Dens) (f : Nat) : Nat :=
  match f with
  | 0 => d.count
  | 1 => d.sum
  | 2 => d.min
  | 3 => d.max
  | 4 => d.drop
  | k => d.bins.getD (k - 16) 0

/-- DENS_CONFIG_WRITE (R443): 0 is `DN.CTL`, 1 + i an edge; either clears the unit. -/
def execDensConfigWrite (cluster unit : Nat) (which : Nat) (value : Word) (s : State) : Out :=
  let d := (s.densAt cluster unit).clear
  let v := value.toNat
  .next (s.setDens cluster unit (if which = 0 then
      { d with ten := v / 2 ^ 16 % 16, cores := v / 2 ^ 8 % 256, src := v % 16 }
    else { d with edges := d.edges.set (which - 1) (v % 2 ^ 32) }))

/-- A clock of a unit of source 2, 3 or 4 (R442); those of sources 1, 5 and 6 take their samples when a pass is delivered, a
flit acknowledged or a `wait` over. -/
def densClock (cluster unit : Nat) (s : State) : State :=
  let d := s.densAt cluster unit
  let on := (List.range 8).filter (fun i => d.cores.testBit i)
  match d.src with
  | 2 =>
    let (n, s) := s.freshId
    s.setDens cluster unit (d.samples [Config.queueDepth n % 2 ^ 32])
  | 3 => s.setDens cluster unit (d.samples (on.map (fun i => (s.core (8 * cluster + i)).copies.length)))
  | 4 => s.setDens cluster unit (d.samples (on.map (fun i => (s.core (8 * cluster + i)).freeRows 0)))
  | _ => s

/-- DENSITOMETER_SAMPLE (R442). -/
def execDensitometerSample (cluster unit : Nat) (s : State) : Out := .next (densClock cluster unit s)

/-- `n` clocks of the units that the schedule keeps: every engine, and every densitometer that is set up (R441, R442). -/
def State.unitClocks (s : State) (n : Nat) : State :=
  let cores := s.cores.keys.flatMap (fun c => [EngineId.copy c, .request c, .matrix c])
  let t := (cores ++ [EngineId.reloc 0, .reloc 1, .coll]).foldl (fun t e => engineClocks n e t) s
  (s.dens.ents.filter (fun e => [2, 3, 4].contains e.2.src)).foldl (fun t e =>
    (List.range n).foldl (fun t _ => densClock (e.1 / 8) (e.1 % 8) t) t) t

/-- `dens` (R445). -/
def execDens (x : Ext) (s : State) : Out :=
  issue 0x1F4 x.len x false (fun s => do
    let u := x.immF 0 3
    let cl := s.cur.core / 8
    let d := s.densAt cl u
    let ls := s.actLanes x
    if !ls.isEmpty && d.ten != s.ten then trap 0x07 (BitVec.ofNat 64 (0x1F4 + u * 2 ^ 16)) (s.failMask x ls)
    match x.modN with
    | 0 => do
      let p ← s.prep x [] [x.dst] true
      .ok (p.lanes.foldl (fun t l => t.write x.dst l x.cntN .n64 (BitVec.ofNat 64 (d.field (x.immF 4 5)))) p.post)
    | 1 => do
      let p ← s.prep x (srcsOf 0x1F4 x) [] false
      .ok (p.lanes.foldl (fun t l =>
        if d.src = 7 then t.setDens cl u (d.sample ((p.opnd 1 l).val.toNat % 2 ^ 32)) else t) p.post)
    | _ => .ok (if ls.isEmpty then s else s.setDens cl u d.clear)) s

end Sys2Proof.Machine
end

