-- ==== Sys2Proof/Machine/Platform.lean ====
section
/-! DEFINITION. Host, boot, tenancies and power (R455 to R467), the writes of the register maps (R3), errors of
storage (R419), and the events of the instruction cache and of native form (R38, R58). -/

namespace Sys2Proof.Machine

/-! ### The heartbeat and the host link (R32, R455, R456) -/

/-- HEARTBEAT_TICK (R32): the count, and the bolt-time of each tenancy's resident bolts (R466). -/
def execHeartbeatTick (s : State) : Out :=
  let ts := s.cores.vals.flatMap (fun c => (c.bolts.vals.filter (fun b => !b.left)).map (·.ten))
  .next (ts.foldl (fun s t => s.charge t 7 1) { s with hb := s.hb + 1 })

/-- The physical address of an offset in BAR 2 (R456). -/
def State.window (s : State) (offset : Nat) : Nat := s.plat.hwBase * 2 ^ 36 + offset

/-- An error stands in HBM: a word that is valid in the L2 has it there (R419). -/
def State.inHbm (s : State) (w : Nat) : Bool := !s.l2in.has w

/-- HOST_WINDOW_READ (R456): the bytes as HBM holds them, corrected or poisoned (R419), or Unsupported Request. -/
def execHostWindowRead (offset size : Nat) (s : State) : Out :=
  let pa := s.window offset
  let ws := (wordsOf pa size).filter s.inHbm
  .next (if Config.hbmBytes < pa + size then s.post .unsupportedRequest
    else (ws.foldl State.l2Correct s).post (.hostRead (s.hbm.bytes pa size) (ws.any s.l2Bad)))

/-- HOST_WINDOW_WRITE (R241, R456): performed at the L2 with owner 0x90, or Unsupported Request; it waits outside
while an engine holds a line of it (R238). -/
def execHostWindowWrite (offset : Nat) (bytes : List Byte) (s : State) : Out :=
  let pa := s.window offset
  .next (if Config.hbmBytes < pa + bytes.length then s.post .unsupportedRequest
    else if (wordsOf pa bytes.length).any (fun w => s.lineBusy w none) then s
    else s.writeL2 pa bytes 0x90 Config.noTenancy)

/-! ### Measured boot (R458 to R462) -/

def State.modPlat (s : State) (f : Platform → Platform) : State := { s with plat := f s.plat }

/-- A register of 48 bytes, extended by a stage (R458). -/
def extend (r : Nat) (stage : List Byte) : Nat := ofLE (Sha.sha384 (toLE r 48 ++ Sha.sha384 stage))

/-- A measurement into `MS.REG[i]`. -/
def Platform.measure (p : Platform) (m : Nat × List Byte) : Platform :=
  { p with ms := p.ms.set m.1 (extend (p.ms.getD m.1 0) m.2) }

/-- What a start leaves of a state (R3, R461): every core, engine and array is reset and `HB.NOW` is zero; a warm
start keeps the reserved region, `TEN.ACCT` and what is kept of the boot registers. -/
def State.restarted (s : State) (warm : Bool) : State :=
  let kept := if warm then s.hbm.filter (fun c => decide (Config.reservedBase ≤ c.1)) else []
  let acct : Tab Tenancy := if warm then ⟨s.tens.ents.map (fun t => (t.1, ({ acct := t.2.acct } : Tenancy)))⟩ else {}
  let p := s.plat
  let plat : Platform :=
    { imgHash := if warm then p.imgHash else 0, imgLen := if warm then p.imgLen else 0, failedWarm := p.failedWarm
      waiting := p.waiting, rom := p.rom }
  { State.reset with
    mem := kept, hbm := kept, tens := acct, plat := plat
    posts := s.posts, agenda := s.agenda, serial := s.serial, fresh := s.fresh, spun := s.spun }

/-- The four stages that an image holds (R458), all of its bytes among them; how long each is stands in the image. -/
def imageStages (image : List Byte) : List (List Byte) :=
  let a := Config.imageCut image 0
  let b := a + Config.imageCut image 1
  let c := b + Config.imageCut image 2
  [image.take a, (image.take b).drop a, (image.take c).drop b, image.drop c]

/-- The ROM runs: it is measured, and so is the kind of the start (R458, R461). -/
def Platform.romRuns (p : Platform) (rom : List Byte) (kind : Nat) : Platform :=
  { (p.measure (0, rom)).measure (5, [BitVec.ofNat 8 kind]) with
    rom := rom, btKind := kind, btStage := 0, btDone := false, running := true, fetching := false }

/-- The stages of an image run, each measured before it does; the start comes as far as its `n`-th stage, the ROM among them,
and five end it (R458, R462). -/
def Platform.imageRuns (p : Platform) (image : List Byte) (n : Nat) : Platform :=
  let q := ([1, 2, 3, 4].zip ((imageStages image).take (n - 1))).foldl Platform.measure { p with fetching := false }
  if 5 ≤ n then { q with btStage := 5, btDone := true, running := false, failedWarm := 0 } else { q with btStage := n - 1 }

/-- The image of a start has been fetched: verified, its hash is kept and its stages run, else the start stops (R458, R461). -/
def Platform.imageComes (p : Platform) (image : List Byte) (n : Nat) : Platform :=
  if Config.imageVerifies image then { p with imgHash := ofLE (Sha.sha384 image), imgLen := image.length }.imageRuns image n
  else { p with btStage := 0xFF, fetching := false }

/-- A start that is requested while one runs waits (R461). -/
def State.waitStart (s : State) (i : Start) : State := s.modPlat (fun p => { p with waiting := p.waiting ++ [i] })

/-- A cold start (R461): the ROM is the first stage that it brings, the others hold the image, and it comes as far as they are
many. -/
def coldBoot (stages : List (List Byte)) (s : State) : State :=
  (s.restarted false).modPlat (fun p => (p.romRuns (stages.headD []) 1).imageComes (stages.drop 1).flatten stages.length)

/-- COLD_START (R461). -/
def execColdStart (stages : List (List Byte)) (s : State) : Out :=
  .next (if s.plat.running then s.waitStart (.cold stages) else coldBoot stages s)

/-- The image in the reserved region, as long as the one verified last, and whether it passes (R461). -/
def State.reservedImage (s : State) : List Byte := s.hbm.bytes Config.reservedBase s.plat.imgLen
def State.imageKept (s : State) : Bool := ofLE (Sha.sha384 s.reservedImage) == s.plat.imgHash

/-- A start from the image in the reserved region (R458, R461). -/
def bootKept (s : State) (rom : List Byte) (n : Nat) : State :=
  s.modPlat (fun p => (p.romRuns rom 3).imageRuns s.reservedImage n)

/-- WARM_START (R461, R462): from reserved HBM if its hash passes, else from the image fetched; cold after three
failed warm starts. `stages` gives the ROM first, and by their number how far the start comes; a start that waits for its image
has run its ROM. A part that a trip has stopped needs a cold start (R467). -/
def execWarmStart (image : List Byte) (stages : List (List Byte)) (s : State) : Out :=
  .next (if s.plat.tripped then s
    else if s.plat.fetching then s.modPlat (fun p => p.imageComes image stages.length)
    else if s.plat.running then s.waitStart (.warm image stages)
    else if 3 ≤ s.plat.failedWarm then coldBoot stages s
    else
      let t := s.restarted true
      if t.imageKept then bootKept t (stages.headD []) stages.length
      else t.modPlat (fun p => (p.romRuns (stages.headD []) 2).imageComes image stages.length))

/-- WARM_START_REQUEST (R462): a warm start, from reserved HBM if the image there passes, else with an image that the ROM,
measured and running, has still to fetch; after three failed ones the next start is to be cold. -/
def execWarmStartRequest (s : State) : Out :=
  let p := s.plat
  .next (if p.tripped then s
    else if p.running then s.waitStart .request
    else if 3 ≤ p.failedWarm then s.post .coldStrap
    else
      let t := s.restarted true
      if t.imageKept then bootKept t p.rom 5
      else t.modPlat (fun q => { q.romRuns p.rom 2 with fetching := true }))

/-- START_FAILURE_TIMEOUT (R462): 90 s without DONE: the start that runs has failed. The third failed warm start, and a
failed cold one, drive the cold-start strap. -/
def execStartFailureTimeout (s : State) : Out :=
  .next (if !s.plat.running then s
    else
      let n := s.plat.failedWarm + (if 2 ≤ s.plat.btKind then 1 else 0)
      let t := s.modPlat (fun p => { p with running := false, fetching := false, failedWarm := n })
      if 2 ≤ s.plat.btKind ∧ n < 3 then t else t.post .coldStrap)

/-- A start that was requested while another ran begins once that has completed or failed (R461). -/
def beginStart (s : State) : Out :=
  match s.plat.waiting with
  | [] => .next s
  | r :: rs =>
    let t := s.modPlat (fun p => { p with waiting := rs })
    match r with
    | .cold stages => execColdStart stages t
    | .warm image stages => execWarmStart image stages t
    | .request => execWarmStartRequest t

/-! ### Attestation (R460) -/

/-- An answer of the part, with what the spec does not lay out of it. -/
def spdmAnswer (name : String) (data : List Byte) (s : State) : State :=
  let (n, s) := s.freshId
  s.post (.spdm name (data ++ Config.spdmAnswer n))

/-- The bytes of a name. -/
def nameBytes (n : String) : List Byte := n.toList.map (fun c => BitVec.ofNat 8 c.toNat)

/-- The certificate of a slot: the device's identity, and the alias whose key follows measurement indices 0 to 2. -/
def State.cert (s : State) (slot : Nat) : List Byte :=
  let m (i : Nat) : Nat := s.plat.ms.getD i 0
  if slot = 0 then Config.deviceCert else Config.aliasCert (m 0) (m 1) (m 2)

/-- GET_VERSION (R460): SPDM 1.2 and 1.3. -/
def execGetVersion (s : State) : Out :=
  .next (s.post (.spdm "VERSION" [0x12, 0x13]))
/-- GET_CAPABILITIES (R460). -/
def execGetCapabilities (s : State) : Out := .next (spdmAnswer "CAPABILITIES" [] s)
/-- NEGOTIATE_ALGORITHMS (R460): the four that the rule names. -/
def execNegotiateAlgorithms (s : State) : Out :=
  .next (s.post (.spdm "ALGORITHMS" (nameBytes "ECDSA P-384, SHA-384, secp384r1, AES-256-GCM")))
/-- GET_DIGESTS (R460): SHA-384 of the certificate of each slot. -/
def execGetDigests (s : State) : Out := .next (s.post (.spdm "DIGESTS" (Sha.sha384 (s.cert 0) ++ Sha.sha384 (s.cert 1))))
/-- GET_CERTIFICATE (R460). -/
def execGetCertificate (slot : Nat) (s : State) : Out :=
  .next (if slot < 2 then s.post (.spdm "CERTIFICATE" (BitVec.ofNat 8 slot :: s.cert slot)) else s.post (.spdm "ERROR" []))
/-- CHALLENGE (R460): the device's signature over the nonce. -/
def execChallenge (slot : Nat) (nonce : Word) (s : State) : Out :=
  .next (if slot < 2 then spdmAnswer "CHALLENGE_AUTH" (BitVec.ofNat 8 slot :: toLE nonce.toNat 8) s else s.post (.spdm "ERROR" []))
/-- KEY_EXCHANGE (R460). -/
def execKeyExchange (slot : Nat) (s : State) : Out :=
  .next (if slot < 2 then spdmAnswer "KEY_EXCHANGE_RSP" [BitVec.ofNat 8 slot] (s.modPlat (fun p => { p with keyed := true }))
    else s.post (.spdm "ERROR" []))
/-- FINISH (R460): the session whose keys have been exchanged is open. -/
def execFinish (s : State) : Out :=
  .next (if s.plat.keyed then spdmAnswer "FINISH_RSP" [] (s.modPlat (fun p => { p with keyed := false, session := true }))
    else s.post (.spdm "ERROR" []))
/-- END_SESSION (R460). -/
def execEndSession (s : State) : Out :=
  .next ((s.modPlat (fun p => { p with keyed := false, session := false })).post (.spdm "END_SESSION_ACK" []))

/-- What a measurement index reports: `MS.REG` under 1 to 8, `TM.REG[n]` under 16 + n (R459, R460). -/
def State.measurement (s : State) (index : Nat) : Option Nat :=
  if 1 ≤ index ∧ index ≤ 8 then some (s.plat.ms.getD (index - 1) 0)
  else if 16 ≤ index ∧ index < 32 then some (s.tenOf (index - 16)).tm
  else none

/-- GET_MEASUREMENTS (R460). -/
def execGetMeasurements (index : Nat) (s : State) : Out :=
  .next (match s.measurement index with
    | some m => spdmAnswer "MEASUREMENTS" (toLE m 48) s
    | none => s.post (.spdm "ERROR" []))

/-! ### Power and cooling (R467) -/

/-- POWER_CAP_STEP (R467): the power measured; above the cap the clock falls by a step, to the eighth at most. -/
def execPowerCapStep (watts : Nat) (s : State) : Out :=
  .next (s.modPlat (fun p => { p with pwWatts := watts % 2048, pwStep := if p.pwCap < watts then min 8 (p.pwStep + 1) else p.pwStep }))

/-- THERMAL_TRIP (R467): nothing issues any more. -/
def execThermalTrip (s : State) : Out := .next (s.modPlat (fun p => { p with tripped := true }))

/-! ### Tenancies (R463 to R465) -/

/-- A launch's tenancy is the one given. -/
def State.launchTen (s : State) (ten : Nat) (id : Word) : Bool := (s.launchOf id).ten == ten

/-- TENANCY_RESET (R465, steps 1 to 3): ignored while one runs. -/
def execTenancyReset (ten : Nat) (s : State) : Out :=
  .next (if (s.tenOf ten).busy then s
    else
      let s := (s.modTen ten (fun t => { t with busy := true, deficit := 0 })).spend ten
      let s := [0, 1, 2, 3].foldl (fun s q => s.setQueue ten q { s.queue ten q with cons := (s.queue ten q).prod }) s
      let s := (s.objs.filter (fun o => o.level == 4 && idOk ten o.id)).foldl (fun s o => cancelObj s 4 o.id) s
      let s := (s.objs.filter (fun o => o.level != 4 && idOk ten o.id)).foldl (fun s o => cancelObj s o.level o.id) s
      let s := (s.launches.filter (fun l => l.ten == ten && !l.complete)).foldl (fun s l => cancelLaunch s l.id) s
      let s := { s with
        images := s.images.map (fun i => if i.ten == ten then { i with discarded := true } else i)
        restores := s.restores.filter (fun r => r.image.ten != ten) }
      if s.dom.en && s.dom.ten == ten then
        (s.dom.ops.foldl (fun s o => abortColl s o 6) s).modDom (fun d => { d with en := false })
      else s)

/-- An engine, or a panel, still works for a tenancy. -/
def State.tenancyBusy (s : State) (ten : Nat) : Bool :=
  s.cores.vals.any (fun c => c.panels.vals.any (fun p => p.ten == ten) || c.copies.any (fun k => k.ten == ten)
      || c.mxq.any (fun o => o.ten == ten) || c.stq.any (fun p => p.ten == ten) || c.bolts.vals.any (fun b => b.ten == ten && !b.left))
    || s.rel.any (fun r => r.ten == ten) || (s.dom.ten == ten && !s.dom.ops.isEmpty)

/-- The entries of a table of `n` entries that memory lists. -/
def listedPtes (m : Mem) (table n : Nat) : List Nat :=
  ((m.filter (fun c => decide (table ≤ c.1) && decide (c.1 < table + 8 * n))).map (fun c => (c.1 - table) / 8)).eraseDups

/-- The pages that a table of a level maps, and those under it: physical address and log2 of the bytes (R210). -/
def pagesUnder (m : Mem) : Nat → Nat → Nat → List (Nat × Nat)
  | 0, _, _ => []
  | fuel + 1, table, level =>
    let n := if level = 0 then 256 else if level = 4 then 32 else 512
    (listedPtes m table n).flatMap (fun i => match readPte (m.readN (table + 8 * i) 8) level with
      | none => []
      | some (.leaf l) => [(l.pa, l.log)]
      | some (.next t) => pagesUnder m fuel t (level + 1))

/-- A page's lines and frames are zeroed. -/
def zeroPage (s : State) (p : Nat × Nat) : State :=
  let out (k : Nat) : Bool := decide (k < p.1) || decide (p.1 + 2 ^ p.2 ≤ k)
  let s := { s with
    mem := s.mem.zero p.1 (2 ^ p.2), hbm := s.hbm.zero p.1 (2 ^ p.2)
    ecc := ⟨s.ecc.ents.filter (fun e => out e.1)⟩, owner := ⟨s.owner.ents.filter (fun e => out e.1)⟩ }
  s.mapCores (fun c => { c with l1 := ⟨c.l1.ents.filter (fun e => out e.1)⟩ })

/-- The reset of a tenancy can end. -/
def State.resetOver (s : State) (ten : Nat) : Bool := (s.tenOf ten).busy && !s.tenancyBusy ten && !s.trBusy

/-- TENANCY_RESET_COMPLETE (R465, steps 4 and 5). -/
def execTenancyResetComplete (ten : Nat) (s : State) : Out :=
  .next (if !s.resetOver ten then s
    else
      let pages := if (s.tenOf ten).rootEn then pagesUnder s.mem 5 (s.tenOf ten).root 0 else []
      let s := s.dropTlb (fun e => e.ten == ten)
      let s := pages.foldl zeroPage s
      let mine (c : Core) : Bool := match c.psOwner with
        | some l => s.launchTen ten l
        | none => false
      let s := s.mapCores (fun c => if mine c then { c with psOwner := none, psRegen := true } else c)
      ((s.modTen ten (fun t => { t with tm := 0, busy := false, done := true })).spend ten).post (.vector (ten + 1) 0))

/-- A write of `TEN.CTL` (R463): a tenancy that is enabled starts with `TM.REG` zero (R459). -/
def tenWrite (ten : Nat) (value : Word) (s : State) : Out :=
  let s := s.modTen ten (fun t => { t with
    weight := value.toNat / 2 ^ 16 % 65536, done := t.done && !value.getLsbD 2, en := value.getLsbD 0
    tm := if value.getLsbD 0 && !t.en then 0 else t.tm }) |>.spend ten
  if value.getLsbD 3 then execTenancyReset ten s else .next s

/-! ### Writes of the register maps (R3) -/

/-- A write of `DB.CORE` (R429). -/
def dbCoreWrite (core : Nat) (value : Word) (s : State) : Out :=
  let slot := value.toNat / 2 ^ 56
  let ent := value.toNat / 2 ^ 48 % 256
  let s := s.modCore core (fun c => { c with dbBolt := slot, dbEntry := ent })
  let then_ (on : Bool) (f : State → Out) (o : Out) : Out := match o with
    | .next s => if on then f s else .next s
    | o => o
  then_ (value.getLsbD 2) (execDbCoreStep core slot ent) (then_ (value.getLsbD 1) (execDbCoreResume core slot)
    (then_ (value.getLsbD 0) (execDbCoreStop core slot) (.next s)))

/-- A write of `DB.CL` (R429). -/
def dbClWrite (cluster : Nat) (value : Word) (s : State) : Out :=
  let ten := value.toNat / 16 % 16
  let s := { s with dbcl := s.dbcl.set cluster { s.dbcl.getD cluster {} with ten := ten } }
  let s := if value.getLsbD 0 then execDbClStop cluster ten s else .next s
  match s with
  | .next s => if value.getLsbD 1 then execDbClResume cluster ten s else .next s
  | o => o

/-- A write of `TR.INV` (R211, R212): scope 3 is reserved, and ignored. -/
def trInvWrite (value : Word) (s : State) : Out :=
  match value.toNat / 16 % 4 with
  | 0 => execTrInvVpn (value.extractLsb' 0 4) (value.extractLsb' 16 40) s
  | 1 => execTrInvTenancy (value.extractLsb' 0 4) s
  | 2 => execTrInvAll s
  | _ => .next s

/-- Bits [47:12] of a value, in place. -/
def page47 (value : Word) : Nat := value.toNat / 2 ^ 12 % 2 ^ 36 * 2 ^ 12

/-- Bits [55:2] of a value, in place. -/
def codeAddr (value : Word) : Word := BitVec.ofNat 64 (value.toNat / 4 % 2 ^ 54 * 4)

def State.modWatch (s : State) (cluster w : Nat) (f : Watch → Watch) : State :=
  { s with watch := s.watch.set (8 * cluster + w) (f (s.watch.getD (8 * cluster + w) {})) }

def State.modProbe (s : State) (ten p : Nat) (f : Probe → Probe) : State :=
  s.modTen ten (fun t => { t with probes := t.probes.set p (f (t.probes.getD p {})) })

/-- A move or a sweep of the tenancy is in flight (R326). -/
def State.relocating (s : State) (ten : Nat) : Bool := s.rel.any (fun r => r.ten == ten)

/-- A line goes from the L2 to HBM for a control core, and, dropped from the L2, belongs to no one (R220, R241). It waits
outside, as the control core does, while an engine or a transaction holds the line (R238, R261). -/
def cbo (pa : Nat) (drop : Bool) (s : State) : State :=
  if s.lineBusy pa none || decide (Config.hbmBytes < lineOf pa + 128) then s
  else
    let s := s.writeBack (lineOf pa) Config.noTenancy
    if !drop then s
    else (lineWs pa).foldl (fun s w => { s.moveOwner w 0xFE with l2in := s.l2in.erase w }) s

/-- A store of a control core (R241): performed at its slice with owner 0x90. -/
def ccStore (pa : Nat) (value : Word) (s : State) : State :=
  if s.lineBusy pa none || decide (Config.hbmBytes < pa / 8 * 8 + 8) then s
  else s.writeL2 (pa / 8 * 8) (toLE value.toNat 8) 0x90 Config.noTenancy

/-- A cancel by Goloc (R410). -/
def golocCancel (s : State) (level : Nat) (id : Word) : State :=
  if level = 1 then (cancelLaunch s id).spend (State.tenOfId id)
  else if 2 ≤ level ∧ level ≤ 4 then (cancelObj s level id).spend (State.tenOfId id) else s

/-! ### Reads of the register maps

What the control complex reads of a register (R3): reserved and write-only fields are zero. -/

def b2n (b : Bool) (v : Nat) : Nat := if b then v else 0

/-- The word of a register. -/
def readReg (reg : DevReg) (s : State) : Nat :=
  match reg with
  | .trRoot ten => (s.tenOf ten).root + b2n (s.tenOf ten).rootEn 1
  | .trAccthr => s.accThr
  | .trInv => b2n s.trBusy 128
  | .rlArena ten => (s.tenOf ten).arenaBase * 2 ^ 20 + (s.tenOf ten).tiles
  | .rlTtab ten => (s.tenOf ten).ttab
  | .rlStat die =>
    let rs := s.relOn die
    let run := min 8 rs.length
    (rs.length - run) * 2 ^ 8 + run
  | .clDom =>
    let d := s.dom
    d.settle * 2 ^ 32 + b2n d.abort (2 ^ 31) + d.size * 2 ^ 16 + d.self * 2 ^ 8 + d.ten * 16 + b2n d.en 1
  | .clLink link =>
    let l := s.dom.links.getD link {}
    b2n l.up (2 ^ 31) + b2n l.fail (2 ^ 30) + l.peerdev * 2 ^ 16 + l.peerlink * 2 ^ 8 + b2n l.en 1
  | .clVer => s.dom.epoch * 65536 + s.dom.nfail
  | .lqBase ten q => (s.queue ten q).addr + (s.queue ten q).log2n
  | .lqIdx ten q => (s.queue ten q).cons * 2 ^ 32 + (s.queue ten q).prod
  | .dbCore core =>
    let c := s.core core
    let off := match c.bolts.get? c.dbBolt with
      | some b => if b.left then 0x3FFFFF else (s.panelAt core b.panel).scrOff
      | none => 0x3FFFFF
    c.dbBolt * 2 ^ 56 + c.dbEntry * 2 ^ 48 + off * 2 ^ 24
  | .dbCl cluster =>
    let d := s.dbcl.getD cluster {}
    b2n d.stopped 65536 + d.widx * 256 + d.ten * 16
  | .dwAddr cluster w => (s.watch.getD (8 * cluster + w) {}).addr
  | .dwCtl cluster w =>
    let x := s.watch.getD (8 * cluster + w) {}
    x.ten * 256 + x.cidx * 32 + b2n x.scr 16 + b2n x.at_ 8 + b2n x.wr 4 + b2n x.rd 2 + b2n x.en 1
  | .dbPpc ten p => let x := (s.tenOf ten).probes.getD p {}; x.act * 2 ^ 62 + x.pc.toNat
  | .dbPh ten p => ((s.tenOf ten).probes.getD p {}).hnd.toNat
  | .dbPlaunch ten => (s.tenOf ten).plaunch.toNat
  | .peCtl core => (s.core core).peWord.toNat
  | .ubReg core => (s.core core).ubReg
  | .ubScr core => (s.core core).ubScr
  | .ubL1 core => (s.core core).ubL1
  | .ubStat core => b2n (s.core core).ubRej 2 + b2n (s.core core).busy 1
  | .cqMin core q => (s.core core).cqMinOf q
  | .cqCap core q => (s.core core).cqCapOf q
  | .cqQuant core q => (s.core core).cqQuantOf q
  | .cqOcc core q => (s.core core).cqOcc q
  | .psStat core => b2n (s.core core).psRegen 2 + b2n (s.core core).psOwner.isSome 1
  | .psOwner core => ((s.core core).psOwner.getD 0).toNat
  | .mxStat core => s.mxStat core
  | .esRel die i => s.esRel.getD (4 * die + i) 0
  | .esCol i => s.esCol.getD i 0
  | .dnCtl cluster unit => let d := s.densAt cluster unit; d.ten * 2 ^ 16 + d.cores * 2 ^ 8 + d.src
  | .dnEdge cluster unit i => (s.densAt cluster unit).edges.getD i 0
  | .hbNow => s.hb.toNat
  | .hwBase => s.plat.hwBase * 2 ^ 36
  | .btStat => s.plat.btStage * 256 + s.plat.btKind * 4 + b2n s.plat.btDone 1
  | .btImghash => s.plat.imgHash
  | .pwCap => s.plat.pwCap
  | .pwStat => s.plat.pwStep * 2 ^ 20 + s.plat.pwWatts
  | .tenCtl ten => let t := s.tenOf ten; t.weight * 65536 + b2n t.done 4 + b2n t.busy 2 + b2n t.en 1
  | .tenAcct ten i => s.acctWord ten i
  | .msReg i => s.plat.ms.getD i 0
  | .tmReg ten => (s.tenOf ten).tm
  | .mailbox _ fn => (s.plat.mail.getD fn 0).toNat
  | .ccStore _ | .ccFence | .cboClean | .cboFlush | .cboInval | .workCancel _ | .laiLoad _ _ | .read _ _ => 0

/-- A read through a port is answered (R455, R457): the physical function shows every register, a virtual one the counters and
the mailbox of its tenancy, the management port the `BT` and `PW` registers. -/
def readAnswer (port : Port) (reg : DevReg) (s : State) : State :=
  let shown : Bool := match port, reg with
    | .function 0, _ => true
    | .function f, .tenAcct n i => f == n + 1 && decide (i < 8)
    | .function f, .mailbox _ g => f == g
    | .management, .btStat => true
    | .management, .btImghash => true
    | .management, .pwCap => true
    | .management, .pwStat => true
    | _, _ => false
  if shown then s.post (.regRead port (readReg reg s)) else s

/-- A word goes into Goloc's mailbox of a function; what Goloc leaves there for a tenancy raises vector 1 (R455). -/
def mailWrite (goloc : Bool) (fn : Nat) (value : Word) (s : State) : State :=
  let s := s.modPlat (fun p => { p with mail := p.mail.set fn value })
  if goloc && 1 ≤ fn && fn ≤ 16 then s.post (.vector fn 1) else s

/-- REGISTER_WRITE (R3): the fields of a register by their access codes; a register with a behaviour of its own has
its own event's. -/
def execRegisterWrite (reg : DevReg) (value : Word) (s : State) : Out :=
  let v := value.toNat
  match reg with
  | .trRoot ten => .next ((s.modTen ten (fun t => { t with root := page47 value, rootEn := value.getLsbD 0 })).spend ten)
  | .trAccthr => .next { s with accThr := v % 2 ^ 32 }
  | .trInv => trInvWrite value s
  | .rlArena ten => .next (if s.relocating ten then s
      else (s.modTen ten (fun t => { t with arenaBase := v / 2 ^ 20 % 2 ^ 36, tiles := v % 2 ^ 20 })).spend ten)
  | .rlTtab ten => .next (if s.relocating ten then s else (s.modTen ten (fun t => { t with ttab := page47 value })).spend ten)
  | .clDom => execClDomEnable value s
  | .clLink link => execClLinkWrite link value s
  | .lqBase ten q => .next (if 16 < v % 32 then s
      else (s.setQueue ten q { s.queue ten q with addr := page47 value, log2n := v % 32 }).spend ten)
  | .lqIdx ten q => execLqProdWrite ten q (value.setWidth 32) s
  | .dbCore core => dbCoreWrite core value s
  | .dbCl cluster => dbClWrite cluster value s
  | .dwAddr cluster w => .next ((s.modWatch cluster w (fun x => { x with addr := v / 8 % 2 ^ 53 * 8 })).spend
      (s.watch.getD (8 * cluster + w) {}).ten)
  | .dwCtl cluster w => .next ((s.modWatch cluster w (fun x => { x with
      ten := v / 2 ^ 8 % 16, cidx := v / 2 ^ 5 % 8, scr := value.getLsbD 4, at_ := value.getLsbD 3, wr := value.getLsbD 2
      rd := value.getLsbD 1, en := value.getLsbD 0 })).spend (v / 2 ^ 8 % 16))
  | .dbPpc ten p => .next (if v / 2 ^ 62 = 3 then s else
      (s.modProbe ten p (fun x => { x with act := v / 2 ^ 62, pc := codeAddr value })).spend ten)
  | .dbPh ten p => .next ((s.modProbe ten p (fun x => { x with hnd := codeAddr value })).spend ten)
  | .dbPlaunch ten => .next ((s.modTen ten (fun t => { t with plaunch := value })).spend ten)
  | .peCtl core => .next (s.peWrite core value)
  | .ubReg core => .next (s.ubWrite core 0 value)
  | .ubScr core => .next (s.ubWrite core 1 value)
  | .ubL1 core => .next (s.ubWrite core 2 value)
  | .ubStat core => .next (s.ubWrite core 3 value)
  | .cqMin core q => execCqQueueWrite core (q % 4) value s
  | .cqCap core q => execCqQueueWrite core (4 + q % 4) value s
  | .cqQuant core q => execCqQueueWrite core (8 + q % 4) value s
  | .dnCtl cluster unit => execDensConfigWrite cluster unit 0 value s
  | .dnEdge cluster unit i => if i < 15 then execDensConfigWrite cluster unit (1 + i) value s else .next s
  | .hwBase => .next (s.modPlat (fun p => { p with hwBase := v / 2 ^ 36 % 2 ^ 12 }))
  | .btStat => if value.getLsbD 1 then execWarmStartRequest s else .next s
  | .pwCap => .next (if 400 ≤ v % 2048 ∧ v % 2048 ≤ 1600 then s.modPlat (fun p => { p with pwCap := v % 2048 }) else s)
  | .tenCtl ten => tenWrite ten value s
  | .ccStore pa => .next (ccStore pa value s)
  | .ccFence => .next s
  | .cboClean => .next (cbo v false s)
  | .cboFlush => .next (cbo v true s)
  | .cboInval => .next (cbo v true s)
  | .workCancel level => .next (golocCancel s level value)
  | .rlStat _ | .clVer | .cqOcc _ _ | .psStat _ | .psOwner _ | .mxStat _ | .esRel _ _ | .esCol _ | .hbNow | .btImghash
  | .pwStat | .tenAcct _ _ | .msReg _ | .tmReg _ => .next s
  | .mailbox goloc fn => .next (mailWrite goloc fn value s)
  | .laiLoad ten lai => .next ((s.modTen ten (fun t => { t with tm := extend t.tm lai })).spend ten)
  | .read port r => .next (readAnswer port r s)

/-! ### Errors of storage (R419) -/

/-- A flipped bit of an entry of flips. -/
def flipIn (t : Tab Word) (k bit : Nat) : Tab Word := setFlips t k (t.getD k 0 ^^^ BitVec.ofNat 64 (2 ^ (bit % 64)))

/-- A bit of a 32-bit word of a core's own structure that has changed of itself. -/
def wordBit (bit : Nat) : Word := BitVec.ofNat 64 (2 ^ (bit % 32))

/-- A flip in the name table: an error that cannot be corrected poisons what the name holds. -/
def Cell.upset (c : Cell) (bit : Nat) : Cell :=
  { c with tecc := c.tecc ^^^ wordBit bit, poison := c.poison || decide (2 ≤ ones (c.tecc ^^^ wordBit bit)) }

/-- A flip in a swatch's entry, a join record, a return entry in hardware. -/
def Swatch.upset (w : Swatch) (bit : Nat) : Swatch := { w with ecc := w.ecc ^^^ wordBit bit }
def JoinRec.upset (j : JoinRec) (bit : Nat) : JoinRec := { j with ecc := j.ecc ^^^ wordBit bit }
def RetEnt.upset (r : RetEnt) (bit : Nat) : RetEnt := if r.spilled then r else { r with ecc := r.ecc ^^^ wordBit bit }

/-- An entry of a table, where there is one, changed. -/
def Tab.mod {α : Type} (t : Tab α) (k : Nat) (f : α → α) : Tab α := match t.get? k with
  | some v => t.set k (f v)
  | none => t

/-- STORAGE_BIT_ERROR (R419): a bit changes of itself, under check bits formed before. -/
def execStorageBitError (target : BitTarget) (bit : Nat) (s : State) : Out :=
  let one : Word := BitVec.ofNat 64 (2 ^ (bit % 64))
  .next (match target with
    | .row core slot key => s.modBoltAt core slot (fun b => { b with regs := b.regs.mod key (fun c => c.inject true one) })
    | .scratch core off => s.modCore core (fun c => { c with scrEcc := flipIn c.scrEcc (off / 4 * 4) (bit % 32) })
    | .l2 pa => { s with ecc := flipIn s.ecc (pa / 8 * 8) bit }
    | .tray core t w => s.modCore core (fun c => { c with trayEcc := flipIn c.trayEcc (4096 * t + 4 * w) (bit % 32) })
    | .region core g w => s.modCore core (fun c => { c with accEcc := flipIn c.accEcc (1024 * g + w) (bit % 32) })
    | .leader core i => s.modCore core (fun c => if c.psBad.contains i then c else { c with psBad := i :: c.psBad })
    | .l1 core pa => s.modCore core (fun c => match c.l1.get? (pa / 8 * 8) with
      | some w => { c with l1 := c.l1.set (pa / 8 * 8) { w with bad := true } }
      | none => c)
    | .staged id cb va => s.modLaunch id (fun l =>
      if (List.range 8).any (fun i => (l.stg cb).has (va / 8 * 8 + i)) then
        { l with stgEcc := flipIn l.stgEcc (va / 8 * 8 + (if cb then 2 ^ 64 else 0)) bit }
      else l)
    | .icache core => s.modCore core (fun c =>
      { c with icache := {}, corrected := if c.icache.ents.isEmpty then c.corrected else c.corrected + 1 })
    | .barrier core p i =>
      if !(s.core core).panels.has p then s
      else
        let t := s.modPanelAt core p (fun q => { q with bars := q.bars.set i { q.bar i with ecc := (q.bar i).ecc ^^^ one } })
        if 2 ≤ ones (t.barAt core p i).ecc then cancelLaunch t (t.panelAt core p).launch (some 5) else t
    | .names core slot key => s.modBoltAt core slot (fun b => { b with regs := b.regs.mod key (fun c => c.upset bit) })
    | .split core slot ent => s.modBoltAt core slot (fun b => { b with sw := b.sw.mod ent (fun w => w.upset bit) })
    | .join core slot r => s.modBoltAt core slot (fun b => { b with joins := b.joins.mod r (fun j => j.upset bit) })
    | .ret core slot r => s.modBoltAt core slot (fun b => { b with rets := b.rets.mod r (fun e => e.upset bit) })
    | .panel core p =>
      if !(s.core core).panels.has p then s
      else
        let t := s.modPanelAt core p (fun q => { q with ecc := q.ecc ^^^ one })
        if 2 ≤ ones (t.panelAt core p).ecc then cancelLaunch t (t.panelAt core p).launch (some 5) else t
    | .counter level id =>
      if level < 2 then
        let t := s.modLaunch id (fun l => { l with ecc := l.ecc ^^^ one })
        if 2 ≤ ones (t.launchOf id).ecc then cancelLaunch t id (some 5) else t
      else match s.obj level id with
        | none => s
        | some o =>
          let o := { o with ecc := o.ecc ^^^ one }
          if 2 ≤ ones o.ecc then cancelObj (s.setObj { o with status := some 5 }) level id else s.setObj o)

/-- L2_SCRUB (R419): the words of a line are read and corrected. -/
def execL2Scrub (line : Nat) (s : State) : Out :=
  .next (((List.range 16).map (fun i => lineOf line + 8 * i)).foldl State.l2Correct s)

/-- CORE_FENCE_OFF (R404). -/
def execCoreFenceOff (core : Nat) (s : State) : Out := .next (s.modCore core (fun c => { c with fenced := true }))

/-! ### Native form (R58) -/

/-- NATIVE_FORM_INSTALL (R58): the control-core cycles that the translator has spent, which the spec does not state, are
charged to the tenancy (R60, R466). -/
def execNativeFormInstall (ten : Nat) (first last : Word) (s : State) : Out :=
  .next ((s.modTen ten (fun t => { t with native := t.native ++ [(first, last)] })).spend ten)

/-- NATIVE_FORM_WITHDRAW (R58). -/
def execNativeFormWithdraw (ten : Nat) (first last : Word) (s : State) : Out :=
  .next ((s.withdrawNative ten (fun r => r == (first, last))).spend ten)

end Sys2Proof.Machine
end

