-- ==== Sys2Proof/Machine/Fetch.lean ====
section
/-! DEFINITION. Fetching an instruction (R34 to R38), and what comes between the choice of a swatch and its
instruction's own effect: fusion (R153) and probe points (R435). -/

namespace Sys2Proof.Machine

/-! ### Words of code -/

/-- The word at an address, from the core's instruction cache: a walk, a fault at the first word, or the wait for a
miss, stall cause 7 (R35, R38, R172). -/
def fetchWord (s : State) (a : Word) : R W32 :=
  match s.translate s.cur.core s.ten a.toNat .x s.sw with
  | .miss v => .error (.wait (.walk (BitVec.ofNat 64 v)) s)
  | .bad c v => trap c (BitVec.ofNat 64 v) s.sw.mask
  | .ok pa _ _ _ =>
    match s.cc.icache.get? pa with
    | some w => .ok w.word
    | none => retry s 7

/-- The words after the first, from an address on. -/
def fetchRest (s : State) : Nat → Word → R (List W32)
  | 0, _ => .ok []
  | n + 1, a => do
    let w ← fetchWord s a
    let ws ← fetchRest s n (a + 4)
    .ok (w :: ws)

/-- The swatch's next instruction: an illegal encoding is cause 0x01 with the first word (R56, R57). -/
def fetch (s : State) : R Instr := do
  let w0 ← fetchWord s s.sw.pc
  let ws ← fetchRest s (wordLen w0 - 1) (s.sw.pc + 4)
  match decodeWords (w0 :: ws) with
  | .ok (i, _) => .ok i
  | .error _ => trap 0x01 (w0.setWidth 64) s.sw.mask

/-- The words of a line, with their part of the start map (R36, R38), but for those with an error that cannot be corrected,
which stay out and are read again when they are needed (R419); `va` is the line's address. -/
def lineWords (s : State) (ten pa va : Nat) : List (Nat × IWord) :=
  ((List.range 32).filter (fun i => !s.l2Bad ((pa + 4 * i) / 8 * 8))).map (fun i =>
    let a := BitVec.ofNat 64 (va + 4 * i)
    (pa + 4 * i, { word := BitVec.ofNat 32 (s.mem.readN (pa + 4 * i) 4), start := s.mapBit ten a, key := some (ten, a.toNat)
                   obj := (s.codeAt ten a).map (fun c => (c.base.toNat, c.base.toNat + 4 * c.words)) }))

/-- A line of words comes into the instruction cache: what stood there for the same addresses goes. -/
def Core.icachePut (c : Core) (ws : List (Nat × IWord)) : Core :=
  let old : Tab IWord := ⟨c.icache.ents.filter (fun e => e.2.key.isNone || ws.all (fun w => w.2.key != e.2.key))⟩
  { c with icache := ws.foldl (fun t w => t.set w.1 w.2) old }

/-- The words of the swatch's instruction, as far as the instruction cache shows its length (R34). -/
def fetchLen (s : State) : Nat :=
  match fetchWord s s.sw.pc with
  | .ok w => wordLen w
  | .error _ => 1

/-- The first word of the swatch's instruction that misses the instruction cache: its address and place. -/
def missingWord (s : State) : Option (Nat × Nat) :=
  (List.range (fetchLen s)).findSome? (fun i =>
    let a := s.sw.pc + BitVec.ofNat 64 (4 * i)
    match s.translate s.cur.core s.ten a.toNat .x s.sw with
    | .ok pa _ _ _ => if s.cc.icache.has pa then none else some (a.toNat, pa)
    | _ => none)

/-- INSTRUCTION_FETCH_FILL (R38): the line of the missing word comes in, and the waiting swatch's instruction is
fetched again; where that word has an error that cannot be corrected, it is consumed (R381, R419). -/
def execInstructionFetchFill (core slot ent : Nat) (s : State) : Out :=
  if ((s.boltAt core slot).sw.getD ent {}).st ≠ .retry 7 then .next s
  else match missingWord { s with cur := { core := core, slot := slot, ent := ent } } with
    | none => .next (s.on core slot ent (fun s => s.modSw (fun w => { w with st := .ready })))
    | some (va, pa) =>
      .next (s.on core slot ent (fun s =>
        let l := lineOf pa
        let s := (lineWs pa).foldl State.l2Correct (s.l2Fill pa s.ten)
        if s.l2Bad (pa / 8 * 8) then raise s 0x13 (BitVec.ofNat 64 pa) s.sw.mask
        else
          let ws := lineWords s s.ten l (va - (pa - l))
          let s := s.modCore s.cur.core (fun c => c.icachePut ws)
          s.modSw (fun w => { w with st := .ready })))

/-! ### Between selection and issue -/

/-- A swatch that may fuse: it replays nothing and stands at the start of its instruction. DESIGN CHOICE: one whose entry
holds a flipped bit does not fuse, so that its own selection reads it first (log 122). -/
def Swatch.plain (w : Swatch) : Bool :=
  w.unfin.isNone && !w.noWatch && w.noProbe.isNone && w.phase == 0 && w.bad.isEmpty && w.safe.isNone && w.edge.isNone
    && w.ecc == 0

/-- Equal-PC fusion into the selected swatch (R153); a stopped bolt's other swatches are not ready (R430). DESIGN CHOICE:
the fused swatch runs in the form of the selected one (R58 and R153 compare portable PCs alone; log entry 63). -/
def fuseReady (s : State) : State :=
  let b := s.bolt
  let w := s.sw
  if !w.plain || b.stop.stopped || b.frozen then s
  else
    let mate (e : Nat × Swatch) : Bool := e.1 != s.cur.ent && e.2.st == .ready && e.2.plain && e.2.pc == w.pc
      && e.2.depth == w.depth && e.2.jtop == w.jtop && e.2.rtop == w.rtop
    let ms := b.sw.ents.filter mate
    if ms.isEmpty then s
    else
      let v := { w with mask := ms.foldl (fun m e => m ||| e.2.mask) w.mask, hand := w.hand || ms.any (fun e => e.2.hand)
                        grant := ms.foldl (fun g e => (g.1 + e.2.grant.1, g.2 + e.2.grant.2)) w.grant }
      s.setBolt { b with sw := (⟨b.sw.ents.filter (fun e => !mate e)⟩ : Tab Swatch).set s.cur.ent v }

/-- What a step does: a whole outcome, or an instruction that issues in a state. -/
inductive Act where
  | out (o : Out)
  | run (i : Instr) (s : State)

/-- How an issue ends: the outcome, the clock of a bolt that has issued nothing (R439), and what a step of a stopped bolt
leaves (R430). -/
def afterIssue (pre : State) (o : Out) : Out :=
  match o with
  | .next t => .next (stepEnd pre (issueClock pre t))
  | o => o

/-- The selected swatch is at hand, and fuses. -/
def select (s : State) (core slot ent : Nat) : State := fuseReady { s with cur := { core := core, slot := slot, ent := ent } }

/-- Selection reads the swatch's entry: a single-bit error is corrected and counted (R419). -/
def readSplit (s : State) : State :=
  if ones s.sw.ecc = 1 then (s.modSw (fun w => { w with ecc := 0 })).correct s.cur.core 1 else s

/-- The selected swatch fetches its instruction, which issues; an entry that cannot be read is 0x13 (R381, R419). -/
def fetchIssue (t : State) : Act :=
  if t.sw.ecc != 0 then .out (afterIssue t (finish t (trap 0x13 0 t.sw.mask)))
  else match fetch t with
    | .ok i => .run i t
    | .error e => .out (afterIssue t (finish t (.error e)))

/-- The selected swatch meets a probe (R435), or fetches its instruction and issues it. -/
def beginIssue (s : State) (core slot ent : Nat) : Act :=
  let t := readSplit (select s core slot ent)
  match t.probeOf core slot ent with
  | some p =>
    .out (afterIssue t (if ((t.tenOf t.ten).probes.getD p {}).act = 1 then execProbePointStop core slot ent t
      else execProbePointHandler core slot ent t))
  | none => fetchIssue t

end Sys2Proof.Machine
end

