-- ==== Sys2Proof/Machine/Float.lean ====
section
/-! DEFINITION. The floating forms (R129 to R133), and the base forms equal to them (R54). -/

namespace Sys2Proof.Machine

/-- `fadd` (R129) -/
def faddForm (len : Nat) (x : Ext) (s : State) : Out := laneForm 0x0C0 len x x.fmt.is64 (Alu.fp .add) s
def execFadd (x : Ext) (s : State) : Out := faddForm x.len x s
def execFaddF32Base (w : BaseWord) (s : State) : Out := faddForm (baseLen w) (w.toExt 0x27) s
def execFaddF64Base (w : BaseWord) (s : State) : Out := faddForm (baseLen w) (w.toExt 0x32) s

/-- `fsub` (R129) -/
def fsubForm (len : Nat) (x : Ext) (s : State) : Out := laneForm 0x0C1 len x x.fmt.is64 (Alu.fp .sub) s
def execFsub (x : Ext) (s : State) : Out := fsubForm x.len x s
def execFsubF32Base (w : BaseWord) (s : State) : Out := fsubForm (baseLen w) (w.toExt 0x28) s

/-- `fmul` (R129) -/
def fmulForm (len : Nat) (x : Ext) (s : State) : Out := laneForm 0x0C2 len x x.fmt.is64 (Alu.fp .mul) s
def execFmul (x : Ext) (s : State) : Out := fmulForm x.len x s
def execFmulF32Base (w : BaseWord) (s : State) : Out := fmulForm (baseLen w) (w.toExt 0x29) s
def execFmulF64Base (w : BaseWord) (s : State) : Out := fmulForm (baseLen w) (w.toExt 0x33) s

/-- `fma` (R129) -/
def fmaForm (len : Nat) (x : Ext) (s : State) : Out := laneForm 0x0C3 len x x.fmt.is64 (Alu.fp .fma) s
def execFma (x : Ext) (s : State) : Out := fmaForm x.len x s
def execFmaF32Base (w : BaseWord) (s : State) : Out := fmaForm (baseLen w) (w.toExt 0x2A) s
def execFmaF64Base (w : BaseWord) (s : State) : Out := fmaForm (baseLen w) (w.toExt 0x34) s

/-- `fmin` (R131) -/
def fminForm (len : Nat) (x : Ext) (s : State) : Out := laneForm 0x0C4 len x x.fmt.is64 (Alu.fmm false) s
def execFmin (x : Ext) (s : State) : Out := fminForm x.len x s
def execFminF32Base (w : BaseWord) (s : State) : Out := fminForm (baseLen w) (w.toExt 0x2B) s

/-- `fmax` (R131) -/
def fmaxForm (len : Nat) (x : Ext) (s : State) : Out := laneForm 0x0C5 len x x.fmt.is64 (Alu.fmm true) s
def execFmax (x : Ext) (s : State) : Out := fmaxForm x.len x s
def execFmaxF32Base (w : BaseWord) (s : State) : Out := fmaxForm (baseLen w) (w.toExt 0x2C) s

/-- `fclass` (R132) -/
def execFclass (x : Ext) (s : State) : Out := laneForm 0x0C7 x.len x false Alu.fclass s

/-- `fdiv` (R130) -/
def execFdiv (x : Ext) (s : State) : Out := longForm 0x0C8 x.len x x.fmt.is64 (Alu.fp .div) s

/-- `fsqrt` (R130) -/
def fsqrtForm (len : Nat) (x : Ext) (s : State) : Out := longForm 0x0C9 len x x.fmt.is64 (Alu.fp .sqrt) s
def execFsqrt (x : Ext) (s : State) : Out := fsqrtForm x.len x s
def execFsqrtF32Base (w : BaseWord) (s : State) : Out := fsqrtForm (baseLen w) (w.toExt 0x2F) s

/-- `frsqrt` (R130) -/
def frsqrtForm (len : Nat) (x : Ext) (s : State) : Out := longForm 0x0CA len x x.fmt.is64 (Alu.fp .rsqrt) s
def execFrsqrt (x : Ext) (s : State) : Out := frsqrtForm x.len x s
def execFrsqrtF32Base (w : BaseWord) (s : State) : Out := frsqrtForm (baseLen w) (w.toExt 0x2E) s

/-- `frcp` (R130) -/
def frcpForm (len : Nat) (x : Ext) (s : State) : Out := longForm 0x0CB len x x.fmt.is64 (Alu.fp .rcp) s
def execFrcp (x : Ext) (s : State) : Out := frcpForm x.len x s
def execFrcpF32Base (w : BaseWord) (s : State) : Out := frcpForm (baseLen w) (w.toExt 0x2D) s

/-- `fexp2` (R130) -/
def fexp2Form (len : Nat) (x : Ext) (s : State) : Out := longForm 0x0CC len x x.fmt.is64 (Alu.fp .exp2) s
def execFexp2 (x : Ext) (s : State) : Out := fexp2Form x.len x s
def execFexp2F32Base (w : BaseWord) (s : State) : Out := fexp2Form (baseLen w) (w.toExt 0x30) s

/-- `flog2` (R130) -/
def flog2Form (len : Nat) (x : Ext) (s : State) : Out := longForm 0x0CD len x x.fmt.is64 (Alu.fp .log2) s
def execFlog2 (x : Ext) (s : State) : Out := flog2Form x.len x s
def execFlog2F32Base (w : BaseWord) (s : State) : Out := flog2Form (baseLen w) (w.toExt 0x31) s

/-- `frnd` (R133) -/
def execFrnd (x : Ext) (s : State) : Out := laneForm 0x0CE x.len x x.fmt.is64 (Alu.fp .rnd) s

/-- `fscale` (R133) -/
def execFscale (x : Ext) (s : State) : Out := laneForm 0x0CF x.len x x.fmt.is64 Alu.fscale s

/-- `fdot2` (R133) -/
def fdot2Form (len : Nat) (x : Ext) (s : State) : Out := laneForm 0x0D0 len x false Alu.fdot2 s
def execFdot2 (x : Ext) (s : State) : Out := fdot2Form x.len x s
def execFdot2Bf16Base (w : BaseWord) (s : State) : Out := fdot2Form (baseLen w) (w.toExt 0x35) s

/-- `fcmp` (R132). -/
def execFcmp (x : Ext) (s : State) : Out :=
  issue 0x0C6 x.len x false (fun s => do
    let p ← s.prep x (srcsOf 0x0C6 x) [] false
    .ok (p.predicate x (x.immF 0 3) (fun a b =>
      Fp.fcmp (x.immF 3 3) (Fp.ofTag x.fmt) (Fp.elemRaw x.fmt a.val 0) (Fp.elemRaw x.fmt b.val 0)))) s

end Sys2Proof.Machine
end

