-- ==== Sys2Proof/Machine/Integer.lean ====
section
/-! DEFINITION. The integer and bit forms (R118 to R128), and the base forms equal to them (R54). -/

namespace Sys2Proof.Machine

/-- `add` (R123) -/
def addForm (len : Nat) (x : Ext) (s : State) : Out := laneForm 0x060 len x x.fmt.is64 (Alu.int .add) s
def execAdd (x : Ext) (s : State) : Out := addForm x.len x s
def execAddS32Base (w : BaseWord) (s : State) : Out := addForm (baseLen w) (w.toExt 0x08) s
def execAddS32ImmBase (w : BaseWord) (s : State) : Out := addForm (baseLen w) (w.toExt 0x09) s
def execAddS64Base (w : BaseWord) (s : State) : Out := addForm (baseLen w) (w.toExt 0x21) s
def execAddS64ImmBase (w : BaseWord) (s : State) : Out := addForm (baseLen w) (w.toExt 0x22) s

/-- `sub` (R123) -/
def subForm (len : Nat) (x : Ext) (s : State) : Out := laneForm 0x061 len x x.fmt.is64 (Alu.int .sub) s
def execSub (x : Ext) (s : State) : Out := subForm x.len x s
def execSubS32Base (w : BaseWord) (s : State) : Out := subForm (baseLen w) (w.toExt 0x0A) s
def execSubS64Base (w : BaseWord) (s : State) : Out := subForm (baseLen w) (w.toExt 0x23) s

/-- `mul` (R123) -/
def mulForm (len : Nat) (x : Ext) (s : State) : Out := laneForm 0x062 len x x.fmt.is64 (Alu.int .mul) s
def execMul (x : Ext) (s : State) : Out := mulForm x.len x s
def execMulS32Base (w : BaseWord) (s : State) : Out := mulForm (baseLen w) (w.toExt 0x0B) s
def execMulS64Base (w : BaseWord) (s : State) : Out := mulForm (baseLen w) (w.toExt 0x24) s

/-- `mulhi` (R123) -/
def mulhiForm (len : Nat) (x : Ext) (s : State) : Out := laneForm 0x063 len x x.fmt.is64 (Alu.int .mulhi) s
def execMulhi (x : Ext) (s : State) : Out := mulhiForm x.len x s
def execMulhiS32Base (w : BaseWord) (s : State) : Out := mulhiForm (baseLen w) (w.toExt 0x0C) s

/-- `mad` (R123) -/
def madForm (len : Nat) (x : Ext) (s : State) : Out := laneForm 0x064 len x x.fmt.is64 (Alu.int .mad) s
def execMad (x : Ext) (s : State) : Out := madForm x.len x s
def execMadS32Base (w : BaseWord) (s : State) : Out := madForm (baseLen w) (w.toExt 0x0D) s

/-- `div` (R126) -/
def execDiv (x : Ext) (s : State) : Out := longForm 0x065 x.len x x.fmt.is64 Alu.div s

/-- `rem` (R126) -/
def execRem (x : Ext) (s : State) : Out := longForm 0x066 x.len x x.fmt.is64 Alu.rem s

/-- `neg` (R123) -/
def negForm (len : Nat) (x : Ext) (s : State) : Out := laneForm 0x067 len x x.fmt.is64 (Alu.int .neg) s
def execNeg (x : Ext) (s : State) : Out := negForm x.len x s
def execNegS32Base (w : BaseWord) (s : State) : Out := negForm (baseLen w) (w.toExt 0x0E) s

/-- `abs` (R123) -/
def absForm (len : Nat) (x : Ext) (s : State) : Out := laneForm 0x068 len x x.fmt.is64 (Alu.int .abs) s
def execAbs (x : Ext) (s : State) : Out := absForm x.len x s
def execAbsS32Base (w : BaseWord) (s : State) : Out := absForm (baseLen w) (w.toExt 0x0F) s

/-- `min` (R123) -/
def minIForm (len : Nat) (x : Ext) (s : State) : Out := laneForm 0x069 len x x.fmt.is64 (Alu.int .min) s
def execMinI (x : Ext) (s : State) : Out := minIForm x.len x s
def execMinS32Base (w : BaseWord) (s : State) : Out := minIForm (baseLen w) (w.toExt 0x10) s
def execMinN32Base (w : BaseWord) (s : State) : Out := minIForm (baseLen w) (w.toExt 0x12) s

/-- `max` (R123) -/
def maxIForm (len : Nat) (x : Ext) (s : State) : Out := laneForm 0x06A len x x.fmt.is64 (Alu.int .max) s
def execMaxI (x : Ext) (s : State) : Out := maxIForm x.len x s
def execMaxS32Base (w : BaseWord) (s : State) : Out := maxIForm (baseLen w) (w.toExt 0x11) s
def execMaxN32Base (w : BaseWord) (s : State) : Out := maxIForm (baseLen w) (w.toExt 0x13) s

/-- `and` (R124) -/
def andBForm (len : Nat) (x : Ext) (s : State) : Out := laneForm 0x06B len x x.fmt.is64 (Alu.bit .and) s
def execAndB (x : Ext) (s : State) : Out := andBForm x.len x s
def execAndB32Base (w : BaseWord) (s : State) : Out := andBForm (baseLen w) (w.toExt 0x14) s

/-- `or` (R124) -/
def orBForm (len : Nat) (x : Ext) (s : State) : Out := laneForm 0x06C len x x.fmt.is64 (Alu.bit .or) s
def execOrB (x : Ext) (s : State) : Out := orBForm x.len x s
def execOrB32Base (w : BaseWord) (s : State) : Out := orBForm (baseLen w) (w.toExt 0x15) s

/-- `xor` (R124) -/
def xorBForm (len : Nat) (x : Ext) (s : State) : Out := laneForm 0x06D len x x.fmt.is64 (Alu.bit .xor) s
def execXorB (x : Ext) (s : State) : Out := xorBForm x.len x s
def execXorB32Base (w : BaseWord) (s : State) : Out := xorBForm (baseLen w) (w.toExt 0x16) s

/-- `not` (R124) -/
def notBForm (len : Nat) (x : Ext) (s : State) : Out := laneForm 0x06E len x x.fmt.is64 Alu.not s
def execNotB (x : Ext) (s : State) : Out := notBForm x.len x s
def execNotB32Base (w : BaseWord) (s : State) : Out := notBForm (baseLen w) (w.toExt 0x18) s

/-- `andn` (R124) -/
def andnForm (len : Nat) (x : Ext) (s : State) : Out := laneForm 0x06F len x x.fmt.is64 (Alu.bit .andn) s
def execAndn (x : Ext) (s : State) : Out := andnForm x.len x s
def execAndnB32Base (w : BaseWord) (s : State) : Out := andnForm (baseLen w) (w.toExt 0x17) s

/-- `shl` (R124) -/
def shlForm (len : Nat) (x : Ext) (s : State) : Out := laneForm 0x070 len x x.fmt.is64 Alu.shl s
def execShl (x : Ext) (s : State) : Out := shlForm x.len x s
def execShlB32Base (w : BaseWord) (s : State) : Out := shlForm (baseLen w) (w.toExt 0x19) s
def execShlB32ImmBase (w : BaseWord) (s : State) : Out := shlForm (baseLen w) (w.toExt 0x1A) s
def execShlB64ImmBase (w : BaseWord) (s : State) : Out := shlForm (baseLen w) (w.toExt 0x25) s

/-- `shr` (R124) -/
def shrForm (len : Nat) (x : Ext) (s : State) : Out := laneForm 0x071 len x x.fmt.is64 Alu.shr s
def execShr (x : Ext) (s : State) : Out := shrForm x.len x s
def execShrB32Base (w : BaseWord) (s : State) : Out := shrForm (baseLen w) (w.toExt 0x1B) s
def execShrB32ImmBase (w : BaseWord) (s : State) : Out := shrForm (baseLen w) (w.toExt 0x1C) s
def execShrB64ImmBase (w : BaseWord) (s : State) : Out := shrForm (baseLen w) (w.toExt 0x26) s

/-- `sar` (R124) -/
def sarForm (len : Nat) (x : Ext) (s : State) : Out := laneForm 0x072 len x x.fmt.is64 Alu.sar s
def execSar (x : Ext) (s : State) : Out := sarForm x.len x s
def execSarS32Base (w : BaseWord) (s : State) : Out := sarForm (baseLen w) (w.toExt 0x1D) s
def execSarS32ImmBase (w : BaseWord) (s : State) : Out := sarForm (baseLen w) (w.toExt 0x1E) s

/-- `rotl` (R124) -/
def execRotl (x : Ext) (s : State) : Out := laneForm 0x073 x.len x x.fmt.is64 Alu.rotl s

/-- `popc` (R123) -/
def popcForm (len : Nat) (x : Ext) (s : State) : Out := laneForm 0x074 len x false Alu.popc s
def execPopc (x : Ext) (s : State) : Out := popcForm x.len x s
def execPopcB32Base (w : BaseWord) (s : State) : Out := popcForm (baseLen w) (w.toExt 0x1F) s

/-- `clz` (R123) -/
def clzForm (len : Nat) (x : Ext) (s : State) : Out := laneForm 0x075 len x false Alu.clz s
def execClz (x : Ext) (s : State) : Out := clzForm x.len x s
def execClzB32Base (w : BaseWord) (s : State) : Out := clzForm (baseLen w) (w.toExt 0x20) s

/-- `ctz` (R123) -/
def execCtz (x : Ext) (s : State) : Out := laneForm 0x076 x.len x false Alu.ctz s

/-- `brev` (R123) -/
def execBrev (x : Ext) (s : State) : Out := laneForm 0x077 x.len x x.fmt.is64 Alu.brev s

/-- `bfx` (R125) -/
def execBfx (x : Ext) (s : State) : Out := laneForm 0x078 x.len x x.fmt.is64 Alu.bfx s

/-- `bfi` (R125) -/
def execBfi (x : Ext) (s : State) : Out := laneForm 0x079 x.len x x.fmt.is64 Alu.bfi s

/-- `lea` (R128) -/
def execLea (x : Ext) (s : State) : Out := laneForm 0x07B x.len x true Alu.lea s

/-- `dot4` (R128) -/
def execDot4 (x : Ext) (s : State) : Out := laneForm 0x07C x.len x false Alu.dot4 s

/-- `cmp` (R127): a predicate result, with no flag. -/
def execCmp (x : Ext) (s : State) : Out :=
  issue 0x07A x.len x false (fun s => do
    let p ← s.prep x (srcsOf 0x07A x) [] false
    .ok (p.predicate x (x.immF 0 3) (fun a b => (Alu.cmpCond x a b, 0)))) s

end Sys2Proof.Machine
end

