-- ==== Sys2Proof/Machine/LaneExchange.lean ====
section
/-! DEFINITION. The lane-exchange class (R122, R136 to R141): forms whose lanes read one another, over the
active lanes of a segment; all reads of an issue come before any write, and none splits on EMPTY. -/

namespace Sys2Proof.Machine

/-- How lane exchange meets EMPTY lanes and poison (R136, R381). -/
def swapLanes : Mode := { split := false, poisonOk := true }

/-- The width of the segment, 2^n lanes (R122). -/
def segW (x : Ext) : Nat := 2 ^ x.immF 0 4

/-- The first lane of a lane's segment: of the whole bolt with a g destination (R138). -/
def segBase (x : Ext) (l : Nat) : Nat := if x.dst.isG then 0 else l / segW x * segW x

/-- The active lanes of a lane's segment, rising. -/
def segLanes (x : Ext) (ls : List Nat) (l : Nat) : List Nat :=
  if x.dst.isG then ls else ls.filter (fun k => k / segW x == l / segW x)

/-- The value that a lane of source A hands over; an operand that is no register carries `mov`'s tags (R83), of which
R137 and R138 say nothing (DESIGN CHOICE, log 61). -/
def Prep.give (p : Prep) (x : Ext) (l : Nat) : Tag × Word × Bool :=
  let r := (p.srcs.find? (fun r => r.pos == 1)).getD { pos := 1 }
  let o := p.opnd 1 l
  (passTag r x.fmt.is64 o, o.val, x.a.isReg && (p.pre.cell x.a l).poison)

/-- The lane that `shfl` names within the segment (R137): an offset that may lie outside it. -/
def shflSource (x : Ext) (l s : Nat) : Int :=
  let w := segW x
  let j := l % w
  match x.modN with
  | 0 => (s % w : Nat)
  | 1 => (j : Int) - s
  | 2 => (j : Int) + s
  | _ => (Nat.xor j (s % w) : Nat)

/-- `shfl` (R137). -/
def execShfl (x : Ext) (s : State) : Out :=
  issue 0x120 x.len x false (fun s => do
    let p ← s.prep x (srcsOf 0x120 x) [x.dst] x.fmt.is64 swapLanes
    let pick (l : Nat) : Option Nat :=
      let m := shflSource x l (p.opnd 2 l).val.toNat
      let k := segBase x l + m.toNat
      if 0 ≤ m && m < segW x && p.lanes.contains k then some k else none
    let t := p.lanes.foldl (fun t l =>
      let g := p.give x ((pick l).getD l)
      t.write x.dst l x.cntN g.1 g.2.1 g.2.2) p.post
    .ok (if p.lanes.isEmpty then t
      else t.setK (x.immF 4 3) (maskOf p.lanes) (maskOf (p.lanes.filter (fun l => (pick l).isSome))))) s

/-- The source lane of `lbcast` for a lane's segment (R138). -/
def lbcastSource (x : Ext) (l s : Nat) : Nat :=
  if x.dst.isG then s % 1024 else segBase x l + s % segW x

/-- `lbcast` (R138): 0x24 follows the checks of the sources (R143), and comes before any wait when source B is in hand.
The address is the source lane of the lowest lane that fails (DESIGN CHOICE, log 67). 0x24 comes before the destination's
check, 0x04, of R6's step 3 (DESIGN CHOICE, log 79). -/
def execLbcast (x : Ext) (s : State) : Out :=
  issue 0x121 x.len x false (fun s => do
    let ls := s.actLanes x
    let srcs := srcsOf 0x121 x
    s.checkSrcs x ls (readsOf srcs) true srcs
    let r2 := (srcs.find? (fun r => r.pos == 2)).getD { pos := 2 }
    let src (l : Nat) : Nat := lbcastSource x l (s.opnd r2 l).val.toNat
    let known := (srcRegs r2).all (fun c => (s.cell c 0).st != .empty)
    let bad := if known then ls.filter (fun l => !ls.contains (src l)) else []
    if !bad.isEmpty then
      trap 0x24 (BitVec.ofNat 64 (src (bad.headD 0))) (s.failMask x bad)
    let p ← s.prep x srcs [x.dst] x.fmt.is64 swapLanes
    .ok ((if x.dst.isG then p.lanes.take 1 else p.lanes).foldl (fun t l =>
      let g := p.give x (src l)
      t.write x.dst l x.cntN g.1 g.2.1 g.2.2) p.post)) s

/-- The predicate that `vote` reads in a lane (R139). -/
def voteBit (s : State) (x : Ext) (l : Nat) : Bool := (s.kMask (x.immF 0 3)).getLsbD l != x.imm.getLsbD 3

/-- `all`, `any` and `uni` over some lanes (R139). -/
def voteOf (m : Nat) (bs : List Bool) : Bool :=
  match m with
  | 0 => bs.all id
  | 1 => bs.any id
  | _ => bs.all id || !bs.any id

/-- `vote` (R139). -/
def execVote (x : Ext) (s : State) : Out :=
  issue 0x122 x.len x false (fun s =>
    if x.modN = 3 then do
      let p ← s.prep x [] [x.dst] false swapLanes
      .ok (p.lanes.foldl (fun t l =>
        let v := (p.lanes.filter (fun k => k / 32 == l / 32 && voteBit p.pre x k)).foldl (fun a k => a + 2 ^ (k % 32)) 0
        t.write x.dst l x.cntN .n32 (BitVec.ofNat 64 v)) p.post)
    else
      let ls := s.actLanes x
      let v := voteOf x.modN (ls.map (voteBit s x))
      let d := x.immF 4 3
      .ok (if x.imm.getLsbD 7 then s.setQ d v else s.setK d (maskOf ls) (if v then maskOf ls else 0))) s

/-- `elect` (R139). -/
def execElect (x : Ext) (s : State) : Out :=
  issue 0x123 x.len x false (fun s =>
    let ls := s.actLanes x
    .ok (s.setK (x.immF 4 3) (maskOf ls) (maskOf (ls.take 1)))) s

/-- The combination of some lanes of source A (R140): value and flags, and whether one is poisoned. -/
def Prep.combined (p : Prep) (x : Ext) (ls : List Nat) : (Word × Fp.Flags) × Bool :=
  (Alu.reduce (x.immF 4 4) x.fmt x.rnd (ls.map (fun l => (p.opnd 1 l).val)),
   ls.any (fun l => x.a.isReg && (p.pre.cell x.a l).poison))

/-- `scan` (R140). -/
def execScan (x : Ext) (s : State) : Out :=
  issue 0x124 x.len x false (fun s => do
    let p ← s.prep x (srcsOf 0x124 x) [x.dst] x.fmt.is64 swapLanes
    .ok (p.lanes.foldl (fun t l =>
      let r := p.combined x ((segLanes x p.lanes l).filter (fun k => if x.mod.getLsbD 0 then k < l else k ≤ l))
      (t.write x.dst l x.cntN x.fmt r.1.1 r.2).orFlags r.1.2) p.post)) s

/-- `lred` (R140). -/
def execLred (x : Ext) (s : State) : Out :=
  issue 0x125 x.len x false (fun s => do
    let p ← s.prep x (srcsOf 0x125 x) [x.dst] x.fmt.is64 swapLanes
    .ok ((if x.dst.isG then p.lanes.take 1 else p.lanes).foldl (fun t l =>
      let r := p.combined x (segLanes x p.lanes l)
      (t.write x.dst l x.cntN x.fmt r.1.1 r.2).orFlags r.1.2) p.post)) s

/-- Bit 2·a + b of the truth table of `kop` (R122, R141). -/
def kopBit (x : Ext) (a b : Bool) : Bool := x.imm.getLsbD (9 + (if a then 2 else 0) + (if b then 1 else 0))

/-- `kop` (R141). -/
def execKop (x : Ext) (s : State) : Out :=
  issue 0x126 x.len x false (fun s =>
    let d := x.immF 0 3
    let i := x.immF 3 3
    let j := x.immF 6 3
    .ok (if x.g then (if s.gActive x then s.setQ d (kopBit x (s.qBit i) (s.qBit j)) else s)
      else
        let ls := s.actLanes x
        s.setK d (maskOf ls) (maskOf (ls.filter (fun l => kopBit x ((s.kMask i).getLsbD l) ((s.kMask j).getLsbD l))))))
    s

end Sys2Proof.Machine
end

