-- ==== Sys2Proof/Machine/Dispatch.lean ====
section
/-! DEFINITION. The dispatch of an instruction, or of a step of the part, to its meaning. -/

namespace Sys2Proof.Machine

/-- The meaning of an instruction. -/
def exec (i : Instr) (s : State) : Host.Outcome State Fault Refusal :=
  match i with
  | .nopBase w => Sys2Proof.Machine.execNopBase w s
  | .movB32Base w => Sys2Proof.Machine.execMovB32Base w s
  | .movB64Base w => Sys2Proof.Machine.execMovB64Base w s
  | .moviS32Base w => Sys2Proof.Machine.execMoviS32Base w s
  | .drop1Base w => Sys2Proof.Machine.execDrop1Base w s
  | .drop2Base w => Sys2Proof.Machine.execDrop2Base w s
  | .drop3Base w => Sys2Proof.Machine.execDrop3Base w s
  | .exhaustBase w => Sys2Proof.Machine.execExhaustBase w s
  | .addS32Base w => Sys2Proof.Machine.execAddS32Base w s
  | .addS32ImmBase w => Sys2Proof.Machine.execAddS32ImmBase w s
  | .subS32Base w => Sys2Proof.Machine.execSubS32Base w s
  | .mulS32Base w => Sys2Proof.Machine.execMulS32Base w s
  | .mulhiS32Base w => Sys2Proof.Machine.execMulhiS32Base w s
  | .madS32Base w => Sys2Proof.Machine.execMadS32Base w s
  | .negS32Base w => Sys2Proof.Machine.execNegS32Base w s
  | .absS32Base w => Sys2Proof.Machine.execAbsS32Base w s
  | .minS32Base w => Sys2Proof.Machine.execMinS32Base w s
  | .maxS32Base w => Sys2Proof.Machine.execMaxS32Base w s
  | .minN32Base w => Sys2Proof.Machine.execMinN32Base w s
  | .maxN32Base w => Sys2Proof.Machine.execMaxN32Base w s
  | .andB32Base w => Sys2Proof.Machine.execAndB32Base w s
  | .orB32Base w => Sys2Proof.Machine.execOrB32Base w s
  | .xorB32Base w => Sys2Proof.Machine.execXorB32Base w s
  | .andnB32Base w => Sys2Proof.Machine.execAndnB32Base w s
  | .notB32Base w => Sys2Proof.Machine.execNotB32Base w s
  | .shlB32Base w => Sys2Proof.Machine.execShlB32Base w s
  | .shlB32ImmBase w => Sys2Proof.Machine.execShlB32ImmBase w s
  | .shrB32Base w => Sys2Proof.Machine.execShrB32Base w s
  | .shrB32ImmBase w => Sys2Proof.Machine.execShrB32ImmBase w s
  | .sarS32Base w => Sys2Proof.Machine.execSarS32Base w s
  | .sarS32ImmBase w => Sys2Proof.Machine.execSarS32ImmBase w s
  | .popcB32Base w => Sys2Proof.Machine.execPopcB32Base w s
  | .clzB32Base w => Sys2Proof.Machine.execClzB32Base w s
  | .addS64Base w => Sys2Proof.Machine.execAddS64Base w s
  | .addS64ImmBase w => Sys2Proof.Machine.execAddS64ImmBase w s
  | .subS64Base w => Sys2Proof.Machine.execSubS64Base w s
  | .mulS64Base w => Sys2Proof.Machine.execMulS64Base w s
  | .shlB64ImmBase w => Sys2Proof.Machine.execShlB64ImmBase w s
  | .shrB64ImmBase w => Sys2Proof.Machine.execShrB64ImmBase w s
  | .faddF32Base w => Sys2Proof.Machine.execFaddF32Base w s
  | .fsubF32Base w => Sys2Proof.Machine.execFsubF32Base w s
  | .fmulF32Base w => Sys2Proof.Machine.execFmulF32Base w s
  | .fmaF32Base w => Sys2Proof.Machine.execFmaF32Base w s
  | .fminF32Base w => Sys2Proof.Machine.execFminF32Base w s
  | .fmaxF32Base w => Sys2Proof.Machine.execFmaxF32Base w s
  | .frcpF32Base w => Sys2Proof.Machine.execFrcpF32Base w s
  | .frsqrtF32Base w => Sys2Proof.Machine.execFrsqrtF32Base w s
  | .fsqrtF32Base w => Sys2Proof.Machine.execFsqrtF32Base w s
  | .fexp2F32Base w => Sys2Proof.Machine.execFexp2F32Base w s
  | .flog2F32Base w => Sys2Proof.Machine.execFlog2F32Base w s
  | .faddF64Base w => Sys2Proof.Machine.execFaddF64Base w s
  | .fmulF64Base w => Sys2Proof.Machine.execFmulF64Base w s
  | .fmaF64Base w => Sys2Proof.Machine.execFmaF64Base w s
  | .fdot2Bf16Base w => Sys2Proof.Machine.execFdot2Bf16Base w s
  | .ldB32Base w => Sys2Proof.Machine.execLdB32Base w s
  | .ldB64Base w => Sys2Proof.Machine.execLdB64Base w s
  | .stB32Base w => Sys2Proof.Machine.execStB32Base w s
  | .stB64Base w => Sys2Proof.Machine.execStB64Base w s
  | .retBase w => Sys2Proof.Machine.execRetBase w s
  | .joinBase w => Sys2Proof.Machine.execJoinBase w s
  | .exitBase w => Sys2Proof.Machine.execExitBase w s
  | .yieldBase w => Sys2Proof.Machine.execYieldBase w s
  | .fenceAcqBase w => Sys2Proof.Machine.execFenceAcqBase w s
  | .fenceRelBase w => Sys2Proof.Machine.execFenceRelBase w s
  | .mov x => Sys2Proof.Machine.execMov x s
  | .movi x => Sys2Proof.Machine.execMovi x s
  | .drop x => Sys2Proof.Machine.execDrop x s
  | .exhaust x => Sys2Proof.Machine.execExhaust x s
  | .hold x => Sys2Proof.Machine.execHold x s
  | .recount x => Sys2Proof.Machine.execRecount x s
  | .rebind x => Sys2Proof.Machine.execRebind x s
  | .nstat x => Sys2Proof.Machine.execNstat x s
  | .sel x => Sys2Proof.Machine.execSel x s
  | .retag x => Sys2Proof.Machine.execRetag x s
  | .reserve x => Sys2Proof.Machine.execReserve x s
  | .cvt x => Sys2Proof.Machine.execCvt x s
  | .cvtfi x => Sys2Proof.Machine.execCvtfi x s
  | .cvtif x => Sys2Proof.Machine.execCvtif x s
  | .pack2 x => Sys2Proof.Machine.execPack2 x s
  | .unpack x => Sys2Proof.Machine.execUnpack x s
  | .bscale x => Sys2Proof.Machine.execBscale x s
  | .quant x => Sys2Proof.Machine.execQuant x s
  | .dequant x => Sys2Proof.Machine.execDequant x s
  | .pbdec x => Sys2Proof.Machine.execPbdec x s
  | .pbenc x => Sys2Proof.Machine.execPbenc x s
  | .pbload x => Sys2Proof.Machine.execPbload x s
  | .add x => Sys2Proof.Machine.execAdd x s
  | .sub x => Sys2Proof.Machine.execSub x s
  | .mul x => Sys2Proof.Machine.execMul x s
  | .mulhi x => Sys2Proof.Machine.execMulhi x s
  | .mad x => Sys2Proof.Machine.execMad x s
  | .div x => Sys2Proof.Machine.execDiv x s
  | .rem x => Sys2Proof.Machine.execRem x s
  | .neg x => Sys2Proof.Machine.execNeg x s
  | .abs x => Sys2Proof.Machine.execAbs x s
  | .minI x => Sys2Proof.Machine.execMinI x s
  | .maxI x => Sys2Proof.Machine.execMaxI x s
  | .andB x => Sys2Proof.Machine.execAndB x s
  | .orB x => Sys2Proof.Machine.execOrB x s
  | .xorB x => Sys2Proof.Machine.execXorB x s
  | .notB x => Sys2Proof.Machine.execNotB x s
  | .andn x => Sys2Proof.Machine.execAndn x s
  | .shl x => Sys2Proof.Machine.execShl x s
  | .shr x => Sys2Proof.Machine.execShr x s
  | .sar x => Sys2Proof.Machine.execSar x s
  | .rotl x => Sys2Proof.Machine.execRotl x s
  | .popc x => Sys2Proof.Machine.execPopc x s
  | .clz x => Sys2Proof.Machine.execClz x s
  | .ctz x => Sys2Proof.Machine.execCtz x s
  | .brev x => Sys2Proof.Machine.execBrev x s
  | .bfx x => Sys2Proof.Machine.execBfx x s
  | .bfi x => Sys2Proof.Machine.execBfi x s
  | .cmp x => Sys2Proof.Machine.execCmp x s
  | .lea x => Sys2Proof.Machine.execLea x s
  | .dot4 x => Sys2Proof.Machine.execDot4 x s
  | .fadd x => Sys2Proof.Machine.execFadd x s
  | .fsub x => Sys2Proof.Machine.execFsub x s
  | .fmul x => Sys2Proof.Machine.execFmul x s
  | .fma x => Sys2Proof.Machine.execFma x s
  | .fmin x => Sys2Proof.Machine.execFmin x s
  | .fmax x => Sys2Proof.Machine.execFmax x s
  | .fcmp x => Sys2Proof.Machine.execFcmp x s
  | .fclass x => Sys2Proof.Machine.execFclass x s
  | .fdiv x => Sys2Proof.Machine.execFdiv x s
  | .fsqrt x => Sys2Proof.Machine.execFsqrt x s
  | .frsqrt x => Sys2Proof.Machine.execFrsqrt x s
  | .frcp x => Sys2Proof.Machine.execFrcp x s
  | .fexp2 x => Sys2Proof.Machine.execFexp2 x s
  | .flog2 x => Sys2Proof.Machine.execFlog2 x s
  | .frnd x => Sys2Proof.Machine.execFrnd x s
  | .fscale x => Sys2Proof.Machine.execFscale x s
  | .fdot2 x => Sys2Proof.Machine.execFdot2 x s
  | .shfl x => Sys2Proof.Machine.execShfl x s
  | .lbcast x => Sys2Proof.Machine.execLbcast x s
  | .vote x => Sys2Proof.Machine.execVote x s
  | .elect x => Sys2Proof.Machine.execElect x s
  | .scan x => Sys2Proof.Machine.execScan x s
  | .lred x => Sys2Proof.Machine.execLred x s
  | .kop x => Sys2Proof.Machine.execKop x s
  | .bra x => Sys2Proof.Machine.execBra x s
  | .brx x => Sys2Proof.Machine.execBrx x s
  | .call x => Sys2Proof.Machine.execCall x s
  | .callx x => Sys2Proof.Machine.execCallx x s
  | .ret x => Sys2Proof.Machine.execRet x s
  | .fork x => Sys2Proof.Machine.execFork x s
  | .join x => Sys2Proof.Machine.execJoin x s
  | .exit x => Sys2Proof.Machine.execExit x s
  | .yield x => Sys2Proof.Machine.execYield x s
  | .loop x => Sys2Proof.Machine.execLoop x s
  | .nop x => Sys2Proof.Machine.execNop x s
  | .brk x => Sys2Proof.Machine.execBrk x s
  | .ld x => Sys2Proof.Machine.execLd x s
  | .st x => Sys2Proof.Machine.execSt x s
  | .ldm x => Sys2Proof.Machine.execLdm x s
  | .stm x => Sys2Proof.Machine.execStm x s
  | .pf x => Sys2Proof.Machine.execPf x s
  | .cinv x => Sys2Proof.Machine.execCinv x s
  | .cwb x => Sys2Proof.Machine.execCwb x s
  | .aq x => Sys2Proof.Machine.execAq x s
  | .fence x => Sys2Proof.Machine.execFence x s
  | .fenceSc x => Sys2Proof.Machine.execFenceSc x s
  | .tick x => Sys2Proof.Machine.execTick x s
  | .isync x => Sys2Proof.Machine.execIsync x s
  | .atom x => Sys2Proof.Machine.execAtom x s
  | .cas x => Sys2Proof.Machine.execCas x s
  | .red x => Sys2Proof.Machine.execRed x s
  | .txbegin x => Sys2Proof.Machine.execTxbegin x s
  | .txend x => Sys2Proof.Machine.execTxend x s
  | .txabort x => Sys2Proof.Machine.execTxabort x s
  | .txstat x => Sys2Proof.Machine.execTxstat x s
  | .tcopy x => Sys2Proof.Machine.execTcopy x s
  | .tmcast x => Sys2Proof.Machine.execTmcast x s
  | .kick x => Sys2Proof.Machine.execKick x s
  | .barinit x => Sys2Proof.Machine.execBarinit x s
  | .arrive x => Sys2Proof.Machine.execArrive x s
  | .expect x => Sys2Proof.Machine.execExpect x s
  | .waitB x => Sys2Proof.Machine.execWaitB x s
  | .bartest x => Sys2Proof.Machine.execBartest x s
  | .claim x => Sys2Proof.Machine.execClaim x s
  | .release x => Sys2Proof.Machine.execRelease x s
  | .mload x => Sys2Proof.Machine.execMload x s
  | .mma x => Sys2Proof.Machine.execMma x s
  | .mmac x => Sys2Proof.Machine.execMmac x s
  | .accrd x => Sys2Proof.Machine.execAccrd x s
  | .accwr x => Sys2Proof.Machine.execAccwr x s
  | .acczero x => Sys2Proof.Machine.execAcczero x s
  | .accst x => Sys2Proof.Machine.execAccst x s
  | .relocate x => Sys2Proof.Machine.execRelocate x s
  | .unpick x => Sys2Proof.Machine.execUnpick x s
  | .tackq x => Sys2Proof.Machine.execTackq x s
  | .pin x => Sys2Proof.Machine.execPin x s
  | .unpin x => Sys2Proof.Machine.execUnpin x s
  | .coll x => Sys2Proof.Machine.execColl x s
  | .linkq x => Sys2Proof.Machine.execLinkq x s
  | .treeq x => Sys2Proof.Machine.execTreeq x s
  | .collq x => Sys2Proof.Machine.execCollq x s
  | .svc x => Sys2Proof.Machine.execSvc x s
  | .trapret x => Sys2Proof.Machine.execTrapret x s
  | .getsp x => Sys2Proof.Machine.execGetsp x s
  | .setsp x => Sys2Proof.Machine.execSetsp x s
  | .ctxsave x => Sys2Proof.Machine.execCtxsave x s
  | .ctxload x => Sys2Proof.Machine.execCtxload x s
  | .cancel x => Sys2Proof.Machine.execCancel x s
  | .hcnt x => Sys2Proof.Machine.execHcnt x s
  | .errinj x => Sys2Proof.Machine.execErrinj x s
  | .enter x => Sys2Proof.Machine.execEnter x s
  | .leave x => Sys2Proof.Machine.execLeave x s
  | .pmret x => Sys2Proof.Machine.execPmret x s
  | .stallrd x => Sys2Proof.Machine.execStallrd x s
  | .dens x => Sys2Proof.Machine.execDens x s
  | .heartbeatTick => Sys2Proof.Machine.execHeartbeatTick s
  | .valueDelivery id => Sys2Proof.Machine.execValueDelivery id s
  | .allocationGrant core shuttle => Sys2Proof.Machine.execAllocationGrant core shuttle s
  | .windOut core slot => Sys2Proof.Machine.execWindOut core slot s
  | .windIn core slot => Sys2Proof.Machine.execWindIn core slot s
  | .windInProtectionEnd core slot => Sys2Proof.Machine.execWindInProtectionEnd core slot s
  | .oldestBoltSlot core shuttle => Sys2Proof.Machine.execOldestBoltSlot core shuttle s
  | .yieldTimeout core slot ent => Sys2Proof.Machine.execYieldTimeout core slot ent s
  | .pageWalkComplete core slot ent => Sys2Proof.Machine.execPageWalkComplete core slot ent s
  | .deferredFaultDelivery core slot ent => Sys2Proof.Machine.execDeferredFaultDelivery core slot ent s
  | .faultReplay core slot ent => Sys2Proof.Machine.execFaultReplay core slot ent s
  | .faultSkip core slot ent => Sys2Proof.Machine.execFaultSkip core slot ent s
  | .faultDeliver core slot ent => Sys2Proof.Machine.execFaultDeliver core slot ent s
  | .faultEnd core slot ent => Sys2Proof.Machine.execFaultEnd core slot ent s
  | .svcResult id result => Sys2Proof.Machine.execSvcResult id result s
  | .trInvVpn ten vpn => Sys2Proof.Machine.execTrInvVpn ten vpn s
  | .trInvTenancy ten => Sys2Proof.Machine.execTrInvTenancy ten s
  | .trInvAll => Sys2Proof.Machine.execTrInvAll s
  | .trInvComplete => Sys2Proof.Machine.execTrInvComplete s
  | .accessEvent region => Sys2Proof.Machine.execAccessEvent region s
  | .ubBoundaryWrite core which value => Sys2Proof.Machine.execUbBoundaryWrite core which value s
  | .cqQueueWrite core which value => Sys2Proof.Machine.execCqQueueWrite core which value s
  | .storePerformed core => Sys2Proof.Machine.execStorePerformed core s
  | .writebackAck core => Sys2Proof.Machine.execWritebackAck core s
  | .txCommit core slot lane => Sys2Proof.Machine.execTxCommit core slot lane s
  | .irrevocabilityTokenGrant => Sys2Proof.Machine.execIrrevocabilityTokenGrant s
  | .copyStart core id => Sys2Proof.Machine.execCopyStart core id s
  | .copyChunkLand core => Sys2Proof.Machine.execCopyChunkLand core s
  | .copyCutOff core id status => Sys2Proof.Machine.execCopyCutOff core id status s
  | .copyResume core id => Sys2Proof.Machine.execCopyResume core id s
  | .multicastCommandArrival core id receiver => Sys2Proof.Machine.execMulticastCommandArrival core id receiver s
  | .requestEnd core => Sys2Proof.Machine.execRequestEnd core s
  | .requestLd core => Sys2Proof.Machine.execRequestLd core s
  | .requestSt core => Sys2Proof.Machine.execRequestSt core s
  | .requestLin core => Sys2Proof.Machine.execRequestLin core s
  | .requestArrive core => Sys2Proof.Machine.execRequestArrive core s
  | .requestContinue core => Sys2Proof.Machine.execRequestContinue core s
  | .remoteArrival => Sys2Proof.Machine.execRemoteArrival s
  | .matrixOpStart core => Sys2Proof.Machine.execMatrixOpStart core s
  | .matrixKStep core => Sys2Proof.Machine.execMatrixKStep core s
  | .accstRow core => Sys2Proof.Machine.execAccstRow core s
  | .matrixRetire core => Sys2Proof.Machine.execMatrixRetire core s
  | .matrixCutOff core => Sys2Proof.Machine.execMatrixCutOff core s
  | .moveStart id => Sys2Proof.Machine.execMoveStart id s
  | .moveLineCopy id => Sys2Proof.Machine.execMoveLineCopy id s
  | .moveShootdownComplete id => Sys2Proof.Machine.execMoveShootdownComplete id s
  | .moveCutOff id status => Sys2Proof.Machine.execMoveCutOff id status s
  | .moveResume id => Sys2Proof.Machine.execMoveResume id s
  | .unpickSweepWord id => Sys2Proof.Machine.execUnpickSweepWord id s
  | .collStart seq => Sys2Proof.Machine.execCollStart seq s
  | .linkTrainingLoss link => Sys2Proof.Machine.execLinkTrainingLoss link s
  | .flitCrcError flit => Sys2Proof.Machine.execFlitCrcError flit s
  | .linkAckTimeout link => Sys2Proof.Machine.execLinkAckTimeout link s
  | .linkDownNotice link => Sys2Proof.Machine.execLinkDownNotice link s
  | .linkTableReceived epoch rows => Sys2Proof.Machine.execLinkTableReceived epoch rows s
  | .settleExpiry => Sys2Proof.Machine.execSettleExpiry s
  | .exchangeUp hdr link failed final => Sys2Proof.Machine.execExchangeUp hdr link failed final s
  | .exchangeDown hdr failed final => Sys2Proof.Machine.execExchangeDown hdr failed final s
  | .partialReceived hdr chunk link bytes => Sys2Proof.Machine.execPartialReceived hdr chunk link bytes s
  | .resultReceived hdr chunk bytes => Sys2Proof.Machine.execResultReceived hdr chunk bytes s
  | .doneToken hdr link => Sys2Proof.Machine.execDoneToken hdr link s
  | .completeMessage hdr => Sys2Proof.Machine.execCompleteMessage hdr s
  | .abortFlood hdr => Sys2Proof.Machine.execAbortFlood hdr s
  | .clDomEnable value => Sys2Proof.Machine.execClDomEnable value s
  | .clLinkWrite link value => Sys2Proof.Machine.execClLinkWrite link value s
  | .peGo core value => Sys2Proof.Machine.execPeGo core value s
  | .saveWrite core => Sys2Proof.Machine.execSaveWrite core s
  | .lqProdWrite ten q prod => Sys2Proof.Machine.execLqProdWrite ten q prod s
  | .launchRecordConsume ten q => Sys2Proof.Machine.execLaunchRecordConsume ten q s
  | .panelGroupAdmit ten q => Sys2Proof.Machine.execPanelGroupAdmit ten q s
  | .panelComplete core panel => Sys2Proof.Machine.execPanelComplete core panel s
  | .patternStoreRegenDone core => Sys2Proof.Machine.execPatternStoreRegenDone core s
  | .tenancyReset ten => Sys2Proof.Machine.execTenancyReset ten s
  | .tenancyResetComplete ten => Sys2Proof.Machine.execTenancyResetComplete ten s
  | .coldStart stages => Sys2Proof.Machine.execColdStart stages s
  | .warmStart image stages => Sys2Proof.Machine.execWarmStart image stages s
  | .warmStartRequest => Sys2Proof.Machine.execWarmStartRequest s
  | .startFailureTimeout => Sys2Proof.Machine.execStartFailureTimeout s
  | .hostWindowRead offset size => Sys2Proof.Machine.execHostWindowRead offset size s
  | .hostWindowWrite offset bytes => Sys2Proof.Machine.execHostWindowWrite offset bytes s
  | .getVersion => Sys2Proof.Machine.execGetVersion s
  | .getCapabilities => Sys2Proof.Machine.execGetCapabilities s
  | .negotiateAlgorithms => Sys2Proof.Machine.execNegotiateAlgorithms s
  | .getDigests => Sys2Proof.Machine.execGetDigests s
  | .getCertificate slot => Sys2Proof.Machine.execGetCertificate slot s
  | .challenge slot nonce => Sys2Proof.Machine.execChallenge slot nonce s
  | .getMeasurements index => Sys2Proof.Machine.execGetMeasurements index s
  | .keyExchange slot => Sys2Proof.Machine.execKeyExchange slot s
  | .finish => Sys2Proof.Machine.execFinish s
  | .endSession => Sys2Proof.Machine.execEndSession s
  | .powerCapStep watts => Sys2Proof.Machine.execPowerCapStep watts s
  | .thermalTrip => Sys2Proof.Machine.execThermalTrip s
  | .l2Scrub line => Sys2Proof.Machine.execL2Scrub line s
  | .dbCoreStop core slot => Sys2Proof.Machine.execDbCoreStop core slot s
  | .dbCoreResume core slot => Sys2Proof.Machine.execDbCoreResume core slot s
  | .dbCoreStep core slot ent => Sys2Proof.Machine.execDbCoreStep core slot ent s
  | .dbClStop cluster ten => Sys2Proof.Machine.execDbClStop cluster ten s
  | .dbClResume cluster ten => Sys2Proof.Machine.execDbClResume cluster ten s
  | .stopCountExpiry core slot => Sys2Proof.Machine.execStopCountExpiry core slot s
  | .stopIdleExpiry core slot => Sys2Proof.Machine.execStopIdleExpiry core slot s
  | .probePointStop core slot ent => Sys2Proof.Machine.execProbePointStop core slot ent s
  | .probePointHandler core slot ent => Sys2Proof.Machine.execProbePointHandler core slot ent s
  | .densConfigWrite cluster unit which value => Sys2Proof.Machine.execDensConfigWrite cluster unit which value s
  | .registerWrite reg value => Sys2Proof.Machine.execRegisterWrite reg value s
  | .linkTrained link => Sys2Proof.Machine.execLinkTrained link s
  | .collChunkResume seq => Sys2Proof.Machine.execCollChunkResume seq s
  | .accstResume core => Sys2Proof.Machine.execAccstResume core s
  | .unpickResume id => Sys2Proof.Machine.execUnpickResume id s
  | .savePageResume core => Sys2Proof.Machine.execSavePageResume core s
  | .stallClock core shuttle => Sys2Proof.Machine.execStallClock core shuttle s
  | .engineStallClock engine => Sys2Proof.Machine.execEngineStallClock engine s
  | .densitometerSample cluster unit => Sys2Proof.Machine.execDensitometerSample cluster unit s
  | .graphCreate level id parent => Sys2Proof.Machine.execGraphCreate level id parent s
  | .graphSeal level id => Sys2Proof.Machine.execGraphSeal level id s
  | .storageBitError target bit => Sys2Proof.Machine.execStorageBitError target bit s
  | .coreFenceOff core => Sys2Proof.Machine.execCoreFenceOff core s
  | .nativeFormInstall ten first last => Sys2Proof.Machine.execNativeFormInstall ten first last s
  | .nativeFormWithdraw ten first last => Sys2Proof.Machine.execNativeFormWithdraw ten first last s
  | .instructionFetchFill core slot ent => Sys2Proof.Machine.execInstructionFetchFill core slot ent s
  | .cinvAllComplete core slot ent => Sys2Proof.Machine.execCinvAllComplete core slot ent s

end Sys2Proof.Machine
end

