-- ==== Sys2Proof/Machine/Schedule.lean ====
section
/-! DEFINITION. What happens next, in a machine of which the spec leaves the timing open: the end of a swatch's wait, the
selection of a swatch (R162 to R164), the events that are due, and the order in which the model takes them. The choice is
a function of the state; a swatch whose wait is over is ready, every shuttle and every event that is due comes to its
turn, and the heartbeat goes on. -/

namespace Sys2Proof.Machine

/-! ### Selection (R162, R163) -/

/-- The next issue of a shuttle is its oldest bolt's: one of 64 clocks (R163). -/
def Core.oldestSlot (c : Core) (sh : Nat) : Bool := c.clock.getD sh 0 % 64 == 63

/-- The swatches of a shuttle that may be selected: their place in the order, slot and entry. In the oldest bolt's
slot the class does not count. -/
def Core.candidates (c : Core) (sh : Nat) : List (List Nat × Nat × Nat) :=
  let key (b : Bolt) (e : Nat × Swatch) : List Nat :=
    (if c.oldestSlot sh then [] else [b.prio]) ++ [b.age, e.2.pc.toNat, e.1]
  c.bolts.ents.flatMap (fun b => if b.2.shuttle = sh then
    (b.2.sw.ents.filter (c.mayIssue b.2)).map (fun e => (key b.2 e, b.1, e.1)) else [])

/-- The first in the order: slot and entry. -/
def Core.pick (c : Core) (sh : Nat) : Option (Nat × Nat) :=
  match c.candidates sh with
  | [] => none
  | p :: ps => some (ps.foldl (fun m q => if olderThan q.1 m.1 then q else m) p).2

/-- The shuttles of the device that have a swatch to issue: number of the shuttle, core, slot, entry. -/
def State.picks (s : State) : List (Nat × Nat × Nat × Nat) :=
  if s.plat.tripped then []
  else s.cores.ents.flatMap (fun c => (List.range Config.shuttles).filterMap (fun sh =>
    (c.2.pick sh).map (fun p => (6 * c.1 + sh, c.1, p.1, p.2))))

/-- The first of them from the shuttle whose turn it is on. -/
def State.nextPick (s : State) : Option (Nat × Nat × Nat × Nat) :=
  match s.picks.find? (fun p => decide (s.turn ≤ p.1)) with
  | some p => some p
  | none => s.picks.head?

/-- The issue of the next swatch, when there is one, in a clock of its shuttle. -/
def issueNext (s : State) : Option Act :=
  s.nextPick.map (fun p =>
    beginIssue ({ s with turn := p.1 + 1 }.passClocks p.2.1 (p.1 % 6) 1 (some p.2.2.1)) p.2.1 p.2.2.1 p.2.2.2)

/-! ### The ends of waits -/

/-- Every swatch, with its core and slot. -/
def State.swatches (s : State) : List (Nat × Nat × Bolt × Nat × Swatch) :=
  s.cores.ents.flatMap (fun c => c.2.bolts.ents.flatMap (fun b => b.2.sw.ents.map (fun e => (c.1, b.1, b.2, e.1, e.2))))

/-- The swatches that wait at their instruction, for anything but free rows and entries, which are granted, and words of
code, which are filled. -/
def State.waiting (s : State) : List (Nat × Nat × Nat) :=
  s.swatches.filterMap (fun p =>
    let w := p.2.2.2.2
    match w.st with
    | .retry c => if c = 7 ∨ w.short.isSome ∨ !p.2.2.1.lets p.2.2.2.1 w then none else some (p.1, p.2.1, p.2.2.2.1)
    | _ => none)

/-- How a waiting swatch's instruction would end now. -/
def State.trial (s : State) (core slot ent : Nat) : Out :=
  let t := { s with cur := { core := core, slot := slot, ent := ent } }.modSw (fun w => { w with st := .ready })
  match fetch t with
  | .ok i => exec i t
  | .error e => finish t (.error e)

/-- The wait of a swatch is over: one on EMPTY lanes when none of its active lanes is EMPTY in a blocking name (R69),
another when its instruction would leave it otherwise than as it waits. -/
def State.wakes (s : State) (p : Nat × Nat × Nat) : Bool :=
  if (s.swatchAt p).block.isSome then (s.emptyOf p).isNone
  else match s.trial p.1 p.2.1 p.2.2 with
    | .next t => decide ((t.boltAt p.1 p.2.1).sw.get? p.2.2 ≠ (s.boltAt p.1 p.2.1).sw.get? p.2.2)
    | _ => true

/-- A swatch whose wait is over is ready. -/
def Swatch.wake (w : Swatch) : Swatch := { w with st := .ready, block := none }

/-- Every swatch whose wait is over becomes ready. -/
def wakeAll (s : State) : State :=
  (s.waiting.filter s.wakes).foldl (fun t p => t.modBoltAt p.1 p.2.1 (fun b => { b with sw := b.sw.mod p.2.2 Swatch.wake })) s

/-- One of a list, by a number. -/
def nth {α : Type} (n : Nat) (l : List α) : Option α := l[n % l.length]?

/-! ### What cannot wait -/

/-- The swatch of an entry-bound bolt that raises 0x25 (R147): core, slot, entry. It is the one of the lowest PC among those
that wait for an entry; one that waits at a join is none of them (DESIGN CHOICE, log 83). -/
def State.entryBound (s : State) : Option (Nat × Nat × Nat) :=
  let stuck (w : Swatch) : Bool := match w.st with
    | .retry 6 => true
    | .join _ => true
    | _ => false
  s.cores.ents.findSome? (fun c => c.2.bolts.ents.findSome? (fun b =>
    let ws := b.2.sw.ents
    if ws.length < 16 || !ws.all (fun e => stuck e.2) then none
    else ((ws.filter (fun e => e.2.st == .retry 6)).foldl (fun (m : Option (Nat × Swatch)) e => match m with
      | none => some e
      | some f => if e.2.pc.toNat < f.2.pc.toNat then some e else m) none).map (fun e => (c.1, b.1, e.1))))

/-- A bolt's stop lands, or its record is due (R427, R428). -/
def State.stopDue (s : State) : Option (State → Out) :=
  s.cores.ents.findSome? (fun c => if c.2.recordDue then some (execStopCountExpiry c.1 0)
    else match c.2.bolts.ents.find? (fun b => b.2.lands) with
      | some b => some (execStopCountExpiry c.1 b.1)
      | none => (c.2.bolts.ents.find? (fun b => c.2.idles b.2)).map (fun b => execStopIdleExpiry c.1 b.1))

/-- A deferred fault whose handler is free (R373). -/
def State.deferredDue (s : State) : Option (Nat × Nat × Nat) :=
  (s.swatches.find? (fun p => p.2.2.2.2.st == .deferred && !p.2.2.1.trap.act)).map (fun p => (p.1, p.2.1, p.2.2.2.1))

/-- A cancelled bolt has a swatch that may leave (R410). -/
def State.reapDue (s : State) : Bool :=
  s.cancelledBolts.any (fun p =>
    let b := s.boltAt p.1 p.2
    b.irrLanes == 0 || b.sw.vals.any (fun w => w.mask &&& b.irrLanes == 0))

/-- What comes before any issue. -/
def urgent (s : State) : Option (State → Out) :=
  if !s.plat.running && !s.plat.waiting.isEmpty then some beginStart
  else match s.stopDue with
  | some f => some f
  | none => match s.deferredDue with
    | some p => some (execDeferredFaultDelivery p.1 p.2.1 p.2.2)
    | none =>
      if s.againDue then some (fun s => .next s.placeAgain)
      else if s.reapDue then some (fun s => .next (reap s))
      else match s.launches.find? (fun l => l.overCap || (l.engBad && !l.complete)) with
        | some l => some (fun s => .next (if l.engBad then engineError s l.id else rollBack s l.id true))
        | none => s.entryBound.map (fun p => fun s => .next (s.on p.1 p.2.1 p.2.2 (fun s => raise s 0x25 0 s.sw.mask)))

/-! ### The events that are due -/

/-- Of the cores' stores, deliveries and walks. -/
def dueMemory (s : State) : List (State → Out) :=
  (s.cores.ents.filter (fun c => c.2.stq.any (s.canPerform c.1))).map (fun c => execStorePerformed c.1)
    ++ (s.readyDelivery.toList).map execValueDelivery
    ++ s.swatches.filterMap (fun p => match p.2.2.2.2.st with
      | .walk _ => some (execPageWalkComplete p.1 p.2.1 p.2.2.2.1)
      | .retry 7 => some (execInstructionFetchFill p.1 p.2.1 p.2.2.2.1)
      | .retry 12 => if p.2.2.2.2.phase == 6 then some (execCinvAllComplete p.1 p.2.1 p.2.2.2.1) else none
      | _ => none)
    ++ (s.cores.ents.filter (fun c => !c.2.acks.isEmpty)).map (fun c => execWritebackAck c.1)
    ++ (if s.trBusy then [execTrInvComplete] else [])
    ++ (if s.remote.isEmpty then [] else [execRemoteArrival])

/-- Of the transactions. -/
def dueTx (s : State) : List (State → Out) :=
  (if s.token.isNone && !s.tokenWaiters.isEmpty then [execIrrevocabilityTokenGrant] else [])
    ++ s.cores.ents.flatMap (fun c => c.2.bolts.ents.flatMap (fun b =>
      (b.2.tx.ents.filter (fun t => t.2.dec == 1)).map (fun t => execTxCommit c.1 b.1 t.1)))

/-- Of a core's engines. -/
def dueEngines (s : State) (core : Nat) (c : Core) : List (State → Out) :=
  c.copies.flatMap (fun k =>
      (k.recv.filter (fun r => !r.reached)).map (fun r => execMulticastCommandArrival core k.id r.core)
        ++ (if k.started || k.page.isSome then [] else [execCopyStart core k.id]))
    ++ (if c.copies.any (·.started) then [execCopyChunkLand core] else [])
    ++ (if c.kicks.isEmpty then [] else [execRequestEnd core, execRequestLd core, execRequestSt core, execRequestLin core,
      execRequestArrive core, execRequestContinue core])
    ++ (if c.mxq.isEmpty then [] else [execMatrixOpStart core, execMatrixKStep core, execAccstRow core, execMatrixRetire core])
    ++ (if c.stepping.any (stepBad s core) then [execMatrixCutOff core] else [])
    ++ (if c.psRegen then [execPatternStoreRegenDone core] else [])
    ++ (match c.save with
      | some v => if v.page then [] else [execSaveWrite core]
      | none => [])
    ++ (c.panels.keys.filter (s.panelDone core)).map (fun p => execPanelComplete core p)

/-- Of the relocation and collective engines. -/
def dueFar (s : State) : List (State → Out) :=
  s.rel.flatMap (fun r => if r.page.isSome then []
      else if r.sweep then [execUnpickSweepWord r.id]
      else match r.stage with
        | 0 => [execMoveStart r.id]
        | 1 => [execMoveLineCopy r.id]
        | _ => [execMoveShootdownComplete r.id])
    ++ s.dom.ops.filterMap (fun o => if !o.started then some (execCollStart o.seq)
      else if o.busy && o.page.isNone then some (execCollChunkResume o.seq) else none)
    ++ (if s.dom.en && !s.dom.current then [execSettleExpiry] else [])
    ++ (s.dom.unack.keys.filter s.dom.ackDue).map (fun j => fun (t : State) => (.next (ackFlits j t) : Out))

/-- Of the pools of rows (R74 to R76). -/
def dueRows (s : State) (core : Nat) (c : Core) : List (State → Out) :=
  (List.range Config.shuttles).flatMap (fun sh =>
      (if (c.served sh).isSome then [execAllocationGrant core sh] else [])
        ++ (c.victim sh).toList.map (fun k => execWindOut core k))
    ++ (c.bolts.ents.filter (fun b => b.2.winding && !b.2.parked && s.noDelivery core b.1 && !b.2.sw.vals.any Swatch.midway)).map
        (fun b => execWindOut core b.1)
    ++ (c.bolts.ents.filter (fun b => c.unprotects b.2)).map (fun b => execWindInProtectionEnd core b.1)

/-- A tenancy that the dispatcher visits: enabled, with work queued (R400, R464); a visit adds its weight, though the next
group fits nowhere yet. -/
def State.visitable (s : State) (t : Nat) : Bool :=
  let ten := s.tenOf t
  ten.en && !ten.busy && ten.weight != 0 && s.queued t

/-- The tenancy of the dispatcher's visit, under way or next (R464). -/
def State.visit (s : State) : Option Nat :=
  if 16 ≤ s.rrTen ∧ s.visitable (s.rrTen - 16) then some (s.rrTen - 16)
  else ((List.range 16).map (fun i => (s.rrTen + 1 + i) % 16)).find? s.visitable

/-- Of the dispatcher, the launches and the tenancies. -/
def dueWork (s : State) : List (State → Out) :=
  (match s.visit with
      | some t => match s.classOf t with
        | some q => if (s.dispatching t q).isSome then [execPanelGroupAdmit t q] else [execLaunchRecordConsume t q]
        | none => []
      | none => [])
    ++ ((List.range 16).filter s.resetOver).map execTenancyResetComplete
    ++ s.restores.filterMap (fun r =>
      let t := r.image.ten
      let q := (s.launchOf r.image.launch).prio
      if (s.loaded t q).isSome || (s.readyRestore t q).isSome then some (execPanelGroupAdmit t q) else none)
    ++ (if s.launches.any s.canSettle then [fun (t : State) => .next (settleLaunches t)] else [])

/-- Every event that is due. -/
def dueEvents (s : State) : List (State → Out) :=
  dueMemory s ++ dueTx s ++ s.cores.ents.flatMap (fun c => dueEngines s c.1 c.2 ++ dueRows s c.1 c.2) ++ dueFar s ++ dueWork s

/-- One of them: each comes to its turn. -/
def eventNext (s : State) : Option Act := (nth (s.spun + s.spun / 64) (dueEvents s)).map (fun f => .out (f s))

/-- The limit that time alone brings (R164): 64 clocks of a shuttle after a `yield`. -/
def timeouts (s : State) : List (State → Out) :=
  s.swatches.filterMap (fun p =>
      if p.2.2.2.2.yield.isEmpty || decide ((s.core p.1).clockOf p.2.2.1 < p.2.2.2.2.yieldAt + 64) then none
      else some (execYieldTimeout p.1 p.2.1 p.2.2.2.1))

def timeoutNext (s : State) : Option Act := (nth (s.spun / 64) (timeouts s)).map (fun f => .out (f s))

/-! ### The schedule -/

/-- Clocks pass on the shuttles that have nothing to issue, and in the other units: 64 with each heartbeat (log 47). -/
def State.idleClocks (s : State) : State :=
  s.cores.ents.foldl (fun s c =>
    if c.2.bolts.ents.isEmpty then s
    else (List.range Config.shuttles).foldl (fun s sh =>
      if (c.2.candidates sh).isEmpty then s.passClocks c.1 sh 64 none else s) s) (s.unitClocks 64)

/-- The heartbeat. -/
def beat (s : State) : Act := .out (execHeartbeatTick s.idleClocks)

/-- The first of two that has something to do, and else the heartbeat. -/
def firstOf (s : State) (a b : State → Option Act) : Act :=
  match a s with
  | some r => r
  | none => match b s with
    | some r => r
    | none => beat s

/-- The next thing that happens: an issue in six steps of eight, where one is possible; an event; in one step of 64 the
limits of time, in one the heartbeat. -/
def schedule (s : State) : Act :=
  let n := s.spun
  let t := wakeAll { s with spun := n + 1 }
  match urgent t with
  | some f => .out (f t)
  | none =>
    if n % 64 = 63 then beat t
    else if n % 64 = 62 then firstOf t timeoutNext eventNext
    else if n % 8 < 6 then firstOf t issueNext eventNext
    else firstOf t eventNext issueNext

end Sys2Proof.Machine
end

