-- ==== Sys2Proof/Machine/Step.lean ====
section
/-! DEFINITION. One step of the machine, and a state in which a given instruction is the next to be fetched. -/

namespace Sys2Proof.Machine

/-- A step: an event that has been brought to the machine, or the next thing of its schedule. -/
def step (s : State) : Host.Outcome State Fault Refusal :=
  match s.agenda with
  | e :: r => exec e { s with agenda := r }
  | [] => match schedule s with
    | .out o => o
    | .run i t => afterIssue t (exec i t)

/-- The address, virtual and physical, at which `withFetchWord` places an instruction. -/
def fetchBase : Nat := 0x10000

/-- The bolt, of one stitch, whose swatch stands at the instruction. -/
def fetchBolt : Bolt :=
  { peak := 256, floor := 1, gpeak := 256, gfloor := 1
    sw := ⟨[(0, { mask := fullMask 8, pc := BitVec.ofNat 64 fetchBase })]⟩ }

/-- The page of the instruction in the core's TLB. -/
def fetchPage : TlbEnt :=
  { ten := 0, base := fetchBase, tack := none
    leaf := { pa := fetchBase, log := 16, acc := false, tck := false, mov := false, x := true, w := false, rd := true } }

/-- The core that will run it: its bolt alone in slot 0, its panel, its page and its words. -/
def fetchCore (c : Core) (ws : List (Nat × W32)) : Core :=
  { c with
    bolts := ⟨[(0, fetchBolt)]⟩, panels := ⟨[(0, { out := 1 })]⟩, clock := {}
    tlb := fetchPage :: c.tlb
    icache := ws.foldl (fun t w => t.set w.1 { word := w.2, start := true, key := some (0, w.1)
                                               obj := some (fetchBase, fetchBase + 256) }) c.icache }

/-- The state with an instruction placed where the next step fetches: what a load of a program and a launch of it
leave, on core 0. -/
def State.withFetchWord (s : State) (nbits w : Nat) : State :=
  let ws := (tableWords nbits w).zipIdx.map (fun p => (fetchBase + 4 * p.2, p.1))
  let code : CodeObj := { ten := 0, base := BitVec.ofNat 64 fetchBase, words := 64, starts := List.range 64 }
  { s with
    agenda := [], spun := 0, turn := 0, plat := { s.plat with tripped := false }
    codes := code :: s.codes
    mem := s.mem.writeBytes fetchBase (tableBytes nbits w)
    tens := s.tens.set 0 { s.tenOf 0 with rootEn := true, probes := {} }
    cores := s.cores.set 0 (fetchCore (s.core 0) ws) }

end Sys2Proof.Machine
end

