-- ==== Sys2Proof/WellFormed.lean ====
section
/-! DEFINITION. Which instructions are legal (R56): those that break none of its conditions. The decoder accepts
these alone; an event is no instruction of a program. -/

namespace Sys2Proof

/-- The instruction breaks no condition of R56. -/
def Instr.WellFormed (i : Instr) : Prop := i.check = none

/-- A part's own step, which reaches the machine from outside its programs. -/
def Instr.isEvent (i : Instr) : Bool := i.shape == .event

/-- The operand registers stand on the side of the form (R48): what a lane-side form writes is a vector name. -/
def Ext.sideOk (x : Ext) : Prop := x.dst.isG = x.g

end Sys2Proof
end

