-- ==== Sys2Proof/Safety.lean ====
section
/-! DEFINITION. The notions in which claims about the machine are made: the invariant that every step keeps, what an
instruction leaves as it was, and the conditions, on the state and the instruction's fields alone, under which an
instruction's own effect comes about. -/

namespace Sys2Proof.Machine

/-! ### The invariant -/

/-- The memories of a core are in canonical form. -/
def Core.memWf (c : Core) : Bool := c.scr.wf && c.tray.wf

/-- Every memory of the machine is in canonical form: the L2's and HBM's view of physical memory, the scratchpad
array and the trays of each core. -/
def State.memWf (s : State) : Bool := s.mem.wf && s.hbm.wf && s.cores.ents.all (fun e => e.2.memWf)

/-! ### What stays -/

/-- A swatch but for what other swatches' issues count down in it (R164). -/
def Swatch.quiet (w : Swatch) : Swatch := { w with yield := [] }

/-- What the issue of an instruction that transfers no control leaves of its swatch, whichever form (R58) it runs in. -/
def Swatch.still (w : Swatch) : Swatch :=
  { w with pc := 0, unfin := none, bad := [], walked := [], noWatch := false, noProbe := none, phase := 0
           edge := none, block := none, short := none, grant := (0, 0), hold := 0, yield := [], native := false, safe := w.safe.map (fun f => { f with k := {}, q := 0 }) }

/-- A bolt but for the counts of R164 in its swatches. -/
def Bolt.quiet (b : Bolt) : Bolt := { b with sw := ⟨b.sw.ents.map (fun p => (p.1, p.2.quiet))⟩ }

/-- A bolt apart from its names and rows, its predicates and status flags, its swatches and the counts of its
issues: the TRAP registers, join records, return entries, transactions, pins, regions and the contact sheet among
what remains. -/
def Bolt.still (b : Bolt) : Bolt :=
  { b with regs := {}, k := {}, q := 0, flags := 0, flagLog := [], sw := {}, issued := 0, lastClk := 0, protect := none, resv := {}, gresv := 0
           stop := { b.stop with skid := 0, last := 0 } }

/-- A core apart from its bolts and its count of corrected errors: scratchpad, trays, accumulator regions, pattern
store, panels with their barriers, caches, TLB, pending stores, engines' queues and registers. -/
def Core.still (c : Core) : Core := { c with bolts := {}, corrected := 0 }

/-- A tenancy's registers but for its accounting counters (R466). -/
def Tenancy.still (t : Tenancy) : Tenancy := { t with acct := {} }

/-- The machine apart from its cores, its tenancies and its pending deliveries: memory and its owners, `HB.NOW`, every
register outside the cores, launches, objects, engines, records posted, and what the step works on. -/
def State.still (s : State) : State := { s with cores := {}, tens := {}, dlv := [], serial := 0 }

/-- `t` keeps of `s` everything outside the current bolt: every memory, every register of the cores and of the control
complex, every other bolt, launches, engines, records posted. -/
structure Outside (s t : State) : Prop where
  machine : t.still = s.still
  cores : ∀ n, (t.core n).still = (s.core n).still
  tens : ∀ n, (t.tenOf n).still = (s.tenOf n).still
  others : ∀ n m, ¬(n = s.cur.core ∧ m = s.cur.slot) → (t.boltAt n m).quiet = (s.boltAt n m).quiet

/-- `t` keeps of `s` all that an instruction of the current swatch leaves alone, whatever names, predicates, flags and
deliveries it writes: everything outside the bolt, the bolt's exception and control registers, every other swatch. -/
structure Frame (s t : State) : Prop extends Outside s t where
  mine : t.bolt.still = s.bolt.still
  swatches : ∀ e, e ≠ s.cur.ent → (t.bolt.sw.getD e {}).quiet = (s.bolt.sw.getD e {}).quiet
  swatch : t.sw.still = s.sw.still

/-- Every name holds what it held. -/
def SameNames (s t : State) : Prop := ∀ k, t.cellK k = s.cellK k

/-- Every predicate of the bolt, and of the safelight context, holds what it held. -/
def SamePreds (s t : State) : Prop := t.bolt.k = s.bolt.k ∧ t.bolt.q = s.bolt.q ∧ t.sw.safe = s.sw.safe

/-- The status flags and the pending deliveries are what they were. -/
def SameFlags (s t : State) : Prop := t.bolt.flags = s.bolt.flags
def SameDlv (s t : State) : Prop := t.dlv = s.dlv ∧ t.serial = s.serial

/-- The instruction at the swatch has completed with no effect beyond names, predicates, flags and deliveries, and
the swatch goes on at `pc`. -/
def Goes (s t : State) (pc : Word) : Prop := Frame s t ∧ t.sw.pc = pc

/-- Lane `l` of the bolt stands ready at `pc`. -/
def LaneAt (t : State) (l : Nat) (pc : Word) : Prop :=
  ∃ e w, t.bolt.sw.get? e = some w ∧ w.mask.getLsbD l = true ∧ w.pc = pc ∧ w.st = .ready

/-- Nothing has changed but where the swatches of the bolt stand: all outside the bolt, its names, predicates, flags and
deliveries, its control and exception registers are what they were. -/
def OnlyMoves (s t : State) : Prop :=
  Outside s t ∧ t.bolt.still = s.bolt.still ∧ SameNames s t ∧ t.bolt.k = s.bolt.k ∧ t.bolt.q = s.bolt.q ∧ SameFlags s t ∧
    SameDlv s t

/-- The current bolt's names, predicates, flags and deliveries, and its control registers, are what they were. -/
def SameBolt (s t : State) : Prop :=
  SameNames s t ∧ SamePreds s t ∧ SameFlags s t ∧ SameDlv s t ∧ t.bolt.trap = s.bolt.trap ∧ t.bolt.joins = s.bolt.joins ∧
    t.bolt.rets = s.bolt.rets

/-! ### Issues -/

/-- An instruction of a program as it issues: its opcode in the numbering of R55, its length in words, its fields.
A base form issues as the extended form equal to it (R54). -/
structure Op where
  opc : Nat
  len : Nat
  x   : Ext
  deriving DecidableEq, Repr

end Sys2Proof.Machine

namespace Sys2Proof

open Machine in
/-- How an instruction issues; an event does not. -/
def Instr.op (i : Instr) : Option Op :=
  match i.shape with
  | .base bop w => some ⟨(baseRow bop.toNat).opc, baseLen w, w.toExt bop.toNat⟩
  | .ext opc x => some ⟨opc.toNat, x.len, x⟩
  | .event => none

end Sys2Proof

namespace Sys2Proof.Machine

/-- The sources of an issue, and the names it lists. -/
def Op.srcs (o : Op) : List Src := srcsOf o.opc o.x
def Op.names (o : Op) : List Code :=
  listed o.x (form o.opc o.x) (ranges o.opc o.x).1 (ranges o.opc o.x).2.1 (ranges o.opc o.x).2.2

/-- The conditions under which an issue reaches R6: what the safelight context admits (R436), a start bit at the
following word of a form that goes on there (R37), and no transaction in the lanes of a form that R262 names. -/
structure Issues (s : State) (o : Op) (transfer : Bool) : Prop where
  admitted : safeCheck s o.opc o.x o.names = .ok ()
  goesOn : transfer = false → s.nextBit s.ten s.sw.pc (s.nextPc o.len) = true
  noTx : txForbidden o.opc o.x = true → ∀ l ∈ s.concerned o.x, (s.txAt l).act = false

/-! ### Accesses -/

/-- The access of `size` bytes at `va` by a lane goes to bank byte `off` of core `c`'s scratchpad array. -/
def Banks (s : State) (lane : Nat) (va : Word) (size c off : Nat) : Prop := s.place lane va size = .ok (.scr c off)

/-- The access reaches physical address `pa` with the permission `perm`, following `hops` tacks; its leaf counts
accesses if `acc`. -/
def Reaches (s : State) (lane : Nat) (va : Word) (size : Nat) (perm : Perm) (pa : Nat) (acc : Bool) (hops : Nat) : Prop :=
  ∃ g za, s.place lane va size = .ok (.glob g) ∧
    s.translate s.cur.core s.ten g.toNat perm s.sw = .ok pa acc za hops ∧ pa + size ≤ Config.hbmBytes

/-- The access passes R197 and its translation. -/
def Lands (s : State) (lane : Nat) (va : Word) (size : Nat) (perm : Perm) : Prop :=
  (∃ c off, Banks s lane va size c off) ∨ ∃ pa acc hops, Reaches s lane va size perm pa acc hops

/-- No lane of the machine runs a transaction. -/
def NoTx (s : State) : Prop := ∀ c ∈ s.cores.vals, ∀ b ∈ c.bolts.vals, b.tx.ents = []

/-- No word of the current core's L1 has a parity error; and each holds, besides, what the L2 holds. -/
def SoundL1 (s : State) : Prop := ∀ w v, s.cc.l1.get? w = some v → v.bad = false
def FreshL1 (s : State) : Prop := ∀ w v, s.cc.l1.get? w = some v → v.bad = false ∧ v.val = s.l2Word w

/-- No watch register stops the access (R432, R433). -/
def Unwatched (s : State) (lane : Nat) (va : Word) (size : Nat) (k : Kind) : Prop :=
  s.sw.noWatch = true ∨ s.inSafe = true ∨ ∀ p, s.place lane va size = .ok p → s.watchHit k p = none

/-- The accesses of the active lanes are not transactional (R256). -/
def Outright (s : State) (x : Ext) : Prop := x.g = true ∨ ∀ l ∈ s.actLanes x, (s.txAt l).act = false

/-- The bolt's TRAP registers, join records and return entries are what they were. -/
def SameControl (s t : State) : Prop :=
  t.bolt.trap = s.bolt.trap ∧ t.bolt.joins = s.bolt.joins ∧ t.bolt.rets = s.bolt.rets

/-! ### Computing forms -/

/-- What a computing form does in a lane: its function, whether its destination is 64 bits wide, how it meets EMPTY
lanes and poison. -/
structure Computing where
  f    : LaneFn
  w64  : Ext → Bool := fun x => x.fmt.is64
  mode : Mode := {}

/-- The forms that write their result at once: register moves, conversions, integers, bits and floats (R83, R84,
R90, R107 to R112, R123 to R133). -/
def computing (opc : Nat) : Option Computing :=
  match opc with
  | 0x000 => some { f := Alu.mov, mode := { poisonOk := true } }
  | 0x001 => some { f := Alu.movi }
  | 0x009 => some { f := Alu.retag }
  | 0x030 => some { f := Alu.cvt }
  | 0x031 => some { f := Alu.cvtfi }
  | 0x032 => some { f := Alu.cvtif }
  | 0x033 => some { f := Alu.pack2 }
  | 0x034 => some { f := Alu.unpack }
  | 0x036 => some { f := Alu.quant }
  | 0x037 => some { f := Alu.dequant }
  | 0x060 => some { f := Alu.int .add }
  | 0x061 => some { f := Alu.int .sub }
  | 0x062 => some { f := Alu.int .mul }
  | 0x063 => some { f := Alu.int .mulhi }
  | 0x064 => some { f := Alu.int .mad }
  | 0x067 => some { f := Alu.int .neg }
  | 0x068 => some { f := Alu.int .abs }
  | 0x069 => some { f := Alu.int .min }
  | 0x06A => some { f := Alu.int .max }
  | 0x06B => some { f := Alu.bit .and }
  | 0x06C => some { f := Alu.bit .or }
  | 0x06D => some { f := Alu.bit .xor }
  | 0x06E => some { f := Alu.not }
  | 0x06F => some { f := Alu.bit .andn }
  | 0x070 => some { f := Alu.shl }
  | 0x071 => some { f := Alu.shr }
  | 0x072 => some { f := Alu.sar }
  | 0x073 => some { f := Alu.rotl }
  | 0x074 => some { f := Alu.popc, w64 := fun _ => false }
  | 0x075 => some { f := Alu.clz, w64 := fun _ => false }
  | 0x076 => some { f := Alu.ctz, w64 := fun _ => false }
  | 0x077 => some { f := Alu.brev }
  | 0x078 => some { f := Alu.bfx }
  | 0x079 => some { f := Alu.bfi }
  | 0x07B => some { f := Alu.lea, w64 := fun _ => true }
  | 0x07C => some { f := Alu.dot4, w64 := fun _ => false }
  | 0x0C0 => some { f := Alu.fp .add }
  | 0x0C1 => some { f := Alu.fp .sub }
  | 0x0C2 => some { f := Alu.fp .mul }
  | 0x0C3 => some { f := Alu.fp .fma }
  | 0x0C4 => some { f := Alu.fmm false }
  | 0x0C5 => some { f := Alu.fmm true }
  | 0x0C7 => some { f := Alu.fclass, w64 := fun _ => false }
  | 0x0CE => some { f := Alu.fp .rnd }
  | 0x0CF => some { f := Alu.fscale }
  | 0x0D0 => some { f := Alu.fdot2, w64 := fun _ => false }
  | _ => none

/-- The forms of the X pipe, whose lanes deliver later (R106, R126, R130). -/
def computingLong (opc : Nat) : Option LaneFn :=
  match opc with
  | 0x065 => some Alu.div
  | 0x066 => some Alu.rem
  | 0x0C8 => some (Alu.fp .div)
  | 0x0C9 => some (Alu.fp .sqrt)
  | 0x0CA => some (Alu.fp .rsqrt)
  | 0x0CB => some (Alu.fp .rcp)
  | 0x0CC => some (Alu.fp .exp2)
  | 0x0CD => some (Alu.fp .log2)
  | _ => none

end Sys2Proof.Machine
end

