-- ==== Sys2Proof/Certificates/Slice0/Obligations.lean ====
section
/-! DEFINITION. The statements for the provers. A statement about an instruction of a program is made of its `Op`: the
opcode of R55, the length and the fields with which it issues; the base form equal to an extended form (R54) issues
with the same opcode and is covered with it. -/

open Sys2Proof Sys2Proof.Machine

/-! ### Encoding -/

/-- DecodeOfEncode (R34 to R57): the words of every legal instruction, whatever stands after them, decode to it,
with every field at every value its encoding admits. -/
def Obligations.DecodeOfEncode : Prop :=
  ∀ (i : Instr) (rest : List W32), i.WellFormed → decodeWords (encode i ++ rest) = .ok (i, rest)

/-- DecodeIsExact: (R34, R39, R42 to R45) what decodes is legal, and its words are the words it was read from: each stream of
words has one reading. (R34) bits [31:30] of the first word fix the length: 1, 3, 3 or 5 words. (R56) what the decoder
accepts has an assigned opcode, a legal rounding mode, no PNEG with k0, no trap bit on a position without a register, no
operand code from 0x300 on and none of an unassigned special register, and a count exactly when the form writes a name. -/
def Obligations.DecodeIsExact : Prop :=
  (∀ (ws rest : List W32) (i : Instr), decodeWords ws = .ok (i, rest) → i.WellFormed ∧ encode i ++ rest = ws) ∧
  (∀ (w : W32) (ws rest : List W32) (i : Instr), decodeWords (w :: ws) = .ok (i, rest) →
    (w.extractLsb' 30 2 = 0 → (w :: ws).length = rest.length + 1) ∧
    (w.extractLsb' 30 2 = 1 → (w :: ws).length = rest.length + 3) ∧
    (w.extractLsb' 30 2 = 2 → (w :: ws).length = rest.length + 3) ∧
    (w.extractLsb' 30 2 = 3 → (w :: ws).length = rest.length + 5)) ∧
  (∀ (w0 w1 w2 : W32) (ws rest : List W32) (i : Instr), decodeWords (w0 :: w1 :: w2 :: ws) = .ok (i, rest) →
    w0.getLsbD 30 = true → ∃ o : Op, i.op = some o ∧ (formOf o.opc o.x).isSome ∧ w1.extractLsb' 0 2 = 0 ∧
      (w0.extractLsb' 5 3).toNat < 5 ∧ ¬(w0.extractLsb' 13 3 = 0 ∧ w0.getLsbD 12 = true) ∧
      (∀ c ∈ [o.x.dst, o.x.a, o.x.b, o.x.c], c.toNat < 0x2D9) ∧
      ((form o.opc o.x).rounds = false → o.x.rnd = .rne) ∧ ((form o.opc o.x).wr = (o.x.cnt != 0)) ∧
      (o.x.ta = true → o.x.a.isReg = true) ∧ (o.x.tb = true → o.x.b.isReg = true) ∧
      (o.x.tc = true → o.x.c.isReg = true))

/-- SpecWordsDecode: words written out from the encoding tables decode to the instructions they stand for (R39, R42,
R43, R45, R54, R55): the all-zero word, `add.s32 v3:1, v1, v2`, `exit`, and `add.n64 v6:2, v4, 5` by a literal. -/
def Obligations.SpecWordsDecode : Prop :=
  decodeWords [0#32] = .ok (.nopBase ⟨false, 0, 0, 0, 0, 0, none⟩, []) ∧
  decodeWords [0b00000100000100011000010001000000#32] = .ok (.addS32Base ⟨false, 1, 3, 1, 2, 0, none⟩, []) ∧
  decodeWords [0b00011110000000000000000000000000#32] = .ok (.exitBase ⟨false, 0, 0, 0, 0, 0, none⟩, []) ∧
  decodeWords [0b11000110000000100000010100000000#32, 0b00000001100000000100000000000000#32, 0#32, 5#32, 0#32]
    = .ok (.add { g := false, cnt := 2, pred := 0, pneg := false, fmt := .n64, rnd := .rne, mod := 0, ta := false
                  tb := false, tc := false, dst := 6, a := 4, b := 0, c := 0, imm := 0, lit := some 5 }, [])

/-! ### The step -/

/-- StepRunsDecodedInstruction (R34, R35, R56): when nothing has been brought to the machine, nothing is due before an
issue, it is an issue's turn in the schedule (log 3: the model's choice), no probe stands at the chosen swatch's pc, its entry can be read
(R419), and the words that the instruction fetch reads from the pc on decode to `i`, then `i` is legal, and the step is
`exec i` in the state with that swatch at hand, a clock of its shuttle having passed (R439), with what a step of a stopped
bolt adds (R430). Before the choice every
swatch whose wait is over has become ready (R69, R162). An event that has been brought to the machine comes before all
this. -/
def Obligations.StepRunsDecodedInstruction : Prop :=
  ∀ (s : State) (i : Instr) (ws : List W32) (n core slot ent : Nat),
    let u : State := wakeAll { s with spun := s.spun + 1 }
    let v : State := { u with turn := n + 1 }
    let t := readSplit (select (v.passClocks core (n % 6) 1 (some slot)) core slot ent)
    s.agenda = [] → urgent u = none → s.spun % 8 < 6 → u.nextPick = some (n, core, slot, ent) →
    t.probeOf core slot ent = none → t.sw.ecc = 0 → decodeWords ws = .ok (i, []) →
    (∀ k (h : k < ws.length), fetchWord t (t.sw.pc + BitVec.ofNat 64 (4 * k)) = .ok ws[k]) →
    (i.WellFormed ∧ step s = afterIssue t (exec i t)) ∧
      ∀ (e : Instr) (r : List Instr), step { s with agenda := e :: r } = exec e { s with agenda := r }

/-- IllegalEncodingFaults (R57): words that break a condition of R56 are not executed: when the first word is `w0`
and the words of its length decode to nothing, the swatch takes a fault of cause 0x01 with the first word,
zero-extended, in the fault-address field; its record carries its pc and the swatch's stitch mask; and no name, count, tag,
predicate, byte of memory or engine state has changed. -/
def Obligations.IllegalEncodingFaults : Prop :=
  ∀ (s : State) (ws : List W32) (w0 : W32) (e : DecodeErr), ws.length = wordLen w0 → ws[0]? = some w0 →
    decodeWords ws = .error e →
    (∀ k (h : k < ws.length), fetchWord s (s.sw.pc + BitVec.ofNat 64 (4 * k)) = .ok ws[k]) →
    let r := faultRec s 0x01 (w0.setWidth 64) s.sw.mask
    let t := raise s 0x01 (w0.setWidth 64) s.sw.mask
    finish s ((fetch s).map (fun _ => s)) = .next t ∧ r.cause = 0x01 ∧ r.pc = s.sw.pc ∧ r.addr = w0.setWidth 64 ∧
    r.mask = stitchesOf s.nlanes s.sw.mask ∧ SameNames s t ∧ SamePreds s t ∧ SameFlags s t ∧ SameDlv s t ∧ t.mem = s.mem ∧
    ∀ n, (t.core n).still = (s.core n).still

/-! ### What every step keeps, and what reset leaves -/

/-- StepKeepsCanonicalMemory: whatever the machine does next, its memories stay in canonical form: addresses strictly
rising, and no entry equal to what an unlisted address reads as. -/
def Obligations.StepKeepsCanonicalMemory : Prop :=
  ∀ (s t : State), s.memWf = true → step s = .next t → t.memWf = true

/-- ResetMemoryCanonical: the memories of a machine after reset are in canonical form. -/
def Obligations.ResetMemoryCanonical : Prop :=
  State.reset.memWf = true

/-- ResetRegisters (R3 and the register maps of R99, R202, R211, R214, R246, R285, R317, R326, R346, R385, R397, R429,
R431, R434, R441, R442, R456, R463, R467): what a start leaves in the registers of the cores and of the control complex,
no panel being resident. -/
def Obligations.ResetRegisters : Prop :=
  (∀ n, let c := State.reset.core n
    c.ubReg = 96 ∧ c.ubScr = 64 ∧ c.ubL1 = 32 ∧ c.ubRej = false ∧ c.psOwner = none ∧ c.psRegen = false ∧ c.mxq = [] ∧
    c.peBolt = 0 ∧ c.peImg = 0 ∧ c.peFail = false ∧ c.peDone = false ∧ c.save = none ∧ c.dbBolt = 0 ∧ c.dbEntry = 0 ∧
    c.copies = [] ∧ c.bolts.ents = [] ∧ c.panels.ents = [] ∧
    (∀ q, c.cqMinOf q = 8 ∧ c.cqCapOf q = 128 ∧ c.cqQuantOf q = 0x2000 ∧ c.cqOcc q = 0 ∧ c.deficit.getD q 0 = 0) ∧
    (∀ i, c.leader i = Fp.defaultLeader i) ∧ ∀ i, c.es.getD i 0 = 0) ∧
  (∀ n, let t := State.reset.tenOf n
    t.en = false ∧ t.busy = false ∧ t.done = false ∧ t.weight = 0x10 ∧ t.rootEn = false ∧ t.root = 0 ∧ t.arenaBase = 0 ∧
    t.tiles = 0 ∧ t.ttab = 0 ∧ t.plaunch = 0 ∧ t.tm = 0 ∧ ∀ p, t.probes.getD p {} = { act := 0, pc := 0, hnd := 0 }) ∧
  (∀ l, State.reset.dom.links.getD l {} = { up := false, fail := false, peerdev := 0, peerlink := 0, en := false }) ∧
  State.reset.hb = 0 ∧ State.reset.accThr = 0x10000 ∧ State.reset.trBusy = false ∧
  State.reset.dom.settle = 0x400 ∧ State.reset.dom.abort = false ∧ State.reset.dom.size = 0 ∧ State.reset.dom.self = 0 ∧
  State.reset.dom.ten = 0 ∧ State.reset.dom.en = false ∧ State.reset.dom.epoch = 0 ∧ State.reset.dom.nfail = 0 ∧
  (∀ i, State.reset.queues.getD i {} = { addr := 0, log2n := 0, cons := 0, prod := 0 }) ∧
  (∀ i, State.reset.watch.getD i {} = { addr := 0, ten := 0, cidx := 0, scr := false, at_ := false, wr := false, rd := false
                                        en := false }) ∧
  (∀ c, State.reset.dbcl.getD c {} = { stopped := false, widx := 0, ten := 0 }) ∧
  State.reset.plat.hwBase = 0 ∧ State.reset.plat.btStage = 0 ∧ State.reset.plat.btKind = 0 ∧
  State.reset.plat.btDone = false ∧ State.reset.plat.pwCap = 1600 ∧ State.reset.plat.pwStep = 0

/-! ### The order of an instruction's effects (R6 to R9) -/

/-- PrepCompletes: (R6 to R9, R62, R68, R71, R74, R78) an instruction passes steps 2 to 5 of R6 when every name it reads is
FULL in every active lane, with a count that its reads do not exceed or held, with a tag that its position accepts and
with no poison; when, its own reads counted, its destinations are EXHAUSTED in every active lane, in rows of their width;
and when the peak and the pools can serve their rows. Its lanes are the active ones, and its operands are read in the
state as it stood. (R7, R9, R62, R65) an instruction that passes steps 2 to 5 lowers the count of each name it reads, in
each active lane, by the number of its reads, and a group-wide name's once; a held count stays; a count that reaches 0
makes the lane EXHAUSTED. No other name changes, and nothing else that a `Frame` names. -/
def Obligations.PrepCompletes : Prop :=
  (∀ (s : State) (x : Ext) (srcs : List Src) (dsts : List Code) (w64 : Bool) (m : Mode) (n : Need),
    (∀ r ∈ srcs, ∀ c ∈ srcRegs r, ∀ l ∈ s.actLanes x,
      (s.cell c l).st = .full ∧ ((s.cell c l).cnt = 15 ∨ readsOf srcs c ≤ (s.cell c l).cnt) ∧
        r.req.accepts (s.cell c l).tag = true ∧ ((s.cell c l).poison = false ∨ (m.poisonOk = true ∧ r.pos = 1))) →
    (∀ c ∈ dsts, ∀ l ∈ s.actLanes x, ((s.consume (s.actLanes x) srcs).cell c l).st = .exhausted ∧
      (c.isV = true → ∀ b v, (s.consume (s.actLanes x) srcs).rowOf c (l / 8) = some (b, v) → b = w64)) →
    s.needAll (s.consume (s.actLanes x) srcs) x (s.actLanes x) w64 {} dsts = .ok n → s.canTake n = true →
    ∃ p, s.prep x srcs dsts w64 m = .ok p ∧ p.pre = s ∧ p.lanes = s.actLanes x ∧ p.srcs = srcs) ∧
  (∀ (s : State) (x : Ext) (srcs : List Src) (dsts : List Code) (w64 : Bool) (m : Mode) (p : Prep),
    s.prep x srcs dsts w64 m = .ok p →
    (∀ r ∈ srcs, ∀ c ∈ srcRegs r, ∀ l ∈ s.actLanes x, (s.cell c l).st = .full →
      ((s.cell c l).cnt = 15 → (p.post.cell c l).val = (s.cell c l).val ∧ (p.post.cell c l).cnt = 15 ∧
        (p.post.cell c l).st = .full) ∧
      ((s.cell c l).cnt ≠ 15 → readsOf srcs c = (s.cell c l).cnt → p.post.cell c l = {}) ∧
      ((s.cell c l).cnt ≠ 15 → readsOf srcs c < (s.cell c l).cnt →
        (p.post.cell c l).val = (s.cell c l).val ∧ (p.post.cell c l).st = .full ∧ (p.post.cell c l).tag = (s.cell c l).tag ∧
        (p.post.cell c l).cnt = (s.cell c l).cnt - readsOf srcs c)) ∧
    (∀ k, (∀ r ∈ srcs, ∀ c ∈ srcRegs r, ∀ l ∈ s.actLanes x, k ≠ s.key c l) → p.post.cellK k = s.cellK k) ∧
    Frame s p.post ∧ SamePreds s p.post ∧ SameFlags s p.post ∧ SameDlv s p.post)

/-- OperandChecks: (R37) an instruction that goes on at the following word, where that word has a start bit of 0 or lies
beyond its code object, is not issued: the fault is of cause 0x02 with that word's address. (R6, R9, R68) when source A,
the first that is checked, names a register that is EXHAUSTED, or EMPTY under its trap bit, in some active lane, a
computing form ends in a fault: of cause 0x03 if the lowest such lane is EXHAUSTED (log 1), of cause 0x05 if it is EMPTY;
the lanes recorded are those that failed. (R6, R7, R62) when no lane of source A fails the state check, and the
instruction's reads of that name exceed its remaining count in some active lane, the fault is of cause 0x03; a held count
never fails. (R6, R9, R80) when every active lane of source A passes the state and count checks, and some lane has a tag
that its position does not accept, the fault is of cause 0x06, with the expected and the found tag in its address field.
(R6, R8, R9) a computing form whose sources pass, and whose destination, its own reads counted, still holds a value in
some active lane, ends in a fault of cause 0x04. (R68, R69) when the checks of step 2 and step 3 pass and some active lane
is EMPTY in a source, and the bolt does not split on EMPTY, the swatch waits at the instruction with nothing changed: no
name, no count, no predicate; it stands at the same pc, and keeps its active lanes and the names it reads, none of which
may be EMPTY when it goes on. -/
def Obligations.OperandChecks : Prop :=
  (∀ (i : Instr) (o : Op) (s : State), i.op = some o → (computing o.opc).isSome ∨ (computingLong o.opc).isSome →
    safeCheck s o.opc o.x o.names = .ok () → s.nextBit s.ten s.sw.pc (s.nextPc o.len) = false →
    exec i s = .next (raise s 0x02 (s.nextPc o.len) s.sw.mask)) ∧
  (∀ (i : Instr) (o : Op) (c : Computing) (s : State) (r : Src) (rs : List Src) (n : Code) (l : Nat) (ls : List Nat),
    i.op = some o → computing o.opc = some c → Issues s o false → o.srcs = r :: rs → srcRegs r = [n] →
    (s.actLanes o.x).filter (fun j => (s.cell n j).dead || ((s.cell n j).st == .empty && r.trap)) = l :: ls →
    exec i s = .next (raise s (if (s.cell n l).dead then 0x03 else 0x05) (nameAddr r.pos n) (s.failMask o.x (l :: ls)))) ∧
  (∀ (i : Instr) (o : Op) (c : Computing) (s : State) (r : Src) (rs : List Src) (n : Code) (l : Nat) (ls : List Nat),
    i.op = some o → computing o.opc = some c → Issues s o false → o.srcs = r :: rs → srcRegs r = [n] →
    (∀ j ∈ s.actLanes o.x, (s.cell n j).st = .full) →
    (s.actLanes o.x).filter (fun j => (s.cell n j).cnt != 15 && decide ((s.cell n j).cnt < readsOf o.srcs n)) = l :: ls →
    exec i s = .next (raise s 0x03 (nameAddr r.pos n) (s.failMask o.x (l :: ls)))) ∧
  (∀ (i : Instr) (o : Op) (c : Computing) (s : State) (r : Src) (rs : List Src) (n : Code) (l : Nat) (ls : List Nat),
    i.op = some o → computing o.opc = some c → Issues s o false → o.srcs = r :: rs → srcRegs r = [n] →
    (∀ j ∈ s.actLanes o.x, (s.cell n j).st = .full ∧ ((s.cell n j).cnt = 15 ∨ readsOf o.srcs n ≤ (s.cell n j).cnt)) →
    (s.actLanes o.x).filter (fun j => !r.req.accepts (s.cell n j).tag) = l :: ls →
    ∃ a : Word, exec i s = .next (raise s 0x06 a (s.failMask o.x (l :: ls))) ∧
      a.extractLsb' 16 2 = BitVec.ofNat 2 r.pos ∧ a.extractLsb' 0 10 = n ∧
      a.extractLsb' 24 4 = r.req.tag.code ∧ a.extractLsb' 28 4 = (s.cell n l).tag.code) ∧
  (∀ (i : Instr) (o : Op) (c : Computing) (s : State) (l : Nat),
    i.op = some o → computing o.opc = some c → Issues s o false → l ∈ s.actLanes o.x →
    s.checkSrcs o.x (s.actLanes o.x) (readsOf o.srcs) c.mode.poisonOk o.srcs = .ok () →
    ((s.consume (s.actLanes o.x) o.srcs).cell o.x.dst l).st = .full →
    ∃ ls, l ∈ ls ∧ exec i s = .next (raise s 0x04 (nameAddr 0 o.x.dst) (s.failMask o.x ls))) ∧
  (∀ (i : Instr) (o : Op) (c : Computing) (s : State) (d : Bool),
    i.op = some o → computing o.opc = some c → Issues s o false → s.bolt.splitEmpty = false →
    s.checkSrcs o.x (s.actLanes o.x) (readsOf o.srcs) c.mode.poisonOk o.srcs = .ok () →
    s.checkDsts (s.consume (s.actLanes o.x) o.srcs) o.x (s.actLanes o.x) (c.w64 o.x) [o.x.dst] = .ok d →
    s.emptyLanes (s.actLanes o.x) o.srcs ≠ [] →
    ∃ w : Nat, (w = 2 ∨ w = 3) ∧ exec i s = .next (block (.retry w) (s.modSw (fun v => { v with
      block := some (maskOf (s.actLanes o.x), (o.srcs.flatMap srcRegs).eraseDups) }))))

/-! ### Faults (R37, R373 to R379) -/

/-- FaultsPark: (R373, R376) a fault that the bolt's handler may not take, that meets no vector, or that is raised inside the
handler, parks the swatch at the instruction and posts its record to Goloc; no name, predicate, flag, TRAP register or
byte of memory changes. (R373) a delegable fault that arises in a swatch outside the handler while the bolt's handler runs
is held back: the swatch is parked with its record, and nothing is posted. (R57, R374) the record of a fault carries its
cause and address field, the pc of the instruction, the core, bolt, shuttle and entry, the launch, the time, and the
swatch's stitches, or under R208 the unfinished ones. -/
def Obligations.FaultsPark : Prop :=
  (∀ (s : State) (cause : Nat) (addr : Word) (lanes : Mask),
    (delegable cause = false ∨ s.bolt.trap.deleg.getLsbD cause = false ∨ s.bolt.trap.vec = 0 ∨ s.inSafe = true ∨
      (s.bolt.trap.act = true ∧ s.sw.hand = true)) →
    let t := raise s cause addr lanes
    t.posts = .fault (faultRec s cause addr lanes) :: s.posts ∧ t.sw.st = .parked ∧ t.sw.pc = s.sw.pc ∧
    t.sw.mask = s.sw.mask ∧ t.sw.frec = some (faultRec s cause addr lanes) ∧ t.bolt.trap = s.bolt.trap ∧
    SameNames s t ∧ SamePreds s t ∧ SameFlags s t ∧ SameDlv s t ∧ t.mem = s.mem) ∧
  (∀ (s : State) (cause : Nat) (addr : Word) (lanes : Mask),
    delegable cause = true → s.bolt.trap.deleg.getLsbD cause = true → s.bolt.trap.vec ≠ 0 → s.inSafe = false →
    s.bolt.trap.act = true → s.sw.hand = false →
    let t := raise s cause addr lanes
    t.sw.st = .deferred ∧ t.sw.frec = some (faultRec s cause addr lanes) ∧ t.sw.pc = s.sw.pc ∧ t.posts = s.posts ∧
    t.bolt.trap = s.bolt.trap ∧ SameNames s t) ∧
  (∀ (s : State) (cause : Nat) (addr : Word) (lanes : Mask), let r := faultRec s cause addr lanes
    r.cause = cause ∧ r.addr = addr ∧ r.pc = s.sw.pc ∧ r.core = s.cur.core ∧ r.bolt = s.cur.slot ∧ r.entry = s.cur.ent ∧
    r.shuttle = s.bolt.shuttle ∧ r.launch = s.bolt.launch ∧ r.time = s.hb ∧
    ∀ st < s.bolt.stitches, st < 128 → (r.mask.getLsbD st = true ↔ ∃ l, l / 8 = st ∧
      (if cause = 0x08 ∨ cause = 0x09 ∨ cause = 0x0C then lanes else s.sw.mask).getLsbD l = true))

/-- FaultToHandler (R373, R376, R378): a fault of a cause that may be delegated and is, in a bolt with a vector whose word is
marked as an instruction and with no handler running, moves the swatch into the handler: TRAP.CAUSE holds ACT and the
cause, TRAP.PC, TRAP.ADDR, TRAP.MASK the record's, TRAP.LFAIL the failed lanes; the swatch goes on at TRAP.VEC, ready. No
name, predicate, mask, join record, return entry or flag changes, and no record is posted. If the vector's word is not so
marked, the fault goes to Goloc with cause 0x02, the original cause in the address field. -/
def Obligations.FaultToHandler : Prop :=
  ∀ (s : State) (cause : Nat) (addr : Word) (lanes : Mask),
    delegable cause = true → s.bolt.trap.deleg.getLsbD cause = true → s.bolt.trap.vec ≠ 0 → s.inSafe = false →
    s.bolt.trap.act = false →
    let t := raise s cause addr lanes
    (s.startBit s.ten s.bolt.trap.vec = false →
      t.posts = .fault { faultRec s cause addr lanes with cause := 0x02, addr := BitVec.ofNat 64 cause } :: s.posts ∧
      t.sw.st = .parked ∧ t.sw.pc = s.sw.pc ∧ t.bolt.trap = s.bolt.trap ∧ SameNames s t ∧ SamePreds s t ∧ SameFlags s t ∧
      t.mem = s.mem) ∧
    (s.startBit s.ten s.bolt.trap.vec = true →
    t.bolt.trap.act = true ∧ t.bolt.trap.cause = cause ∧ t.bolt.trap.pc = s.sw.pc ∧ t.bolt.trap.addr = addr ∧
    t.bolt.trap.mask = stitchesOf s.nlanes s.sw.mask ∧ t.bolt.trap.lfail = lanes ∧ t.bolt.trap.vec = s.bolt.trap.vec ∧
    t.bolt.trap.deleg = s.bolt.trap.deleg ∧ t.sw.pc = s.bolt.trap.vec ∧ t.sw.st = .ready ∧ t.sw.mask = s.sw.mask ∧
    SameNames s t ∧ SamePreds s t ∧ SameFlags s t ∧ SameDlv s t ∧ t.bolt.joins = s.bolt.joins ∧ t.bolt.rets = s.bolt.rets ∧
    t.mem = s.mem ∧ t.posts = s.posts)

/-- NeverDelegated (R376): the causes that R376 lists reach no handler, whatever TRAP.DELEG says, and their bits in it are zero
after any write; every other cause below 64, 0x29 of `brk` among them, is delegable: with its bit set and a handler that may be
entered, it goes there. -/
def Obligations.NeverDelegated : Prop :=
  ∀ (s : State) (addr : Word) (lanes : Mask) (c : Nat), c < 64 →
    let kept := [0x07, 0x08, 0x09, 0x0C, 0x11, 0x13, 0x14, 0x15, 0x16, 0x18, 0x19, 0x31, 0x33, 0x36, 0x37]
    (c ∈ kept → (raise s c addr lanes).sw.st = .parked ∧ (raise s c addr lanes).bolt.trap = s.bolt.trap ∧
      ∀ v, (spWrite s 0x011 v).bolt.trap.deleg.getLsbD c = false) ∧
    (c ∉ kept → (∀ v, (spWrite s 0x011 v).bolt.trap.deleg.getLsbD c = v.getLsbD c) ∧
      (s.bolt.trap.deleg.getLsbD c = true → s.bolt.trap.vec ≠ 0 → s.inSafe = false → s.bolt.trap.act = false →
        s.startBit s.ten s.bolt.trap.vec = true → (raise s c addr lanes).sw.pc = s.bolt.trap.vec ∧
          (raise s c addr lanes).bolt.trap.act = true ∧ (raise s c addr lanes).posts = s.posts))

/-- TrapReturns (R379): `trapret` with no active handler raises 0x32 with sub-code 1, and with another join top, join depth or
return top than at delivery, or a lane outside the delivered mask, with sub-code 2. Otherwise it resumes at TRAP.PC, or
with MOD = 1 at the instruction after the one there: if that word starts no instruction it raises 0x02, and else ACT is clear and
the swatch's PC is there. No name, predicate, flag or byte of memory changes. -/
def Obligations.TrapReturns : Prop :=
  ∀ (x : Ext) (s : State), Issues s ⟨0x1E1, x.len, x⟩ true → s.bolt.sw.has s.cur.ent = true → s.actLanes x ≠ [] →
    let tr := s.bolt.trap
    let back := if x.modN = 1 then s.afterInstr s.ten tr.pc else tr.pc
    let same := s.sw.jtop = tr.jtop ∧ s.sw.depth = tr.depth ∧ s.sw.rtop = tr.rtop ∧ s.sw.mask &&& ~~~tr.lanes = 0
    (tr.act = false → exec (.trapret x) s = .next (raise s 0x32 1 s.sw.mask)) ∧
    (tr.act = true → ¬same → exec (.trapret x) s = .next (raise s 0x32 2 s.sw.mask)) ∧
    (tr.act = true → same → s.startBit s.ten back = false → exec (.trapret x) s = .next (raise s 0x02 back s.sw.mask)) ∧
    (tr.act = true → same → s.startBit s.ten back = true →
      ∃ t, exec (.trapret x) s = .next t ∧ t.bolt.trap = { tr with act := false } ∧ t.sw.pc = back ∧ t.sw.mask = s.sw.mask ∧
        SameNames s t ∧ SamePreds s t ∧ SameFlags s t ∧ SameDlv s t ∧ t.mem = s.mem ∧ t.posts = s.posts) ∧
    ∀ w, s.codeWord s.ten tr.pc = some w → s.afterInstr s.ten tr.pc = tr.pc + BitVec.ofNat 64 (4 * wordLen w)

/-! ### Computing forms -/

/-- ComputingFormsComplete: (R6, R9, R54, R83, R84, R90, R107 to R112, R115, R123, R129 to R133, R135) `mov`, `movi`, `retag`,
`cvt`, `cvtfi`, `cvtif`, `pack2`, `unpack`, `quant`, `dequant`, `add`, `sub`, `mul`, `mulhi`, `mad`, `neg`, `abs`, `min`,
`max`, `and`, `or`, `xor`, `not`, `andn`, `shl`, `shr`, `sar`, `rotl`, `popc`, `clz`, `ctz`, `brev`, `bfx`, `bfi`, `lea`,
`dot4`, `fadd`, `fsub`, `fmul`, `fma`, `fmin`, `fmax`, `fclass`, `frnd`, `fscale` and `fdot2`, and the base forms equal to
them, complete when they issue and pass R6: each active lane of the destination is FULL with the form's count, result and
tag; the flags gain what the lanes record; the swatch goes on at the following word; every other name, every predicate,
every pending delivery and all that a `Frame` names stay. (R71, R106, R126, R129, R130, R135) `div`, `rem`, `fdiv`,
`fsqrt`, `frsqrt`, `frcp`, `fexp2` and `flog2`, and the base forms equal to them, complete at once: each active lane of
the destination is EMPTY with the form's count and tag, and a pending delivery for it carries the result and its flags;
the status flags do not change before the delivery. -/
def Obligations.ComputingFormsComplete : Prop :=
  (∀ (i : Instr) (o : Op) (c : Computing) (s : State) (p : Prep),
    i.op = some o → computing o.opc = some c → i.WellFormed → Issues s o false →
    s.prep o.x o.srcs [o.x.dst] (c.w64 o.x) c.mode = .ok p →
    ∃ t, exec i s = .next t ∧ Goes s t (s.nextPc o.len) ∧ SamePreds s t ∧ SameDlv s t ∧
      (∀ l ∈ s.actLanes o.x, t.cell o.x.dst l
        = { st := .full, cnt := o.x.cntN, tag := (p.res o.x c.f l).tag, val := (p.res o.x c.f l).val
            poison := c.mode.poisonOk && p.poisoned l }) ∧
      (∀ k, (∀ l ∈ s.actLanes o.x, k ≠ s.key o.x.dst l) → t.cellK k = p.post.cellK k) ∧
      t.bolt.flags = (s.actLanes o.x).foldl (fun f l => f ||| (p.res o.x c.f l).fl) s.bolt.flags) ∧
  (∀ (i : Instr) (o : Op) (f : LaneFn) (s : State) (p : Prep),
    i.op = some o → computingLong o.opc = some f → i.WellFormed → Issues s o false →
    s.prep o.x o.srcs [o.x.dst] o.x.fmt.is64 = .ok p →
    ∃ t, exec i s = .next t ∧ Goes s t (s.nextPc o.len) ∧ SamePreds s t ∧ SameFlags s t ∧
      (∀ l ∈ s.actLanes o.x, (t.cell o.x.dst l).st = .empty ∧ (t.cell o.x.dst l).cnt = o.x.cntN ∧
        (t.cell o.x.dst l).tag = (p.res o.x f l).tag ∧
        ∃ d ∈ t.dlv, d.id = (t.cell o.x.dst l).pend ∧ d.core = s.cur.core ∧ d.slot = s.cur.slot ∧
          d.key = s.key o.x.dst l ∧ d.bring = .value (p.res o.x f l).val (p.res o.x f l).tag (p.res o.x f l).fl false) ∧
      (∀ k, (∀ l ∈ s.actLanes o.x, k ≠ s.key o.x.dst l) → t.cellK k = p.post.cellK k) ∧
      ∃ ds, t.dlv = s.dlv ++ ds ∧ ds.length = (s.actLanes o.x).length)

/-- IntegerForms: (R123) the integer forms compute exactly, then wrap to the width of their type, or saturate to its bounds;
they record no flag, and the result has the type's tag. (R123, R125) `popc` counts the one bits, `clz` and `ctz` the zeros
above and below them (the width for 0), `brev` reverses the bits; each of the counts is tagged N32. (R124) the amount is
source B's low 32 bits, unsigned; `shl` and `shr` give 0 from the width on, `sar` the sign, and `rotl` rotates by the
amount modulo the width. (R126) the quotient is truncated towards zero, and the remainder takes the sign of the dividend;
a divisor of zero gives a quotient of all ones and the dividend as remainder, and records DZ, which nothing else does;
MinT by −1 gives MinT and 0. -/
def Obligations.IntegerForms : Prop :=
  (∀ (x : Ext) (a b c : Opnd), x.fmt ∈ intTags →
    let t := x.fmt
    let p := Fp.valT t a.val
    let q := Fp.valT t b.val
    let r := Fp.valT t c.val
    let z : Alu.IntOp → Int
      | .add => p + q
      | .sub => p - q
      | .mul => p * q
      | .mulhi => (p * q) / 2 ^ t.width
      | .mad => p * q + r
      | .neg => -p
      | .abs => p.natAbs
      | .min => min p q
      | .max => max p q
    ∀ op, (Alu.int op x a b c).tag = t ∧ (Alu.int op x a b c).fl = 0 ∧
      (x.mod.getLsbD 0 = false → ((Alu.int op x a b c).val.toNat : Int) = z op % 2 ^ t.width) ∧
      (x.mod.getLsbD 0 = true →
        Fp.valT t (Alu.int op x a b c).val = max (Fp.minT t) (min (Fp.maxT t) (z op)))) ∧
  (∀ (x : Ext) (a b c : Opnd), a.val.toNat < 2 ^ x.fmt.width →
    let w := x.fmt.width
    (Alu.popc x a b c).val.toNat = ((List.range w).filter (fun i => a.val.getLsbD i)).length ∧
    (a.val = 0 → (Alu.clz x a b c).val.toNat = w ∧ (Alu.ctz x a b c).val.toNat = w) ∧
    (a.val ≠ 0 → (∃ n < w, (Alu.clz x a b c).val.toNat = w - 1 - n ∧ a.val.getLsbD n = true ∧
        ∀ j, n < j → a.val.getLsbD j = false) ∧
      ∃ n < w, (Alu.ctz x a b c).val.toNat = n ∧ a.val.getLsbD n = true ∧ ∀ j < n, a.val.getLsbD j = false) ∧
    (∀ i < w, (Alu.brev x a b c).val.getLsbD (w - 1 - i) = a.val.getLsbD i) ∧
    (Alu.popc x a b c).tag = .n32 ∧ (Alu.clz x a b c).tag = .n32 ∧ (Alu.ctz x a b c).tag = .n32) ∧
  (∀ (x : Ext) (a b c : Opnd), a.val.toNat < 2 ^ x.fmt.width →
    let w := x.fmt.width
    let n := b.val.toNat % 2 ^ 32
    ((Alu.shl x a b c).val.toNat = if w ≤ n then 0 else a.val.toNat * 2 ^ n % 2 ^ w) ∧
    ((Alu.shr x a b c).val.toNat = if w ≤ n then 0 else a.val.toNat / 2 ^ n) ∧
    (x.fmt ∈ [Tag.s32, Tag.s64] → Fp.valT x.fmt (Alu.sar x a b c).val = Fp.valT x.fmt a.val / 2 ^ (min n w)) ∧
    (∀ j < w, (Alu.rotl x a b c).val.getLsbD ((j + n) % w) = a.val.getLsbD j)) ∧
  (∀ (x : Ext) (a b c : Opnd), x.fmt ∈ intTags →
    let t := x.fmt
    let p := Fp.valT t a.val
    let q := Fp.valT t b.val
    (q = 0 → (Alu.div x a b c).val.toNat = 2 ^ t.width - 1 ∧ Fp.valT t (Alu.rem x a b c).val = p ∧
      (Alu.div x a b c).fl = Fp.DZ ∧ (Alu.rem x a b c).fl = Fp.DZ) ∧
    (q ≠ 0 → (Alu.div x a b c).fl = 0 ∧ (Alu.rem x a b c).fl = 0 ∧ Fp.valT t (Alu.rem x a b c).val = p.tmod q ∧
      ((q ≠ -1 ∨ p ≠ Fp.minT t) → Fp.valT t (Alu.div x a b c).val = p.tdiv q) ∧
      (q = -1 → p = Fp.minT t → Fp.valT t (Alu.div x a b c).val = Fp.minT t ∧ Fp.valT t (Alu.rem x a b c).val = 0)))

/-- BitForms: (R123) `and`, `or`, `xor`, `andn` and `not` compute bit by bit in the width of their type, and every bit above it
is 0. (R124) the result has source A's tag when A is a register and B is none or carries the same tag, and else that of
the raw bits. (R125) `bfx` takes the field of A that the descriptor names, clipped to the width, sign-extended for a signed
type and zero-extended else, and is tagged T; `bfi` puts the low bits of B into that field of A. The descriptor stands in
source C's register or in IMM22. (R128) `lea` adds B's value under T, shifted, to A modulo 2^64, with A's tag; `dot4` adds
the products of the four signed bytes to C exactly, then wraps or saturates, and is tagged S32. None records a flag. -/
def Obligations.BitForms : Prop :=
  (∀ (x : Ext) (a b c : Opnd), let w := x.fmt.width
    let tag := if a.reg = true ∧ (b.reg = false ∨ b.tag = a.tag) then a.tag else if x.fmt.is64 then .bits64 else .bits32
    (∀ op, (Alu.bit op x a b c).tag = tag ∧ (Alu.bit op x a b c).fl = 0) ∧
    ((Alu.not x a {} c).tag = (if a.reg then a.tag else if x.fmt.is64 then .bits64 else .bits32) ∧ (Alu.not x a {} c).fl = 0) ∧
    ∀ i, (Alu.bit .and x a b c).val.getLsbD i = (decide (i < w) && (a.val.getLsbD i && b.val.getLsbD i)) ∧
      (Alu.bit .or x a b c).val.getLsbD i = (decide (i < w) && (a.val.getLsbD i || b.val.getLsbD i)) ∧
      (Alu.bit .xor x a b c).val.getLsbD i = (decide (i < w) && (a.val.getLsbD i != b.val.getLsbD i)) ∧
      (Alu.bit .andn x a b c).val.getLsbD i = (decide (i < w) && (a.val.getLsbD i && !b.val.getLsbD i)) ∧
      (Alu.not x a b c).val.getLsbD i = (decide (i < w) && !a.val.getLsbD i)) ∧
  (∀ (x : Ext) (a b c : Opnd), let w := x.fmt.width
    let pos := if x.c ≠ 0 then c.val.toNat % 256 else x.immF 0 6
    let len := if x.c ≠ 0 then c.val.toNat / 256 % 256 else x.immF 6 7
    let p := min pos w
    let n := min len (w - p)
    ((Alu.bfx x a b c).tag = x.fmt ∧ (Alu.bfx x a b c).fl = 0 ∧ (Alu.bfi x a b c).fl = 0) ∧
    (Alu.bfi x a b c).tag
      = (if a.reg = true ∧ (b.reg = false ∨ b.tag = a.tag) then a.tag else if x.fmt.is64 then .bits64 else .bits32) ∧
    ∀ i, (Alu.bfx x a b c).val.getLsbD i = (decide (i < w) && (if i < n then a.val.getLsbD (p + i)
        else x.fmt.isSigned && decide (n ≠ 0) && a.val.getLsbD (p + n - 1))) ∧
      (Alu.bfi x a b c).val.getLsbD i
        = (decide (i < w) && (if p ≤ i ∧ i < p + n then b.val.getLsbD (i - p) else a.val.getLsbD i))) ∧
  (∀ (x : Ext) (a b c : Opnd),
    let e (v : Word) (i : Nat) : Int := (v.extractLsb' (8 * i) 8).toInt
    let z : Int := (c.val.setWidth 32).toInt + e a.val 0 * e b.val 0 + e a.val 1 * e b.val 1 + e a.val 2 * e b.val 2
      + e a.val 3 * e b.val 3
    ((Alu.lea x a b c).val.toNat : Int) = ((a.val.toNat : Int) + Fp.valT x.fmt b.val * 2 ^ x.immF 0 3) % 2 ^ 64 ∧
    (a.reg = true → (Alu.lea x a b c).tag = a.tag) ∧ (Alu.lea x a b c).fl = 0 ∧
    (Alu.dot4 x a b c).tag = .s32 ∧ (Alu.dot4 x a b c).fl = 0 ∧
    (x.mod.getLsbD 0 = false → ((Alu.dot4 x a b c).val.toNat : Int) = z % 2 ^ 32) ∧
    (x.mod.getLsbD 0 = true → Fp.valT .s32 (Alu.dot4 x a b c).val = max (-2 ^ 31) (min (2 ^ 31 - 1) z)))

/-- FloatFacts: (R102) a value that a format can represent is returned unchanged in every mode, saturating or not, and no flag
is recorded. (R131) if exactly one operand is a NaN, `fmin` and `fmax` return the other; the lesser and the greater of two
numbers are one of the two, and record no flag. -/
def Obligations.FloatFacts : Prop :=
  (∀ (f : Fp.Fmt) (rnd : Rnd) (sat : Bool) (b : Nat), f ∈ [Fp.f64, Fp.f32, Fp.f16, Fp.bf16, Fp.e4m3, Fp.e5m2, Fp.e2m1] →
    b < 2 ^ f.bits → (∃ neg m e, f.decode b = .fin neg m e) → Fp.round f rnd sat (f.decode b) = (b, 0)) ∧
  (∀ (big : Bool) (f : Fp.Fmt) (x y : Nat),
    ((f.decode x).isNan = true → (f.decode y).isNan = false → (Fp.minmax big f x y).1 = y) ∧
    ((f.decode x).isNan = false → (f.decode y).isNan = true → (Fp.minmax big f x y).1 = x) ∧
    ((f.decode x).isNan = false → (f.decode y).isNan = false →
      ((Fp.minmax big f x y).1 = x ∨ (Fp.minmax big f x y).1 = y) ∧ (Fp.minmax big f x y).2 = 0) ∧
    (((f.decode x).isSnan || (f.decode y).isSnan) = true → (Fp.minmax big f x y).2 = Fp.NV))

/-! ### Names, predicates and lane exchange -/

/-- NameFormsComplete: (R7, R71, R85) `drop` of one, two or three names, in its extended and base forms, completes when each
listed name is in use in every active lane with as many reads left as it is listed, or held; a held lane ends at one
`drop`, and any other loses a read for each listing. A lane that reaches 0 becomes EXHAUSTED, or discarding when a
delivery is pending. No other name changes. (R71, R85) `exhaust` ends every active lane of its name whatever its count, to
EXHAUSTED, or to discarding when a delivery is pending, and leaves a lane that is not in use as it is; it never faults on
a state. (R62, R86) `hold` makes every active lane of its names held; `recount` sets a count, and `recount.add` raises one
that is not held by CNT, to at most 14. Values and tags stay. -/
def Obligations.NameFormsComplete : Prop :=
  (∀ (i : Instr) (o : Op) (s : State), i.op = some o → o.opc = 0x002 → i.WellFormed → Issues s o false →
    let cs := [o.x.a, o.x.b, o.x.c].take (o.x.modN + 1)
    (∀ c ∈ cs, ∀ l ∈ s.actLanes o.x, (s.cell c l).dead = false ∧ ((s.cell c l).cnt = 15 ∨ cs.count c ≤ (s.cell c l).cnt)) →
    ∃ t, exec i s = .next t ∧ Goes s t (s.nextPc o.len) ∧ SamePreds s t ∧ SameFlags s t ∧ SameDlv s t ∧
      (∀ c ∈ cs, ∀ l ∈ s.actLanes o.x, t.cell c l
        = if (s.cell c l).cnt = 15 ∨ (s.cell c l).cnt = cs.count c then
            (if (s.cell c l).st = .full then {} else { s.cell c l with st := .discarding, cnt := 0 })
          else { s.cell c l with cnt := (s.cell c l).cnt - cs.count c }) ∧
      ∀ k, (∀ c ∈ cs, ∀ l ∈ s.actLanes o.x, k ≠ s.key c l) → t.cellK k = s.cellK k) ∧
  (∀ (i : Instr) (o : Op) (s : State), i.op = some o → o.opc = 0x003 → i.WellFormed → Issues s o false →
    ∃ t, exec i s = .next t ∧ Goes s t (s.nextPc o.len) ∧ SamePreds s t ∧ SameFlags s t ∧ SameDlv s t ∧
      (∀ l ∈ s.actLanes o.x, ((s.cell o.x.a l).st = .full ∨ (s.cell o.x.a l).st = .exhausted → t.cell o.x.a l = {}) ∧
        ((s.cell o.x.a l).st = .empty → t.cell o.x.a l = { s.cell o.x.a l with st := .discarding, cnt := 0 }) ∧
        ((s.cell o.x.a l).st = .discarding → t.cell o.x.a l = s.cell o.x.a l)) ∧
      ∀ k, (∀ l ∈ s.actLanes o.x, k ≠ s.key o.x.a l) → t.cellK k = s.cellK k) ∧
  (∀ (x : Ext) (s : State),
    ((Instr.hold x).WellFormed → Issues s ⟨0x004, x.len, x⟩ false →
      let cs := [x.a, x.b, x.c].take (x.modN + 1)
      (∀ c ∈ cs, ∀ l ∈ s.actLanes x, (s.cell c l).dead = false) →
      ∃ t, exec (.hold x) s = .next t ∧ Goes s t (s.nextPc x.len) ∧ SamePreds s t ∧ SameFlags s t ∧ SameDlv s t ∧
        (∀ c ∈ cs, ∀ l ∈ s.actLanes x, t.cell c l = { s.cell c l with cnt := 15 }) ∧
        ∀ k, (∀ c ∈ cs, ∀ l ∈ s.actLanes x, k ≠ s.key c l) → t.cellK k = s.cellK k) ∧
    ((Instr.recount x).WellFormed → Issues s ⟨0x005, x.len, x⟩ false →
      (∀ l ∈ s.actLanes x, (s.cell x.dst l).dead = false ∧
        (x.modN = 1 → (s.cell x.dst l).cnt = 15 ∨ (s.cell x.dst l).cnt + x.cntN ≤ 14)) →
      ∃ t, exec (.recount x) s = .next t ∧ Goes s t (s.nextPc x.len) ∧ SamePreds s t ∧ SameFlags s t ∧ SameDlv s t ∧
        (∀ l ∈ s.actLanes x, t.cell x.dst l = { s.cell x.dst l with cnt :=
          if x.modN = 0 then x.cntN else if (s.cell x.dst l).cnt = 15 then 15 else (s.cell x.dst l).cnt + x.cntN }) ∧
        ∀ k, (∀ l ∈ s.actLanes x, k ≠ s.key x.dst l) → t.cellK k = s.cellK k))

/-- SelNstatReserveComplete: (R88, R89) `sel` writes in each active lane the value of A where the selector is true and of B
where it is false, with a register's own tag, and reads both; `nstat` writes an N32 value with its source's count, state
and tag, with W64 set if the lane's row is 64-bit, and makes no read; that of a group-wide name, which has no row, says that its
tag is 64-bit (the model's choice: log 125). (R78, R91) on the group side `reserve u` sets the bolt's reserved group entries to `u`,
on the lane side its reserved rows to `u` in every stitch, when the peaks admit it and the pools have what it adds; no
name changes. -/
def Obligations.SelNstatReserveComplete : Prop :=
  (∀ (x : Ext) (s : State) (p : Prep),
    ((Instr.sel x).WellFormed → Issues s ⟨0x008, x.len, x⟩ false →
      s.prep x (srcsOf 0x008 x) [x.dst] x.fmt.is64 = .ok p →
      ∃ t, exec (.sel x) s = .next t ∧ Goes s t (s.nextPc x.len) ∧ SamePreds s t ∧ SameFlags s t ∧ SameDlv s t ∧
        (∀ l ∈ s.actLanes x,
          let b := (if x.g then s.qBit (x.immF 0 3) else (s.kMask (x.immF 0 3)).getLsbD l) != x.imm.getLsbD 3
          let o := p.opnd (if b then 1 else 2) l
          (t.cell x.dst l).st = .full ∧ (t.cell x.dst l).cnt = x.cntN ∧ (t.cell x.dst l).val = o.val ∧
          (o.reg = true → (t.cell x.dst l).tag = o.tag)) ∧
        ∀ k, (∀ l ∈ s.actLanes x, k ≠ s.key x.dst l) → t.cellK k = p.post.cellK k) ∧
    ((Instr.nstat x).WellFormed → Issues s ⟨0x007, x.len, x⟩ false → s.prep x [] [x.dst] false = .ok p →
      (∀ l ∈ s.actLanes x, (s.cell x.a l).cnt < 16) →
      ∃ t, exec (.nstat x) s = .next t ∧ Goes s t (s.nextPc x.len) ∧ SamePreds s t ∧ SameFlags s t ∧ SameDlv s t ∧
        (∀ l ∈ s.actLanes x,
          let e := s.cell x.a l
          let v := (t.cell x.dst l).val
          (t.cell x.dst l).st = .full ∧ (t.cell x.dst l).cnt = x.cntN ∧ (t.cell x.dst l).tag = .n32 ∧
          v.toNat < 2 ^ 13 ∧ v.extractLsb' 0 4 = (if e.dead then 0 else BitVec.ofNat 4 e.cnt) ∧
          v.extractLsb' 4 2 = (if e.st = .full then 2 else if e.st = .empty then 1 else 0) ∧ v.extractLsb' 6 2 = 0 ∧
          v.extractLsb' 8 4 = (if e.dead then 0 else e.tag.code) ∧
          (v.getLsbD 12 = true ↔ if x.a.isV = true then ∃ live, s.rowOf x.a (l / 8) = some (true, live)
            else e.dead = false ∧ e.tag.is64 = true)) ∧
        ∀ k, (∀ l ∈ s.actLanes x, k ≠ s.key x.dst l) → t.cellK k = s.cellK k)) ∧
  (∀ (x : Ext) (s : State), (Instr.reserve x).WellFormed → Issues s ⟨0x00A, x.len, x⟩ false → s.actLanes x ≠ [] →
    let u := x.immF 0 8
    (x.g = true → s.bolt.gents - s.bolt.gresv + u ≤ s.bolt.gpeak → u - s.bolt.gresv ≤ s.poolGroup →
      ∃ t, exec (.reserve x) s = .next t ∧ Goes s t (s.nextPc x.len) ∧ SameNames s t ∧ SamePreds s t ∧ SameFlags s t ∧
        SameDlv s t ∧ t.bolt.gresv = u ∧ t.bolt.resv = s.bolt.resv) ∧
    (x.g = false → (∀ st < s.bolt.stitches, s.bolt.rowsIn st + u ≤ s.bolt.peak) →
      (List.range s.bolt.stitches).foldl (fun a st => a + (u - s.bolt.resv.getD st 0)) 0 ≤ s.poolRows →
      ∃ t, exec (.reserve x) s = .next t ∧ Goes s t (s.nextPc x.len) ∧ SameNames s t ∧ SamePreds s t ∧ SameFlags s t ∧
        SameDlv s t ∧ (∀ st < s.bolt.stitches, t.bolt.resv.getD st 0 = u) ∧ t.bolt.gresv = s.bolt.gresv))

/-- RebindCompletes (R87): `rebind d, a`, with `a` in use and `d` EXHAUSTED in every active lane, in rows of one width, and with
the rows that its moves take to be had, gives each active lane of `d` exactly what that lane of `a` had, leaves `a`
EXHAUSTED there, and turns a pending delivery to `d`. -/
def Obligations.RebindCompletes : Prop :=
  ∀ (x : Ext) (s : State) (n : Need), (Instr.rebind x).WellFormed → Issues s ⟨0x006, x.len, x⟩ false →
    let ls := s.actLanes x
    let mv := ls.filter (fun l => x.dst.isV && !relabels s x ls (l / 8))
    (∀ l ∈ ls, (s.cell x.a l).dead = false ∧ (s.cell x.dst l).st = .exhausted ∧
      (x.dst.isV = true → ∀ b v, s.rowOf x.dst (l / 8) = some (b, v) → b = (s.cell x.a l).tag.is64)) →
    rebindNeed s x (mv.filter (fun l => !(s.cell x.a l).tag.is64)) (mv.filter (fun l => (s.cell x.a l).tag.is64)) = .ok n →
    s.canTake n = true →
    ∃ t, exec (.rebind x) s = .next t ∧ Goes s t (s.nextPc x.len) ∧ SamePreds s t ∧ SameFlags s t ∧
      (∀ l ∈ ls, t.cell x.dst l = s.cell x.a l ∧ t.cell x.a l = {}) ∧
      (∀ k, (∀ l ∈ ls, k ≠ s.key x.dst l ∧ k ≠ s.key x.a l) → t.cellK k = s.cellK k) ∧
      t.dlv.map Delivery.id = s.dlv.map Delivery.id ∧
      ∀ l ∈ ls, (s.cell x.a l).st = .empty → (∀ j ∈ ls, j ≠ l → (s.cell x.a j).pend ≠ (s.cell x.a l).pend) →
        ∀ d ∈ t.dlv, d.id = (s.cell x.a l).pend → d.key = s.key x.dst l

/-- ComparesAndVotesComplete: (R123, R127, R132) `cmp` and `fcmp` write no name: each active lane of kD receives the condition
on its values, combined with the old bit by and or or under MOD; on the group side qD does. Other lanes and predicates
stay. `fcmp` is false when an operand is a NaN but for `ne` and `un`, which are true, and on numbers compares them; it
records NV if an operand of some lane is a signalling NaN, and else no flag. (R5, R139, R141)
`vote.all`, `.any` and `.uni` write one result, kD in the active lanes or qD once, which over no lane is 1, 0 and 1;
`vote.ballot` writes each active lane the bits of its 32 lanes; `elect` sets kD in the lowest active lane alone; `kop`
applies its truth table. The other lanes and predicates stay, and no name changes but `ballot`'s. -/
def Obligations.ComparesAndVotesComplete : Prop :=
  (∀ (i : Instr) (x : Ext) (opc : Nat) (s : State) (p : Prep),
    (i = .cmp x ∧ opc = 0x07A) ∨ (i = .fcmp x ∧ opc = 0x0C6) → i.WellFormed → Issues s ⟨opc, x.len, x⟩ false →
    s.prep x (srcsOf opc x) [] false = .ok p →
    let d := x.immF 0 3
    let num (pos l : Nat) : Fp.Num := (Fp.ofTag x.fmt).decode (Fp.elemRaw x.fmt (p.opnd pos l).val 0)
    let r (l : Nat) : Bool := if opc = 0x07A then
        (let a := Fp.valT x.fmt (p.opnd 1 l).val
         let b := Fp.valT x.fmt (p.opnd 2 l).val
         match x.immF 3 3 with
         | 0 => decide (a = b) | 1 => decide (a ≠ b) | 2 => decide (a < b) | 3 => decide (a ≤ b) | 4 => decide (b < a)
         | _ => decide (b ≤ a))
      else (let a := num 1 l
        let b := num 2 l
        if a.isNan || b.isNan then x.immF 3 3 == 1 || x.immF 3 3 == 6
        else match x.immF 3 3 with
          | 0 => Fp.eqNum a b | 1 => !Fp.eqNum a b | 2 => Fp.ltNum a b | 3 => !Fp.ltNum b a | 4 => Fp.ltNum b a
          | 5 => !Fp.ltNum a b | 6 => false | _ => true)
    let mix (old new : Bool) : Bool := match x.modN with | 1 => old && new | 2 => old || new | _ => new
    ∃ t, exec i s = .next t ∧ Goes s t (s.nextPc x.len) ∧ SameDlv s t ∧ (∀ k, t.cellK k = p.post.cellK k) ∧
      (opc = 0x07A → SameFlags s t) ∧
      (opc = 0x0C6 → (∃ l ∈ s.actLanes x, (num 1 l).isSnan = true ∨ (num 2 l).isSnan = true) →
        t.bolt.flags = s.bolt.flags ||| Fp.NV) ∧
      (opc = 0x0C6 → (∀ l ∈ s.actLanes x, (num 1 l).isSnan = false ∧ (num 2 l).isSnan = false) → SameFlags s t) ∧
      (x.g = false → (∀ l ∈ s.actLanes x, (t.kMask d).getLsbD l = mix ((s.kMask d).getLsbD l) (r l)) ∧
        (∀ l, l ∉ s.actLanes x → (t.kMask d).getLsbD l = (s.kMask d).getLsbD l) ∧
        (∀ j, j ≠ d → t.kMask j = s.kMask j) ∧ ∀ j, t.qBit j = s.qBit j) ∧
      (x.g = true → (s.gActive x = true → t.qBit d = mix (s.qBit d) (r 0)) ∧ (s.gActive x = false → t.qBit d = s.qBit d) ∧
        (∀ j < 8, j ≠ d → t.qBit j = s.qBit j) ∧ ∀ j, t.kMask j = s.kMask j)) ∧
  (∀ (x : Ext) (s : State) (p : Prep),
    let ls := s.actLanes x
    let b (l : Nat) : Bool := (s.kMask (x.immF 0 3)).getLsbD l != x.imm.getLsbD 3
    ((Instr.vote x).WellFormed → Issues s ⟨0x122, x.len, x⟩ false → x.modN ≠ 3 →
      let v : Bool := if x.modN = 0 then decide (∀ l ∈ ls, b l = true) else if x.modN = 1 then decide (∃ l ∈ ls, b l = true)
        else decide (∀ l ∈ ls, b l = true) || decide (∀ l ∈ ls, b l = false)
      ∃ t, exec (.vote x) s = .next t ∧ Goes s t (s.nextPc x.len) ∧ SameNames s t ∧ SameFlags s t ∧ SameDlv s t ∧
        (x.imm.getLsbD 7 = true → t.qBit (x.immF 4 3) = v ∧ (∀ j < 8, j ≠ x.immF 4 3 → t.qBit j = s.qBit j) ∧
          ∀ j, t.kMask j = s.kMask j) ∧
        (x.imm.getLsbD 7 = false → (∀ l ∈ ls, (t.kMask (x.immF 4 3)).getLsbD l = v) ∧
          (∀ l, l ∉ ls → (t.kMask (x.immF 4 3)).getLsbD l = (s.kMask (x.immF 4 3)).getLsbD l) ∧
          (∀ j, j ≠ x.immF 4 3 → t.kMask j = s.kMask j) ∧ ∀ j, t.qBit j = s.qBit j)) ∧
    ((Instr.vote x).WellFormed → Issues s ⟨0x122, x.len, x⟩ false → x.modN = 3 →
      s.prep x [] [x.dst] false swapLanes = .ok p →
      ∃ t, exec (.vote x) s = .next t ∧ Goes s t (s.nextPc x.len) ∧ SamePreds s t ∧ SameFlags s t ∧ SameDlv s t ∧
        (∀ l ∈ ls, (t.cell x.dst l).st = .full ∧ (t.cell x.dst l).cnt = x.cntN ∧ (t.cell x.dst l).tag = .n32 ∧
          (t.cell x.dst l).val.toNat < 2 ^ 32 ∧
          ∀ j < 32, (t.cell x.dst l).val.getLsbD j = (ls.contains (l / 32 * 32 + j) && b (l / 32 * 32 + j))) ∧
        ∀ k, (∀ l ∈ ls, k ≠ s.key x.dst l) → t.cellK k = p.post.cellK k) ∧
    ((Instr.elect x).WellFormed → Issues s ⟨0x123, x.len, x⟩ false →
      ∃ t, exec (.elect x) s = .next t ∧ Goes s t (s.nextPc x.len) ∧ SameNames s t ∧ SameFlags s t ∧ SameDlv s t ∧
        (∀ l ∈ ls, (t.kMask (x.immF 4 3)).getLsbD l = decide (∀ j ∈ ls, l ≤ j)) ∧
        (∀ l, l ∉ ls → (t.kMask (x.immF 4 3)).getLsbD l = (s.kMask (x.immF 4 3)).getLsbD l) ∧
        (∀ j, j ≠ x.immF 4 3 → t.kMask j = s.kMask j) ∧ ∀ j, t.qBit j = s.qBit j) ∧
    ((Instr.kop x).WellFormed → Issues s ⟨0x126, x.len, x⟩ false →
      let tt (a c : Bool) : Bool := x.imm.getLsbD (9 + (2 * a.toNat + c.toNat))
      ∃ t, exec (.kop x) s = .next t ∧ Goes s t (s.nextPc x.len) ∧ SameNames s t ∧ SameFlags s t ∧ SameDlv s t ∧
        (x.g = false → (∀ l ∈ ls, (t.kMask (x.immF 0 3)).getLsbD l
            = tt ((s.kMask (x.immF 3 3)).getLsbD l) ((s.kMask (x.immF 6 3)).getLsbD l)) ∧
          (∀ l, l ∉ ls → (t.kMask (x.immF 0 3)).getLsbD l = (s.kMask (x.immF 0 3)).getLsbD l) ∧
          (∀ j, j ≠ x.immF 0 3 → t.kMask j = s.kMask j) ∧ ∀ j, t.qBit j = s.qBit j) ∧
        (x.g = true → (s.gActive x = true → t.qBit (x.immF 0 3) = tt (s.qBit (x.immF 3 3)) (s.qBit (x.immF 6 3))) ∧
          (s.gActive x = false → SamePreds s t) ∧ (∀ j < 8, j ≠ x.immF 0 3 → t.qBit j = s.qBit j) ∧
          ∀ j, t.kMask j = s.kMask j)))

/-- LaneExchangeCompletes (R136 to R138, R140): `shfl` gives each active lane the value and tag of the lane of its segment that the
mode names, or its own where that lane is no active one, and kP whether it was; `lbcast` gives every active lane (a g
destination once) the value and tag of the segment's source lane; `scan` and `lred` combine the active lanes of the segment
in ascending order. All read before any is written; other names stay as the reads leave them, other lanes' predicates as they
were. -/
def Obligations.LaneExchangeCompletes : Prop :=
  ∀ (x : Ext) (s : State) (p : Prep),
    let ls := s.actLanes x
    let w := 2 ^ x.immF 0 4
    let others (t : State) : Prop := ∀ k, (∀ l ∈ ls, k ≠ s.key x.dst l) → t.cellK k = p.post.cellK k
    ((Instr.shfl x).WellFormed → Issues s ⟨0x120, x.len, x⟩ false →
      s.prep x (srcsOf 0x120 x) [x.dst] x.fmt.is64 swapLanes = .ok p →
      let n (l : Nat) : Nat := (p.opnd 2 l).val.toNat
      let m (l : Nat) : Int := match x.modN with
        | 0 => ((n l % w : Nat) : Int) | 1 => (l % w : Nat) - (n l : Int) | 2 => (l % w : Nat) + (n l : Int)
        | _ => (((l % w) ^^^ (n l % w) : Nat) : Int)
      let from_ (l : Nat) : Nat := l - l % w + (m l).toNat
      let ok (l : Nat) : Bool := decide (0 ≤ m l ∧ m l < w) && ls.contains (from_ l)
      ∃ t, exec (.shfl x) s = .next t ∧ Goes s t (s.nextPc x.len) ∧ SameFlags s t ∧ SameDlv s t ∧
        (∀ l ∈ ls,
          let q := if ok l then from_ l else l
          (t.cell x.dst l).st = .full ∧ (t.cell x.dst l).cnt = x.cntN ∧ (t.cell x.dst l).val = (p.opnd 1 q).val ∧
          ((p.opnd 1 q).reg = true → (t.cell x.dst l).tag = (p.opnd 1 q).tag) ∧
          (x.immF 4 3 ≠ 0 → (t.kMask (x.immF 4 3)).getLsbD l = ok l)) ∧ others t ∧
        (∀ j, t.qBit j = s.qBit j) ∧ (∀ j, j ≠ x.immF 4 3 ∨ x.immF 4 3 = 0 → t.kMask j = s.kMask j) ∧
        ∀ l, l ∉ ls → (t.kMask (x.immF 4 3)).getLsbD l = (s.kMask (x.immF 4 3)).getLsbD l) ∧
    ((Instr.lbcast x).WellFormed → Issues s ⟨0x121, x.len, x⟩ false →
      s.prep x (srcsOf 0x121 x) [x.dst] x.fmt.is64 swapLanes = .ok p →
      let src (l : Nat) : Nat := if x.dst.isG then (p.opnd 2 l).val.toNat % 1024 else l - l % w + (p.opnd 2 l).val.toNat % w
      (∀ l ∈ ls, src l ∈ ls) →
      ∃ t, exec (.lbcast x) s = .next t ∧ Goes s t (s.nextPc x.len) ∧ SamePreds s t ∧ SameFlags s t ∧ SameDlv s t ∧
        (∀ l ∈ ls, (t.cell x.dst l).st = .full ∧ (t.cell x.dst l).cnt = x.cntN ∧
          (t.cell x.dst l).val = (p.opnd 1 (src l)).val ∧
          ((p.opnd 1 (src l)).reg = true → (t.cell x.dst l).tag = (p.opnd 1 (src l)).tag)) ∧ others t) ∧
    ((Instr.scan x).WellFormed → Issues s ⟨0x124, x.len, x⟩ false →
      s.prep x (srcsOf 0x124 x) [x.dst] x.fmt.is64 swapLanes = .ok p →
      ∃ t, exec (.scan x) s = .next t ∧ Goes s t (s.nextPc x.len) ∧ SamePreds s t ∧ SameDlv s t ∧ others t ∧
        ∀ l ∈ ls,
          let us := (ls.filter (fun j => j / w == l / w && (j < l || (j == l && !x.mod.getLsbD 0)))).map
            (fun j => (p.opnd 1 j).val)
          (t.cell x.dst l).st = .full ∧ (t.cell x.dst l).cnt = x.cntN ∧ (t.cell x.dst l).tag = x.fmt ∧
          (t.cell x.dst l).val = (Alu.reduce (x.immF 4 4) x.fmt x.rnd us).1) ∧
    ((Instr.lred x).WellFormed → Issues s ⟨0x125, x.len, x⟩ false →
      s.prep x (srcsOf 0x125 x) [x.dst] x.fmt.is64 swapLanes = .ok p →
      ∃ t, exec (.lred x) s = .next t ∧ Goes s t (s.nextPc x.len) ∧ SamePreds s t ∧ SameDlv s t ∧ others t ∧
        ∀ l ∈ ls,
          let us := (ls.filter (fun j => x.dst.isG || j / w == l / w)).map (fun j => (p.opnd 1 j).val)
          (t.cell x.dst l).st = .full ∧ (t.cell x.dst l).cnt = x.cntN ∧ (t.cell x.dst l).tag = x.fmt ∧
          (t.cell x.dst l).val = (Alu.reduce (x.immF 4 4) x.fmt x.rnd us).1)

/-- BlockFormsComplete (R98, R106, R110, R113, R114, R117): `bscale` writes each active lane the scale byte of its 16-lane group
four times, and records no flag (the model's choice: log 66); `pbdec` decodes weights by the pattern store as the form finds it; `pbenc` is on X, its lanes EMPTY with the
best codeword to be delivered, or on the group side, where the codeword is there at once. -/
def Obligations.BlockFormsComplete : Prop :=
  ∀ (x : Ext) (s : State) (p : Prep),
    let ls := s.actLanes x
    ((Instr.bscale x).WellFormed → Issues s ⟨0x035, x.len, x⟩ false →
      s.prep x (srcsOf 0x035 x) [x.dst] false { split := false } = .ok p →
      ∃ t, exec (.bscale x) s = .next t ∧ Goes s t (s.nextPc x.len) ∧ SamePreds s t ∧ SameFlags s t ∧ SameDlv s t ∧
        ∀ l ∈ ls,
          let vs := (ls.filter (fun j => j / 16 == l / 16)).flatMap (fun j =>
            Fp.elemList x.srcTag (p.opnd 1 j).val ++ Fp.elemList x.srcTag (p.opnd 2 j).val)
          (t.cell x.dst l).st = .full ∧ (t.cell x.dst l).cnt = x.cntN ∧ (t.cell x.dst l).tag = .sc8x4 ∧
          ∀ j < 4, Fp.elemRaw .sc8x4 (t.cell x.dst l).val j = Fp.bscaleByte x.fmt vs) ∧
    ((Instr.pbdec x).WellFormed → Issues s ⟨0x038, x.len, x⟩ false → psPrep 0x038 x s = .ok p →
      ∃ t, exec (.pbdec x) s = .next t ∧ Goes s t (s.nextPc x.len) ∧ SamePreds s t ∧ SameDlv s t ∧
        ∀ l ∈ ls, (t.cell x.dst l).st = .full ∧ (t.cell x.dst l).cnt = x.cntN ∧ (t.cell x.dst l).tag = x.fmt ∧
          (t.cell x.dst l).val = (Fp.pbdec s.cc.leader x.fmt x.rnd (x.mod.getLsbD 0) (x.immF 8 3) (p.opnd 1 l).val
            (Fp.elemRaw .sc8x4 (p.opnd 2 l).val (x.immF 6 2))).1) ∧
    ((Instr.pbenc x).WellFormed → Issues s ⟨0x039, x.len, x⟩ false → psPrep 0x039 x s = .ok p →
      ∃ t, exec (.pbenc x) s = .next t ∧ Goes s t (s.nextPc x.len) ∧ SamePreds s t ∧ SameFlags s t ∧
        (x.g = true → SameDlv s t ∧ ∀ l ∈ ls, (t.cell x.dst l).st = .full ∧ (t.cell x.dst l).cnt = x.cntN ∧
          (t.cell x.dst l).tag = x.fmt ∧
          (x.fmt = .n32 → (t.cell x.dst l).val.toNat = Fp.pbenc s.cc.leader (p.opnd 1 l).val (p.opnd 2 l).val)) ∧
        (x.g = false → ∀ l ∈ ls, (t.cell x.dst l).st = .empty ∧ (t.cell x.dst l).cnt = x.cntN ∧ (t.cell x.dst l).tag = x.fmt ∧
          ∃ d ∈ t.dlv, d.id = (t.cell x.dst l).pend ∧ d.key = s.key x.dst l ∧ d.slot = s.cur.slot ∧
            ∃ v fl, d.bring = .value v x.fmt fl false ∧
              (x.fmt = .n32 → v.toNat = Fp.pbenc s.cc.leader (p.opnd 1 l).val (p.opnd 2 l).val)))

/-! ### Control flow -/

/-- BranchesComplete: (R37, R151, R166) `bra` sends the lanes whose predicate is true (on the group side the whole swatch) to
its target, and `brx` sends each active lane to the target it reads; the others go on at the following word. Every lane of
the swatch stands ready where it was sent, when each target that some lane takes starts an instruction and a split finds
its entries. `bra` changes nothing else; `brx` reads its source. (R8, R171) `loop` reads its counter and lowers it by one,
modulo its width: while the result is not 0 it is written, with the count and type of the form, and the swatch goes to the
target; at 0 nothing is written and the swatch goes on at the following word. -/
def Obligations.BranchesComplete : Prop :=
  (∀ (x : Ext) (s : State), s.bolt.sw.has s.cur.ent = true → s.sw.st = .ready →
    ((Instr.bra x).WellFormed → Issues s ⟨0x140, x.len, x⟩ true →
      let taken : Mask := if x.g then (if s.gActive x then s.swLanes else 0) else s.active x
      let stay := s.swLanes &&& ~~~taken
      (taken = 0 ∨ s.startBit s.ten (target s x) = true) → (stay = 0 ∨ s.nextBit s.ten s.sw.pc (s.nextPc x.len) = true) →
      (taken = 0 ∨ stay = 0 ∨ (s.canSplit 1 = true ∧ s.inSafe = false)) → s.swLanes ≠ 0 →
      ∃ t, exec (.bra x) s = .next t ∧ OnlyMoves s t ∧
        (∀ l, taken.getLsbD l = true → LaneAt t l (target s x)) ∧
        ∀ l, stay.getLsbD l = true → LaneAt t l (s.nextPc x.len)) ∧
    ((Instr.brx x).WellFormed → Issues s ⟨0x141, x.len, x⟩ true → ∀ p, s.prep x (srcsOf 0x141 x) [] false = .ok p →
      let stay := s.swLanes &&& ~~~(maskOf (s.actLanes x))
      let tgt (l : Nat) : Word := (p.opnd 1 l).val
      (∀ l ∈ s.actLanes x, winOf (tgt l) = 0 ∧ s.startBit s.ten (tgt l) = true) →
      (stay = 0 ∨ s.nextBit s.ten s.sw.pc (s.nextPc x.len) = true) →
      (∀ n, n + 1 = ((s.actLanes x).map tgt).eraseDups.length + (if stay = 0 then 0 else 1) → n = 0 ∨ s.canSplit n = true) →
      ∃ t, exec (.brx x) s = .next t ∧ Outside s t ∧ t.bolt.still = s.bolt.still ∧ (∀ k, t.cellK k = p.post.cellK k) ∧
        t.bolt.k = s.bolt.k ∧ t.bolt.q = s.bolt.q ∧ SameFlags s t ∧ SameDlv s t ∧
        (∀ l ∈ s.actLanes x, LaneAt t l (tgt l)) ∧ ∀ l, stay.getLsbD l = true → LaneAt t l (s.nextPc x.len))) ∧
  (∀ (x : Ext) (s : State) (p : Prep), (Instr.loop x).WellFormed → Issues s ⟨0x149, x.len, x⟩ true → x.g = true →
    s.gActive x = true → (s.cell x.a 0).st = .full →
    let y := Fp.narrow x.fmt (Fp.valT x.fmt (s.cell x.a 0).val - 1)
    (y ≠ 0 → s.prep x (srcsOf 0x149 x) [x.dst] x.fmt.is64 = .ok p → s.startBit s.ten (target s x) = true →
      ∃ t, exec (.loop x) s = .next t ∧ Goes s t (target s x) ∧ SamePreds s t ∧ SameFlags s t ∧ SameDlv s t ∧
        t.cell x.dst 0 = { st := .full, cnt := x.cntN, tag := x.fmt, val := y } ∧
        ∀ k, k ≠ s.key x.dst 0 → t.cellK k = p.post.cellK k) ∧
    (y = 0 → s.prep x (srcsOf 0x149 x) [] x.fmt.is64 = .ok p → s.nextBit s.ten s.sw.pc (s.nextPc x.len) = true →
      ∃ t, exec (.loop x) s = .next t ∧ Goes s t (s.nextPc x.len) ∧ SamePreds s t ∧ SameFlags s t ∧ SameDlv s t ∧
        ∀ k, t.cellK k = p.post.cellK k))

/-- CallsComplete: (R155, R167) `call` sends its true lanes to the target under a new return entry, which holds the address of
the following word and links to the entry beneath; the others go on. A `callx` whose active lanes all read one target does
the same. When all 16 hardware slots are taken, an older entry is spilled first (R156). (R146, R158) a `callx` whose
active lanes read several targets takes a join record with the lanes of each target and a return entry linked to it, and
runs the lanes of the lowest target first. -/
def Obligations.CallsComplete : Prop :=
  (∀ (i : Instr) (opc : Nat) (x : Ext) (s post u : State) (m : Mask) (tgt : Word) (n : Nat),
    i.WellFormed → Issues s ⟨opc, x.len, x⟩ true → s.bolt.sw.has s.cur.ent = true → s.sw.st = .ready → m ≠ 0 →
    ((i = .call x ∧ opc = 0x142 ∧ m = s.active x ∧ tgt = target s x ∧ post = s) ∨
      (i = .callx x ∧ opc = 0x143 ∧ m = maskOf (s.actLanes x) ∧ s.sw.jtop = none ∧ winOf tgt = 0 ∧
        ∃ p, s.prep x (srcsOf 0x143 x) [] false = .ok p ∧ post = p.post ∧ ∀ l ∈ s.actLanes x, (p.opnd 1 l).val = tgt)) →
    s.startBit s.ten tgt = true → (s.swLanes &&& ~~~m = 0 ∨ (s.nextBit s.ten s.sw.pc (s.nextPc x.len) = true ∧ s.canSplit 1 = true)) →
    n < 256 → s.bolt.rets.has n = false → (∀ j < n, s.bolt.rets.has j = true) → makeRoom post = .ok u →
    ∃ t, exec i s = .next t ∧ (∀ k, t.cellK k = u.cellK k) ∧ SameFlags u t ∧ SameDlv u t ∧
      t.mem = u.mem ∧ t.bolt.joins = u.bolt.joins ∧ t.bolt.trap = u.bolt.trap ∧ t.posts = u.posts ∧
      (∃ e, t.bolt.rets.get? n = some e ∧ e.addr = s.nextPc x.len ∧ e.link = s.sw.rtop ∧ e.serial = none ∧ e.spilled = false) ∧
      (∀ j, j ≠ n → t.bolt.rets.get? j = u.bolt.rets.get? j) ∧
      (∀ l, m.getLsbD l = true → ∃ e w, t.bolt.sw.get? e = some w ∧ w.mask = m ∧ w.pc = tgt ∧ w.rtop = some n ∧
        w.depth = s.sw.depth ∧ w.jtop = s.sw.jtop) ∧
      ∀ l, (s.swLanes &&& ~~~m).getLsbD l = true → LaneAt t l (s.nextPc x.len)) ∧
  (∀ (x : Ext) (s u : State) (p : Prep) (n j : Nat) (l0 l1 : Nat),
    (Instr.callx x).WellFormed → Issues s ⟨0x143, x.len, x⟩ true → s.bolt.sw.has s.cur.ent = true → s.sw.st = .ready →
    s.sw.jtop = none → s.prep x (srcsOf 0x143 x) [] false = .ok p →
    let tgt (l : Nat) : Word := (p.opnd 1 l).val
    (∀ l ∈ s.actLanes x, winOf (tgt l) = 0) → l0 ∈ s.actLanes x → l1 ∈ s.actLanes x → tgt l0 ≠ tgt l1 →
    (∀ l ∈ s.actLanes x, (tgt l0).toNat ≤ (tgt l).toNat) → s.startBit s.ten (tgt l0) = true →
    (s.swLanes &&& ~~~(maskOf (s.actLanes x)) = 0 ∨ (s.nextBit s.ten s.sw.pc (s.nextPc x.len) = true ∧ s.canSplit 1 = true)) →
    s.bolt.freeJoin = some j → s.sw.depth < 32 →
    n < 256 → s.bolt.rets.has n = false → (∀ i < n, s.bolt.rets.has i = true) → makeRoom p.post = .ok u →
    ∃ t k, exec (.callx x) s = .next t ∧ t.bolt.joins.get? j = some k ∧ k.serial = true ∧ k.e = maskOf (s.actLanes x) ∧
      k.after = s.nextPc x.len ∧ k.link = s.sw.jtop ∧
      t.sw.pc = tgt l0 ∧ t.sw.depth = s.sw.depth + 1 ∧ t.sw.jtop = some j ∧
      (∀ l < 1024, t.sw.mask.getLsbD l = decide (l ∈ s.actLanes x ∧ tgt l = tgt l0)) ∧
      ∃ e, t.bolt.rets.get? n = some e ∧ e.serial = some j ∧ e.addr = s.nextPc x.len ∧ e.link = s.sw.rtop)

/-- ReturnsComplete (R157): `ret` of a swatch with a return entry that no serial record holds sends the whole swatch to its
address and uncovers the entry beneath, once one that has been spilled is read back (R156), whose address is the one that
the bolt keeps, whatever the bytes of the spill area hold (the model's choice: log 8); names, predicates, join records and
memory stay, and so does every return entry that stays, one that has been read back being spilled still (the model's choice:
log 80). A `ret` with no entry raises 0x28. Of a return to the entry of a serial record (R158) this statement says
nothing. -/
def Obligations.ReturnsComplete : Prop :=
  ∀ (i : Instr) (o : Op) (s : State), i.op = some o → o.opc = 0x144 → Issues s o true → s.bolt.sw.has s.cur.ent = true →
    (∀ n e u, s.sw.rtop = some n → s.bolt.rets.get? n = some e → e.serial = none → e.ecc = 0 →
      (e.spilled = false ∧ u = s ∨ e.spilled = true ∧ refill s n = .ok u) → s.startBit s.ten e.addr = true →
      ∃ t, exec i s = .next t ∧ Outside u t ∧ SameNames s t ∧ t.bolt.k = s.bolt.k ∧ t.bolt.q = s.bolt.q ∧ SameFlags s t ∧
        SameDlv u t ∧ t.mem = s.mem ∧ t.bolt.joins = s.bolt.joins ∧ t.sw.pc = e.addr ∧ t.sw.rtop = e.link ∧ t.sw.mask = s.sw.mask ∧
        t.sw.st = s.sw.st ∧ ∀ j ∈ t.bolt.rets.keys, t.bolt.rets.get? j = s.bolt.rets.get? j) ∧
    (s.sw.rtop = none → exec i s = .next (raise s 0x28 0 s.sw.mask))

/-- ForksAndJoinsComplete: (R146, R148) `fork` takes a join record for all lanes of the swatch, whatever its condition, and
sends the true lanes to the following word and the false ones to Lelse, each one level deeper under that record. (R149,
R150) a `join` at its record's Ljoin, with the record's return top, adds the swatch's lanes to those that have arrived.
While some expected lane has not, the swatch waits on the record; when the last arrives, all waiting swatches become one,
ready at the instruction after, one level less deep, and the record is free. Any other `join`, that of a swatch with no
record among them, raises 0x26. -/
def Obligations.ForksAndJoinsComplete : Prop :=
  (∀ (x : Ext) (s : State) (j : Nat), (Instr.fork x).WellFormed → Issues s ⟨0x145, x.len, x⟩ true →
    s.bolt.sw.has s.cur.ent = true → s.sw.st = .ready → s.sw.unfin = none →
    let yes := s.active x
    let no := s.swLanes &&& ~~~yes
    s.swLanes ≠ 0 → (yes = 0 ∨ s.nextBit s.ten s.sw.pc (s.nextPc x.len) = true) →
    (no = 0 ∨ s.startBit s.ten (forkTargets s x).1 = true) → s.bolt.freeJoin = some j → s.sw.depth < 32 →
    (yes = 0 ∨ no = 0 ∨ s.canSplit 1 = true) →
    ∃ t k, exec (.fork x) s = .next t ∧ Outside s t ∧ SameNames s t ∧ t.bolt.k = s.bolt.k ∧ t.bolt.q = s.bolt.q ∧
      SameFlags s t ∧ SameDlv s t ∧ t.bolt.rets = s.bolt.rets ∧ t.bolt.trap = s.bolt.trap ∧
      t.bolt.joins.get? j = some k ∧ k.ljoin = (forkTargets s x).2 ∧ k.e = s.sw.mask ∧ k.a = 0 ∧ k.rt = s.sw.rtop ∧
      k.link = s.sw.jtop ∧ (∀ r, r ≠ j → t.bolt.joins.get? r = s.bolt.joins.get? r) ∧
      (∀ l, yes.getLsbD l = true → ∃ e w, t.bolt.sw.get? e = some w ∧ w.mask = yes ∧ w.pc = s.nextPc x.len ∧
        w.depth = s.sw.depth + 1 ∧ w.jtop = some j ∧ w.rtop = s.sw.rtop) ∧
      ∀ l, no.getLsbD l = true → ∃ e w, t.bolt.sw.get? e = some w ∧ w.mask = no ∧ w.pc = (forkTargets s x).1 ∧
        w.depth = s.sw.depth + 1 ∧ w.jtop = some j ∧ w.rtop = s.sw.rtop) ∧
  (∀ (i : Instr) (o : Op) (s : State) (r : Nat) (j : JoinRec), i.op = some o → o.opc = 0x146 → Issues s o true →
    s.nextBit s.ten s.sw.pc (s.nextPc o.len) = true → s.bolt.sw.has s.cur.ent = true → s.sw.jtop = some r →
    s.bolt.joins.get? r = some j → j.ecc = 0 →
    (j.serial = false → j.ljoin = s.sw.pc → j.rt = s.sw.rtop → j.e ≠ 0 →
      (j.a ||| s.sw.mask ≠ j.e →
        ∃ t, exec i s = .next t ∧ Outside s t ∧ SameNames s t ∧ t.bolt.k = s.bolt.k ∧ t.bolt.q = s.bolt.q ∧
          t.sw.st = .join r ∧ t.sw.mask = s.sw.mask ∧ t.bolt.joins.get? r = some { j with a := j.a ||| s.sw.mask } ∧
          ∀ e, e ≠ s.cur.ent → (t.bolt.sw.getD e {}).quiet = (s.bolt.sw.getD e {}).quiet) ∧
      (j.a ||| s.sw.mask = j.e →
        (∀ e w, s.bolt.sw.get? e = some w → w.st = .join r → w.hold = s.nextPc o.len ∧ w.depth = s.sw.depth) →
        ∃ t e w, exec i s = .next t ∧ Outside s t ∧ SameNames s t ∧ t.bolt.k = s.bolt.k ∧ t.bolt.q = s.bolt.q ∧
          t.bolt.joins.has r = false ∧ t.bolt.sw.get? e = some w ∧ w.st = .ready ∧ w.pc = s.nextPc o.len ∧
          w.jtop = j.link ∧ w.depth = s.sw.depth - 1 ∧ (∀ l, s.sw.mask.getLsbD l = true → w.mask.getLsbD l = true) ∧
          (∀ d v, s.bolt.sw.get? d = some v → v.st = .join r → ∀ l, v.mask.getLsbD l = true → w.mask.getLsbD l = true) ∧
          ∀ d v, t.bolt.sw.get? d = some v → v.st ≠ .join r)) ∧
    (j.serial = true ∨ j.ljoin ≠ s.sw.pc ∨ j.rt ≠ s.sw.rtop → exec i s = .next (raise s 0x26 j.ljoin s.sw.mask))) ∧
  (∀ (i : Instr) (o : Op) (s : State), i.op = some o → o.opc = 0x146 → Issues s o true →
    s.nextBit s.ten s.sw.pc (s.nextPc o.len) = true → s.sw.jtop.bind (fun r => s.bolt.joins.get? r) = none →
    exec i s = .next (raise s 0x26 0 s.sw.mask))

/-- ExitsComplete (R154): `exit` ends every vector name in each lane that leaves, EXHAUSTED or discarding, and takes the lane
from the swatch. Of a swatch in no join record, the lanes that stay go on at the following word; the entry of one that has
left whole is freed; and when no lane of the bolt is left, the bolt has left, its block record is posted, its panel counts
one bolt less, and its group-wide names have ended too. -/
def Obligations.ExitsComplete : Prop :=
  ∀ (i : Instr) (o : Op) (s : State), i.op = some o → o.opc = 0x147 → Issues s o true → s.bolt.sw.has s.cur.ent = true →
    s.sw.jtop = none → s.active o.x ≠ 0 →
    let m := s.active o.x
    let stay := s.swLanes &&& ~~~m
    (stay = 0 ∨ s.nextBit s.ten s.sw.pc (s.nextPc o.len) = true) →
    ∃ t, exec i s = .next t ∧ (s.bolt.pins = [] → t.mem = s.mem) ∧
      (∀ (c : Code) (l : Nat), c.isV = true → m.getLsbD l = true → (t.cellK (regKey false c l)).dead = true) ∧
      (stay ≠ 0 → s.sw.mask = s.swLanes → t.sw.mask = stay ∧ t.sw.pc = s.nextPc o.len ∧ t.posts = s.posts ∧
        ∀ (c : Code) (l : Nat), c.isV = true → l < 1024 → m.getLsbD l = false →
          t.cellK (regKey false c l) = s.cellK (regKey false c l)) ∧
      (stay = 0 → s.sw.mask = s.swLanes → t.bolt.sw.has s.cur.ent = false) ∧
      (stay = 0 → s.sw.mask = s.swLanes → s.bolt.sw.keys = [s.cur.ent] → t.bolt.left = true ∧
        (∀ k, (t.cellK k).dead = true) ∧ (∃ b, Post.block b ∈ t.posts ∧ b.launch = s.bolt.launch ∧ b.bolt = s.cur.slot) ∧
        (t.panelAt s.cur.core s.bolt.panel).out = (s.panelAt s.cur.core s.bolt.panel).out - 1)

/-- NopYieldAndBreakpoint: (R54, R164, R171) `nop` has no effect but that the swatch goes on; `yield` has none but that the
swatch stands back until the others ready in its class on the shuttle have issued. (R171, R173, R378) `brk` takes a fault
of cause 0x29 at its own pc, with its code, zero-extended, in the address field. -/
def Obligations.NopYieldAndBreakpoint : Prop :=
  (∀ (i : Instr) (o : Op) (s : State), i.op = some o → o.opc = 0x14A ∨ o.opc = 0x148 → Issues s o false →
    ∃ t, exec i s = .next t ∧ Goes s t (s.nextPc o.len) ∧ SameNames s t ∧ SamePreds s t ∧ SameFlags s t ∧ SameDlv s t ∧
      (o.opc = 0x148 → s.bolt.sw.has s.cur.ent = true →
        ∀ c ∈ s.cc.bolts.vals, c.shuttle = s.bolt.shuttle → c.prio = s.bolt.prio → ∀ e ∈ c.sw.ents, s.cc.mayIssue c e = true →
          e.1 ≠ s.cur.ent → c.shuttle * 65536 + e.1 ∈ t.sw.yield)) ∧
  (∀ (x : Ext) (s : State), Issues s ⟨0x14B, x.len, x⟩ true →
    exec (.brk x) s = .next (raise s 0x29 (BitVec.ofNat 64 (x.immF 0 16)) s.sw.mask))

/-! ### Memory and ordering -/

/-- LoadsComplete (R206, R215, R216, R332): `ld` and `ldm`, and the base forms equal to `ld`, complete when every access of
every active lane passes R197 and its translation, unwatched and outside transactions. Each name then has the form's count
and tag, and is FULL with the bytes of the bank or of the L1's word, sign-extended for a narrow S32 and zero-extended
otherwise, or EMPTY with a load pending at its physical address. No memory changes, and no name but the destinations and,
after a tack, the lane's address. -/
def Obligations.LoadsComplete : Prop :=
  ∀ (i : Instr) (o : Op) (s : State) (p : Prep), i.op = some o → o.opc = 0x160 ∨ o.opc = 0x162 → i.WellFormed →
    Issues s o false →
    let n := if o.opc = 0x162 then rangeLen o.x.modN else 1
    let size := if o.opc = 0x162 ∨ o.x.modN = 0 then (if o.x.fmt.is64 then 8 else 4) else o.x.modN
    let va (l k : Nat) : Word := (p.opnd 1 l).val + memOff o.opc o.x + BitVec.ofNat 64 (k * size)
    let ext (v : Nat) : Word := if o.x.fmt = .s32 ∧ size < 4 ∧ 2 ^ (8 * size - 1) ≤ v then
      BitVec.ofNat 64 (v + 2 ^ 32 - 2 ^ (8 * size)) else BitVec.ofNat 64 v
    s.prep o.x o.srcs (codesFrom o.x.dst n) o.x.fmt.is64 = .ok p → Outright s o.x →
    (∀ l ∈ s.actLanes o.x, ∀ k < n, Lands s l (va l k) size .r ∧ Unwatched s l (va l k) size .rd) →
    ∃ t, exec i s = .next t ∧ t.sw.pc = s.nextPc o.len ∧ SamePreds s t ∧ SameFlags s t ∧ SameControl s t ∧
      t.mem = s.mem ∧ (∀ c, (t.core c).scr = (s.core c).scr) ∧ ((∀ c, (s.core c).scrEcc = {}) → NoTx s → SoundL1 s → Frame s t) ∧
      (∀ l ∈ s.actLanes o.x, ∀ k < n,
        let c := t.cell (o.x.dst + BitVec.ofNat 10 k) l
        c.cnt = o.x.cntN ∧ c.tag = o.x.fmt ∧
        (∀ b off, Banks s l (va l k) size b off → (s.core b).scrEcc = {} →
          c.st = .full ∧ c.val = ext ((s.core b).scr.readN off size)) ∧
        ∀ pa acc hops, Reaches s l (va l k) size .r pa acc hops →
          (c.st = .full ∧ ∃ w, s.cc.l1.get? (pa / 8 * 8) = some w ∧ w.bad = false ∧
            (s.cc.stq = [] → s.bolt.staged = false → pa % size = 0 → c.val = ext (ofLE (wordBytes w.val (pa % 8) size)))) ∨
          (c.st = .empty ∧ ∃ d ∈ t.dlv, d.id = c.pend ∧ d.key = s.key (o.x.dst + BitVec.ofNat 10 k) l ∧
            d.core = s.cur.core ∧ d.slot = s.cur.slot ∧ ∃ g sg, d.bring = .load pa g size o.x.fmt sg acc)) ∧
      ∀ key, (∀ l ∈ s.actLanes o.x, ∀ k < n, key ≠ s.key (o.x.dst + BitVec.ofNat 10 k) l) →
        ((∀ l ∈ s.actLanes o.x, key ≠ s.key o.x.a l) ∨
          ∀ l ∈ s.actLanes o.x, ∀ k < n, ∀ pa acc hops, Reaches s l (va l k) size .r pa acc hops → hops = 0) →
        t.cellK key = p.post.cellK key

/-- StoresComplete (R200, R215, R216, R226): `st` and `stm`, and the base forms equal to `st`, complete under the same
conditions, with the permission W. A byte of a scratchpad that accesses cover holds what the highest lane's last stored;
every other byte of memory is as before: the stores to global addresses, and nothing else, are added to their core's queue
in ascending order of lanes and of each lane's names, each with its address and bytes, until it is performed. -/
def Obligations.StoresComplete : Prop :=
  ∀ (i : Instr) (o : Op) (s : State) (p : Prep), i.op = some o → o.opc = 0x161 ∨ o.opc = 0x163 → i.WellFormed →
    Issues s o false →
    let n := if o.opc = 0x163 then rangeLen o.x.modN else 1
    let size := if o.opc = 0x163 ∨ o.x.modN = 0 then (if o.x.fmt.is64 then 8 else 4) else o.x.modN
    let va (l k : Nat) : Word := (p.opnd 1 l).val + memOff o.opc o.x + BitVec.ofNat 64 (k * size)
    s.prep o.x o.srcs [] false = .ok p → Outright s o.x →
    (∀ l ∈ s.actLanes o.x, ∀ k < n, Lands s l (va l k) size .w ∧ Unwatched s l (va l k) size .wr) →
    ∃ t, exec i s = .next t ∧ t.sw.pc = s.nextPc o.len ∧ SamePreds s t ∧ SameFlags s t ∧ SameControl s t ∧ t.dlv = s.dlv ∧
      t.mem = s.mem ∧ t.hbm = s.hbm ∧
      (∀ l ∈ s.actLanes o.x, ∀ k < n, ∀ b off, Banks s l (va l k) size b off → ∀ j < size,
        (∀ l' ∈ s.actLanes o.x, ∀ k' < n, ∀ off', Banks s l' (va l' k') size b off' → off' ≤ off + j →
          off + j < off' + size → l' < l ∨ l' = l ∧ k' ≤ k) →
        (t.core b).scr.read (off + j) = (p.opnd 2 l k).val.extractLsb' (8 * j) 8) ∧
      (∀ b a, (∀ l ∈ s.actLanes o.x, ∀ k < n, ∀ off, Banks s l (va l k) size b off → a < off ∨ off + size ≤ a) →
        (t.core b).scr.read a = (s.core b).scr.read a) ∧
      (let far := ((s.actLanes o.x).flatMap (fun l => (List.range n).map (fun k => (l, k)))).filter (fun e =>
          match s.place e.1 (va e.1 e.2) size with | .ok (.glob _) => true | _ => false)
        ∃ new, t.cc.stq = s.cc.stq ++ new ∧ new.length = far.length ∧
          (∀ (i l k : Nat), far[i]? = some (l, k) → ∃ q pa acc hops, new[i]? = some q ∧
            Reaches s l (va l k) size .w pa acc hops ∧ q.pa = pa ∧ q.acc = acc ∧ q.bytes.length = size ∧ q.ten = s.ten ∧
            ∀ j < size, q.bytes[j]? = some ((p.opnd 2 l k).val.extractLsb' (8 * j) 8)) ∧
          ∀ c, c ≠ s.cur.core → (t.core c).stq = (s.core c).stq) ∧
      ∀ key, ((∀ l ∈ s.actLanes o.x, key ≠ s.key o.x.a l) ∨
          ∀ l ∈ s.actLanes o.x, ∀ k < n, ∀ pa acc hops, Reaches s l (va l k) size .w pa acc hops → hops = 0) →
        t.cellK key = p.post.cellK key

/-- AddressFaults (R196, R197, R200): a load or a store whose operands pass R6, with no lane in a transaction, ends in a
fault when some access fails a check of R197: of the lowest cause that fails (0x0A, misaligned, before 0x0B, outside the
windows, before 0x0D, beyond the scratchpad), with the address of the lowest such lane, and with nothing changed. -/
def Obligations.AddressFaults : Prop :=
  ∀ (i : Instr) (o : Op) (s : State) (c l : Nat) (ls : List Nat), i.op = some o → Issues s o false →
    o.opc = 0x160 ∨ o.opc = 0x161 → Outright s o.x →
    let size := if o.x.modN = 0 then (if o.x.fmt.is64 then 8 else 4) else o.x.modN
    let va (l : Nat) : Word := (s.opnd (o.srcs.headD { pos := 1 }) l).val + memOff o.opc o.x
    s.ready o.x o.srcs (if o.opc = 0x160 then [o.x.dst] else []) (o.opc == 0x160 && o.x.fmt.is64) = .ok (s.actLanes o.x) →
    (∀ j ∈ s.actLanes o.x, ∀ e, s.place j (va j) size = .error e → c ≤ e) →
    (s.actLanes o.x).filter (fun j => match s.place j (va j) size with | .error e => e == c | .ok _ => false) = l :: ls →
    exec i s = .next (raise s c (va l) (s.failMask o.x (l :: ls))) ∧ ((va l).toNat % size ≠ 0 → c = 0x0A)

/-- CacheFormsComplete: (R213, R218 to R221, R231, R232) `pf` completes and changes no name, no byte of memory and no owner;
`cinv` takes the addressed lines out of its core's L1, `cinv.all`, once its clear is over, goes on; `cwb` sends the lines
from the L2 to HBM, waits, and goes on once HBM has acknowledged them; `aq` gives each active lane a value with its window
in bits [3:0] and, for a global address whose translation takes no tack, with the leaf's permissions. (R116)
`pbload` of `n` leaders from a global table, whose words are all readable and free, and in the L1, where they are, as in the
L2, by a launch that may own the pattern store, stores them as the leaders from its index on, takes the store and ends any parity error there (the model's choice: log 22);
no other leader, name or byte of memory changes. A fetched line serves the core's loads that wait for it; with none due the
deliveries stay. -/
def Obligations.CacheFormsComplete : Prop :=
  (∀ (x : Ext) (s : State) (p : Prep),
    let ls := s.actLanes x
    let noLoad : Prop := ∀ d ∈ s.dlv, ∀ pa va n tag sg acc, d.bring = .load pa va n tag sg acc → d.core ≠ s.cur.core
    let va (opc l : Nat) : Word := (p.opnd 1 l).val + memOff opc x
    ((Instr.pf x).WellFormed → Issues s ⟨0x164, x.len, x⟩ false → s.prep x (srcsOf 0x164 x) [] false = .ok p →
      ∃ t, exec (.pf x) s = .next t ∧ t.sw.pc = s.nextPc x.len ∧ (∀ k, t.cellK k = p.post.cellK k) ∧ SamePreds s t ∧
        SameFlags s t ∧ (noLoad → SameDlv s t) ∧ t.dlv.map Delivery.id = s.dlv.map Delivery.id ∧ SameControl s t ∧ t.mem = s.mem ∧ t.hbm = s.hbm ∧ t.owner = s.owner ∧
        ∀ c, c ≠ s.cur.core → (t.core c).l1 = (s.core c).l1) ∧
    ((Instr.cinv x).WellFormed → Issues s ⟨0x165, x.len, x⟩ false → x.g = false →
      s.prep x (srcsOf 0x165 x) [] false = .ok p →
      (∀ l ∈ ls, winOf (va 0x165 l) = 2 ∨ winOf (va 0x165 l) = 3 ∨
        ∃ g, s.place l (va 0x165 l) 1 = .ok (.glob g) ∧ ∀ v, s.translate s.cur.core s.ten g.toNat .none s.sw ≠ .miss v ∧
          s.translate s.cur.core s.ten g.toNat .none s.sw ≠ .bad 0x0C v) →
      ∃ t, exec (.cinv x) s = .next t ∧ t.sw.pc = s.nextPc x.len ∧ (∀ k, t.cellK k = p.post.cellK k) ∧ SamePreds s t ∧
        SameFlags s t ∧ SameDlv s t ∧ SameControl s t ∧ t.mem = s.mem ∧ t.owner = s.owner ∧
        (∀ l ∈ ls, ∀ pa acc hops, Reaches s l (va 0x165 l) 1 .none pa acc hops → ∀ w, w % 8 = 0 → lineOf w = lineOf pa →
          t.cc.l1.has w = false) ∧
        ∀ w, (∀ l ∈ ls, ∀ pa acc hops, Reaches s l (va 0x165 l) 1 .none pa acc hops → lineOf w ≠ lineOf pa) →
          t.cc.l1.get? w = s.cc.l1.get? w) ∧
    (Issues s ⟨0x165, x.len, x⟩ false → x.g = true → (s.gActive x = true → s.sw.phase = 7) →
      ∃ t, exec (.cinv x) s = .next t ∧ Goes s t (s.nextPc x.len) ∧ SameNames s t ∧ SamePreds s t ∧ SameFlags s t ∧
        SameDlv s t) ∧
    ((Instr.cwb x).WellFormed → Issues s ⟨0x166, x.len, x⟩ false → s.sw.phase = 9 → s.cc.acks.contains s.swKey = false →
      ∃ t, exec (.cwb x) s = .next t ∧ Goes s t (s.nextPc x.len) ∧ SameNames s t ∧ SamePreds s t ∧ SameFlags s t ∧
        SameDlv s t) ∧
    ((Instr.cwb x).WellFormed → Issues s ⟨0x166, x.len, x⟩ false → s.sw.phase = 0 → s.sw.st = .ready → Outright s x →
      x.g = false → s.prep x (srcsOf 0x166 x) [] false = .ok p → ls ≠ [] → s.cc.stq = [] →
      (∀ l ∈ ls, ∃ pa acc hops, Reaches s l (va 0x166 l) 1 .r pa acc hops ∧ s.lineBusy pa (some s.cur.core) = false) →
      ∃ t, exec (.cwb x) s = .next t ∧ t.sw.st = .retry 12 ∧ t.sw.phase = 9 ∧ t.sw.pc = s.sw.pc ∧ t.mem = s.mem ∧
        (∀ k, t.cellK k = p.post.cellK k) ∧ t.cc.acks.contains s.swKey = true ∧
        ∀ l ∈ ls, ∀ pa acc hops, Reaches s l (va 0x166 l) 1 .r pa acc hops → ∀ j < 128,
          t.hbm.read (lineOf pa + j) = s.mem.read (lineOf pa + j)) ∧
    ((Instr.aq x).WellFormed → Issues s ⟨0x167, x.len, x⟩ false → s.prep x (srcsOf 0x167 x) [x.dst] true = .ok p →
      ∃ t, exec (.aq x) s = .next t ∧ t.sw.pc = s.nextPc x.len ∧ SamePreds s t ∧ SameFlags s t ∧ SameControl s t ∧
        t.mem = s.mem ∧ t.owner = s.owner ∧ ((∀ l ∈ ls, (aqVal s l (va 0x167 l)).2 = true) → Frame s t) ∧
        (∀ l ∈ ls, ∃ v : Word, (t.cell x.dst l).cnt = x.cntN ∧ (t.cell x.dst l).tag = .n64 ∧
          ((t.cell x.dst l).st = .full ∧ (t.cell x.dst l).val = v ∨
            (t.cell x.dst l).st = .empty ∧ ∃ d ∈ t.dlv, d.id = (t.cell x.dst l).pend ∧ d.key = s.key x.dst l ∧
              d.bring = .value v .n64 0 false) ∧
          v.extractLsb' 0 4 = BitVec.ofNat 4 (winOf (va 0x167 l)) ∧
          (winOf (va 0x167 l) = 0 → ∀ e, s.fill s.ten (va 0x167 l).toNat = some e → e.tack = none →
            v.getLsbD 4 = true ∧ v.getLsbD 5 = e.leaf.rd ∧ v.getLsbD 6 = e.leaf.w ∧ v.getLsbD 7 = e.leaf.x ∧
            v.getLsbD 11 = e.leaf.mov ∧ v.getLsbD 12 = e.leaf.tck ∧ v.getLsbD 13 = e.leaf.acc) ∧
          (winOf (va 0x167 l) = 0 → s.fill s.ten (va 0x167 l).toNat = none → v = 0)) ∧
        ∀ k, (∀ l ∈ ls, k ≠ s.key x.dst l) → t.cellK k = p.post.cellK k)) ∧
  (∀ (x : Ext) (s : State) (p : Prep), (Instr.pbload x).WellFormed → Issues s ⟨0x03A, x.len, x⟩ false → Outright s x →
    s.actLanes x ≠ [] → s.prep x (srcsOf 0x03A x) [] false = .ok p →
    let first := x.immF 0 9
    let n := x.immF 12 10 + 1
    let base := (p.opnd 1 0).val
    let noLoad : Prop := ∀ d ∈ s.dlv, ∀ pa va n tag sg acc, d.bring = .load pa va n tag sg acc → d.core ≠ s.cur.core
    base.toNat % 4 = 0 → (s.cc.psOwner = none ∨ s.cc.psOwner = some s.bolt.launch) → s.cc.psRegen = false →
    s.cc.mxq = [] → s.ecc = {} → s.bolt.staged = false → s.cc.stq = [] →
    FreshL1 s → (∀ j < n, ∃ pa acc hops, Reaches s 0 (base + BitVec.ofNat 64 (j * 4)) 4 .r pa acc hops ∧ pa % 4 = 0 ∧
      s.lineBusy pa (some s.cur.core) = false ∧ s.earlierLoad s.cur.core s.serial pa = false) →
    ∃ t, exec (.pbload x) s = .next t ∧ t.sw.pc = s.nextPc x.len ∧ (∀ k, t.cellK k = p.post.cellK k) ∧ SamePreds s t ∧
      SameFlags s t ∧ (noLoad → SameDlv s t) ∧ SameControl s t ∧ t.mem = s.mem ∧ t.cc.psOwner = some s.bolt.launch ∧
      (∀ j < n, ∀ pa acc hops, Reaches s 0 (base + BitVec.ofNat 64 (j * 4)) 4 .r pa acc hops →
        (t.cc.leader (first + j)).toNat = s.mem.readN pa 4 ∧ t.cc.psBad.contains (first + j) = false) ∧
      ∀ j, j < first ∨ first + n ≤ j → t.cc.leader j = s.cc.leader j ∧ t.cc.psBad.contains j = s.cc.psBad.contains j)

/-- FencesComplete (R231 to R234, R243, R245, R247): a release completes once every load of the swatch's lanes has its value
and every store that its core had pending at its start has been performed; an acquire then clears from the L1 the words that
the core does not own, and nothing else; `fence.sc` waits besides for an edge of `HB.NOW`; `tick` gives every active lane
one value of `HB.NOW`, `tick.next` that of a later edge; `isync` is an acquire that empties the instruction cache too. -/
def Obligations.FencesComplete : Prop :=
  ∀ (i : Instr) (o : Op) (s : State), i.op = some o → i.WellFormed → Issues s o false →
    let from_ := if s.sw.phase = 0 then BitVec.ofNat 64 s.serial else s.sw.hold
    let drained := s.loadsDue 0 = false ∧ ∀ q ∈ s.cc.stq, from_.toNat ≤ q.id
    let cleared (t : State) : Prop := (∀ e, e ∈ t.cc.l1.ents ↔ e ∈ s.cc.l1.ents ∧ e.2.owned = true) ∧ t.cc.scr = s.cc.scr ∧
      t.mem = s.mem ∧ t.owner = s.owner ∧ SameNames s t ∧ SamePreds s t ∧ SameFlags s t ∧ SameDlv s t ∧ SameControl s t ∧
      ∀ c, c ≠ s.cur.core → (t.core c).l1 = (s.core c).l1
    (o.opc = 0x180 → o.x.modN = 1 → drained →
      ∃ t, exec i s = .next t ∧ Goes s t (s.nextPc o.len) ∧ SameNames s t ∧ SamePreds s t ∧ SameFlags s t ∧ SameDlv s t) ∧
    (o.opc = 0x180 → o.x.modN ≠ 1 → s.dry o.x = false → (if o.x.modN = 0 then s.loadsDue 0 = false else drained) →
      ∃ t, exec i s = .next t ∧ t.sw.pc = s.nextPc o.len ∧ cleared t) ∧
    (o.opc = 0x181 → s.dry o.x = false → (s.sw.phase = 2 ∨ drained) → (∃ e, s.sw.edge = some e ∧ e ≠ s.hb) →
      ∃ t, exec i s = .next t ∧ t.sw.pc = s.nextPc o.len ∧ cleared t) ∧
    (o.opc = 0x182 → (o.x.modN = 1 → ∃ e, s.sw.edge = some e ∧ e ≠ s.hb) → ∀ p, s.prep o.x [] [o.x.dst] true = .ok p →
      ∃ t, exec i s = .next t ∧ Goes s t (s.nextPc o.len) ∧ SamePreds s t ∧ SameFlags s t ∧ SameDlv s t ∧
        (∀ l ∈ s.actLanes o.x, t.cell o.x.dst l = { st := .full, cnt := o.x.cntN, tag := .n64, val := s.hb }) ∧
        ∀ k, (∀ l ∈ s.actLanes o.x, k ≠ s.key o.x.dst l) → t.cellK k = s.cellK k) ∧
    (o.opc = 0x183 → s.dry o.x = false → s.loadsDue 0 = false →
      ∃ t, exec i s = .next t ∧ t.sw.pc = s.nextPc o.len ∧ cleared t ∧ t.cc.icache = {} ∧ t.sw.native = false)

/-! ### Atomics and transactions -/

/-- AtomicsComplete (R249 to R251, R254, R255): `atom`, `red` and `cas` of no acquire order complete when every access of
every active lane passes R197 and its translations, and nothing that it must wait for is due. The lanes of one address are
applied in ascending order, and the requests of different addresses one after another: each lane receives the word as those
before it leave it, at once from a bank and by a pending delivery from the L2, and the word ends as the last leaves it; a
`cas` writes each lane's outcome to kP. That a word of the L2 changes as the instruction issues is the model's choice
(log 29). No other byte
of memory changes, and no name but the destination and, after a tack, the address. What waits for an acquire (its values
being due) goes on, when they have come, with the words that its core does not own cleared from the L1. -/
def Obligations.AtomicsComplete : Prop :=
  ∀ (i : Instr) (o : Op) (s : State), i.op = some o → o.opc = 0x190 ∨ o.opc = 0x191 ∨ o.opc = 0x192 → i.WellFormed →
    Issues s o false →
    let x := o.x
    let ls := s.actLanes x
    let size := if x.fmt.is64 then 8 else 4
    let cut (v : Word) : Word := if x.fmt.is64 then v else (v.setWidth 32).setWidth 64
    let step (m y z : Word) : Word :=
      if o.opc = 0x191 then (if m = y then z else m)
      else match x.immF 0 3 with
        | 0 => m + y
        | 1 => (Alu.combine 6 x.fmt x.rnd m y).1
        | 2 => if Fp.valT x.fmt y < Fp.valT x.fmt m then y else m
        | 3 => if Fp.valT x.fmt m < Fp.valT x.fmt y then y else m
        | 4 => m &&& y
        | 5 => m ||| y
        | 6 => m ^^^ y
        | _ => y
    (∀ (p : Prep) (loc : Nat → Option Nat × Nat), s.sw.phase = 0 →
      s.prep x o.srcs (if o.opc = 0x192 then [] else [x.dst]) x.fmt.is64 = .ok p → Outright s x →
      x.mod.getLsbD 0 = false → (o.opc = 0x191 → x.imm.getLsbD 6 = false) → (x.mod.getLsbD 1 = true → s.loadsDue 0 = false) →
      let va (l : Nat) : Word := (p.opnd 1 l).val + (x.imm.extractLsb' 8 14).signExtend 64
      (∀ l ∈ ls, Unwatched s l (va l) size .at_ ∧
        ((∃ c off, loc l = (some c, off) ∧ Banks s l (va l) size c off ∧ off % size = 0) ∨
          ∃ pa acc hops, loc l = (none, pa) ∧ pa % size = 0 ∧ Reaches s l (va l) size .w pa acc hops ∧
            (o.opc ≠ 0x192 → Reaches s l (va l) size .r pa acc hops) ∧ s.lineBusy pa (some s.cur.core) = false ∧
            s.earlierLoad s.cur.core s.serial pa = false)) →
      s.cc.stq = [] → s.ecc = {} → (∀ c, (s.core c).scrEcc = {}) → s.bolt.staged = false →
      let start (a : Option Nat × Nat) : Word := BitVec.ofNat 64 (match a with
        | (some c, off) => (s.core c).scr.readN off size
        | (none, pa) => s.mem.readN pa size)
      let run (js : List Nat) (a : Option Nat × Nat) : Word :=
        (js.filter (fun j => loc j == a)).foldl (fun m j => cut (step m (p.opnd 2 j).val (p.opnd 3 j).val)) (start a)
      let order := ((ls.map va).eraseDups).flatMap (fun v => ls.filter (fun j => va j == v))
      let old (l : Nat) : Word := run (order.takeWhile (· != l)) (loc l)
      ∃ t, exec i s = .next t ∧ t.sw.pc = s.nextPc o.len ∧ SameControl s t ∧ t.hbm = s.hbm ∧
        (∀ l ∈ ls, (match loc l with
          | (some c, off) => (t.core c).scr.readN off size
          | (none, pa) => t.mem.readN pa size) = (run order (loc l)).toNat) ∧
        (∀ a, (∀ l ∈ ls, ∀ pa, loc l = (none, pa) → a < pa ∨ pa + size ≤ a) → t.mem.read a = s.mem.read a) ∧
        (∀ c a, (∀ l ∈ ls, ∀ off, loc l = (some c, off) → a < off ∨ off + size ≤ a) →
          (t.core c).scr.read a = (s.core c).scr.read a) ∧
        (o.opc ≠ 0x192 → ∀ l ∈ ls, (t.cell x.dst l).cnt = x.cntN ∧ (t.cell x.dst l).tag = x.fmt ∧
          ((∃ c off, loc l = (some c, off)) → (t.cell x.dst l).st = .full ∧ (t.cell x.dst l).val = old l) ∧
          ((∃ pa, loc l = (none, pa)) → (t.cell x.dst l).st = .empty ∧ ∃ d ∈ t.dlv, d.id = (t.cell x.dst l).pend ∧
            d.key = s.key x.dst l ∧ ∃ fl, d.bring = .value (old l) x.fmt fl false)) ∧
        (o.opc ≠ 0x191 → SamePreds s t) ∧
        (o.opc = 0x191 → x.immF 3 3 ≠ 0 → x.g = false →
          (∀ l ∈ ls, (t.kMask (x.immF 3 3)).getLsbD l = decide (old l = (p.opnd 2 l).val)) ∧
          ∀ l, l ∉ ls → (t.kMask (x.immF 3 3)).getLsbD l = (s.kMask (x.immF 3 3)).getLsbD l) ∧
        ∀ k, (∀ l ∈ ls, k ≠ s.key x.dst l ∨ o.opc = 0x192) →
          ((∀ l ∈ ls, k ≠ s.key x.a l) ∨
            ∀ l ∈ ls, ∀ pm pa acc hops, Reaches s l (va l) size pm pa acc hops → hops = 0) →
          t.cellK k = p.post.cellK k) ∧
    (s.sw.phase = 5 → s.loadsDue 0 = false →
      ∃ t, exec i s = .next t ∧ t.sw.pc = s.nextPc o.len ∧ SameNames s t ∧ SamePreds s t ∧ SameFlags s t ∧ SameDlv s t ∧
        SameControl s t ∧ t.mem = s.mem ∧ ∀ e, e ∈ t.cc.l1.ents ↔ e ∈ s.cc.l1.ents ∧ e.2.owned = true)

/-- TransactionsComplete (R256 to R264): `txbegin` of lanes in no transaction, none of them due to run irrevocably or the
oldest due one holding the token, starts one in each, with empty sets; a lane in one already raises 0x12. `txend`, when every
lane is decided, writes each lane's outcome to kD and ends its transaction; a lane in none raises 0x2A. `txabort` dooms its
lanes with cause 4 and its code; `txstat` gives each lane's word, with IRR in one whose next attempt would be irrevocable.
A lane at its `txend` locks the lines of its sets in ascending order, each that is free: it waits for an older commit's, or
for one that writes already, and aborts a younger one's with cause 10. With every line locked it aborts with cause 6 when a
word that it has read has changed; else it begins to write, and its next event writes its bytes, and no other. That each
line, the comparison and the writing are a TX_COMMIT event of their own is the model's choice (log 31). The token goes to a
waiter of which none is older. -/
def Obligations.TransactionsComplete : Prop :=
  ∀ (x : Ext) (s : State),
    let ls := s.actLanes x
    let same (t : State) : Prop := t.sw.pc = s.nextPc x.len ∧ SameNames s t ∧ SameFlags s t ∧ SameDlv s t ∧ SameControl s t ∧
      t.mem = s.mem ∧ ∀ l, l ∉ ls → t.txAt l = s.txAt l
    (Issues s ⟨0x193, x.len, x⟩ false → (∀ l ∈ ls, (s.txAt l).act = false) →
      (∀ l, s.dueLane ls = some l → s.token = some (s.cur.core, s.cur.slot, l)) →
      ∃ t, exec (.txbegin x) s = .next t ∧ same t ∧ SamePreds s t ∧
        ∀ l ∈ ls, (t.txAt l).act = true ∧ (t.txAt l).doom = false ∧ (t.txAt l).rd = [] ∧ (t.txAt l).wrw = [] ∧
          (t.txAt l).pc = some s.sw.pc ∧ (t.txAt l).irr = decide (s.dueLane ls = some l) ∧
          (t.txAt l).cause = (s.txAt l).cause) ∧
    (Issues s ⟨0x193, x.len, x⟩ false → ∀ j js, ls.filter (fun l => (s.txAt l).act) = j :: js →
      exec (.txbegin x) s = .next (raise s 0x12 0 (maskOf (j :: js)))) ∧
    (Issues s ⟨0x194, x.len, x⟩ false → s.sw.phase = 10 → (∀ l ∈ ls, (s.txAt l).act = true ∧ (s.txAt l).dec ≠ 1) →
      x.immF 0 3 ≠ 0 →
      ∃ t, exec (.txend x) s = .next t ∧ same t ∧
        (∀ l ∈ ls, (t.txAt l).act = false ∧ (t.kMask (x.immF 0 3)).getLsbD l = decide ((s.txAt l).dec = 2)) ∧
        (∀ l, l ∉ ls → (t.kMask (x.immF 0 3)).getLsbD l = (s.kMask (x.immF 0 3)).getLsbD l) ∧
        ∀ k, k ≠ x.immF 0 3 → t.kMask k = s.kMask k) ∧
    (Issues s ⟨0x194, x.len, x⟩ false → ∀ j js, ls.filter (fun l => !(s.txAt l).act) = j :: js →
      exec (.txend x) s = .next (raise s 0x2A 1 (maskOf (j :: js)))) ∧
    (Issues s ⟨0x195, x.len, x⟩ false → (∀ l ∈ ls, (s.txAt l).act = true ∧ (s.txAt l).irr = false ∧ (s.txAt l).begun = false ∧ (s.txAt l).dec = 0) →
      ∃ t, exec (.txabort x) s = .next t ∧ same t ∧ SamePreds s t ∧
        ∀ l ∈ ls, (t.txAt l).doom = true ∧ (t.txAt l).act = true ∧
          (t.txAt l).cause = (if (s.txAt l).doom then (s.txAt l).cause else 4) ∧
          (t.txAt l).code = x.immF 0 8) ∧
    (Issues s ⟨0x196, x.len, x⟩ false → ∀ p, s.prep x [] [x.dst] false = .ok p →
      ∃ t, exec (.txstat x) s = .next t ∧ Goes s t (s.nextPc x.len) ∧ SamePreds s t ∧ SameFlags s t ∧ SameDlv s t ∧
        (∀ l ∈ ls, let v := (t.cell x.dst l).val
          (t.cell x.dst l).st = .full ∧ (t.cell x.dst l).cnt = x.cntN ∧ (t.cell x.dst l).tag = .n32 ∧
          v.getLsbD 0 = (s.txAt l).act ∧ v.getLsbD 1 = (s.txAt l).doom ∧ ((s.txAt l).irr = true → v.getLsbD 2 = true) ∧
          ((s.txAt l).act = true → 7 ≤ (s.txAt l).att → v.getLsbD 2 = true) ∧
          v.extractLsb' 8 4 = BitVec.ofNat 4 (s.txAt l).cause ∧ v.extractLsb' 24 8 = BitVec.ofNat 8 (s.txAt l).code ∧
          ((s.txAt l).att ≤ 15 → v.extractLsb' 16 4 = BitVec.ofNat 4 (s.txAt l).att)) ∧
        ∀ k, (∀ l ∈ ls, k ≠ s.key x.dst l) → t.cellK k = s.cellK k) ∧
    (∀ core slot lane, let a := (s.boltAt core slot).tx.getD lane {}
      ∃ t, exec (.txCommit core slot lane) s = .next t ∧
        let b := (t.boltAt core slot).tx.getD lane {}
        (a.dec ≠ 1 → t = s) ∧
        (a.dec = 1 → a.doom = true → b.dec = 3 ∧ t.mem = s.mem) ∧
        (a.dec = 1 → a.doom = false → s.cores.has core = true → (s.core core).bolts.has slot = true →
          (∀ line, a.setLines.find? (fun n => !a.lines.contains n) = some line → s.holds.any (fun h => h.1 == line) = false →
            (s.txLines (fun _ _ _ u => u.holds)).contains line = false →
            (s.locker line = none → b.dec = 1 ∧ b.doom = false ∧ b.lines = a.lines ++ [line] ∧ t.mem = s.mem) ∧
            ∀ age c k m, s.locker line = some (age, c, k, m) → ¬(c = core ∧ k = slot ∧ m = lane) →
              let h := s.txOf c k m
              let older := h.begun || olderThan age (txAge core (s.boltAt core slot).shuttle slot lane a)
              (older = true → t = s) ∧
              (older = false → (t.txOf c k m).dec = 3 ∧ (h.doom = false → (t.txOf c k m).cause = 10) ∧
                (t.txOf c k m).lines = [] ∧ b.lines = a.lines ++ [line] ∧ t.mem = s.mem)) ∧
          (a.setLines.find? (fun n => !a.lines.contains n) = none → (s.core core).stq = [] →
            (s.boltAt core slot).staged = false →
            (a.begun = false → (∃ r ∈ a.rd, BitVec.ofNat 64 (s.mem.readN r.1 8) ≠ r.2) →
              b.dec = 3 ∧ b.cause = 6 ∧ b.lines = [] ∧ t.mem = s.mem) ∧
            (a.begun = false → (∀ r ∈ a.rd, BitVec.ofNat 64 (s.mem.readN r.1 8) = r.2) →
              b.begun = true ∧ b.dec = 1 ∧ t.mem = s.mem) ∧
            (a.begun = true → b.dec = 2 ∧ ∀ y, t.mem.read y = (a.wr.get? y).getD (s.mem.read y))))) ∧
    ∃ t, exec .irrevocabilityTokenGrant s = .next t ∧ t.mem = s.mem ∧ t.cores = s.cores ∧
      ((s.token ≠ none ∨ s.tokenWaiters = []) → t = s) ∧
      (s.token = none → s.tokenWaiters ≠ [] → ∃ o ∈ s.tokenWaiters, t.token = some o.2 ∧
        ∀ r ∈ s.tokenWaiters, olderThan r.1 o.1 = false)

/-! ### Deliveries, stores, translation -/

/-- MemoryEventsComplete (R70, R71, R212, R214, R216, R219, R220, R226 to R228, R238): a delivery fills the EMPTY name that
waits for it, and leaves one that has been dropped EXHAUSTED; a load takes the bytes that the L2 holds when its line is free
and its core has no earlier load of the word due, where its L1 has not the word. A store that is performed writes its bytes and no others, and makes its core
the owner of its words. HBM's acknowledgement, the end of a clear, of a page walk and of an invalidation do what they end;
a write of `TR.INV` drops exactly the translations that match. A counted access raises its region's count, which begins again
when it reaches the threshold, with an event due; the event's delivery posts one. That a write of `TR.INV` waits for the one
under way, and that BUSY clears only with no store or load pending on any core and no undoomed transaction with a word in
its sets, are the model's choices (log 36, 37), as is the region's being one of physical addresses (log 88). -/
def Obligations.MemoryEventsComplete : Prop :=
  ∀ (s : State) (core slot ent id region : Nat) (ten : BitVec 4) (vpn : BitVec 40),
    (∃ t, exec (.valueDelivery id) s = .next t ∧ t.mem = s.mem ∧ t.hbm = s.hbm ∧
      ∀ d, s.dlv.find? (fun d => d.id == id) = some d →
        let b := s.boltAt d.core d.slot
        let c := b.regs.getD d.key {}
        let c' := (t.boltAt d.core d.slot).regs.getD d.key {}
        (∀ v tag fl poison, d.bring = .value v tag fl poison → c.pend = id →
          (∀ e ∈ t.dlv, e.id ≠ id) ∧ (t.boltAt d.core d.slot).flags = b.flags ||| fl ∧
          (c.st = .empty → c'.st = .full ∧ c'.tag = tag ∧ c'.cnt = c.cnt ∧ c'.val = v ^^^ c.flip) ∧
          (c.st = .discarding → c' = {})) ∧
        (∀ pa va size tag sg acc, d.bring = .load pa va size tag sg acc →
          (s.canTakeLoad d pa = false → t = s) ∧
          (s.canTakeLoad d pa = true → c.pend = id → c.st = .empty → (s.core d.core).stq = [] → b.staged = false →
            c.flip = 0 → (s.core d.core).l1.has (pa / 8 * 8) = false → c'.st = .full ∧ c'.tag = tag ∧ c'.cnt = c.cnt ∧
            (size = 4 ∨ size = 8 → c'.val = BitVec.ofNat 64 (s.mem.readN pa size))))) ∧
    (∃ t, exec (.storePerformed core) s = .next t ∧
      ((s.core core).stq.find? (fun q => s.canPerform core q) = none → t = s) ∧
      ∀ q, (s.core core).stq.find? (fun q => s.canPerform core q) = some q → q.stg = none →
        (∀ j b, q.bytes[j]? = some b → t.mem.read (q.pa + j) = b) ∧
        (∀ a, a < q.pa ∨ q.pa + q.bytes.length ≤ a → t.mem.read a = s.mem.read a) ∧
        (∀ e ∈ (t.core core).stq, e ∈ (s.core core).stq ∧ e.id ≠ q.id) ∧
        (core < 144 → ∀ w ∈ wordsOf q.pa q.bytes.length, t.owner.getD w 0xFE = core)) ∧
    (∃ t, exec (.writebackAck core) s = .next t ∧ (t.core core).acks = (s.core core).acks.drop 1 ∧ t.mem = s.mem ∧
      t.hbm = s.hbm) ∧
    (∃ t, exec (.cinvAllComplete core slot ent) s = .next t ∧ t.mem = s.mem ∧
      let w := (s.boltAt core slot).sw.getD ent {}
      (w.st = .retry 12 → w.phase = 6 →
        (t.core core).l1 = {} ∧ (t.boltAt core slot).sw.get? ent = some { w with phase := 7 }) ∧
      (w.st ≠ .retry 12 ∨ w.phase ≠ 6 → t = s)) ∧
    (∃ t, exec (.pageWalkComplete core slot ent) s = .next t ∧ t.mem = s.mem ∧
      let b := s.boltAt core slot
      let w := b.sw.getD ent {}
      ∀ va, w.st = .walk va → ((t.boltAt core slot).sw.getD ent {}).st = .ready ∧
        (∀ e, s.ctlbGet (core / 8) b.ten va.toNat = some e → e ∈ (t.core core).tlb) ∧
        (s.ctlbGet (core / 8) b.ten va.toNat = none →
          (∀ e, s.fill b.ten va.toNat = some e → e ∈ (t.core core).tlb ∧ e ∈ t.ctlb.getD (core / 8) []) ∧
          (s.fill b.ten va.toNat = none → (t.core core).tlb = (s.core core).tlb ∧
            (va.toNat / 65536, 8) ∈ ((t.boltAt core slot).sw.getD ent {}).bad))) ∧
    (∃ t u v, exec (.trInvVpn ten vpn) s = .next t ∧ exec (.trInvTenancy ten) s = .next u ∧ exec .trInvAll s = .next v ∧
      (s.trBusy = false → t.trBusy = true ∧ u.trBusy = true ∧ v.trBusy = true ∧ ∀ n e, e ∈ (s.core n).tlb →
        (e ∈ (t.core n).tlb ↔ ¬(e.ten = ten.toNat ∧ e.base ≤ vpn.toNat * 65536 ∧
          vpn.toNat * 65536 < e.base + 2 ^ e.leaf.log)) ∧
        (e ∈ (u.core n).tlb ↔ e.ten ≠ ten.toNat) ∧ e ∉ (v.core n).tlb) ∧
      (s.trBusy = true → t.cores = s.cores ∧ t.trPend = s.trPend ++ [.trInvVpn ten vpn] ∧
        u.trPend = s.trPend ++ [.trInvTenancy ten] ∧ v.trPend = s.trPend ++ [.trInvAll])) ∧
    (∃ t, exec .trInvComplete s = .next t ∧ t.cores = s.cores ∧
      ((∃ n, (s.core n).stq ≠ []) → t.trBusy = s.trBusy) ∧
      ((∃ n m l, ((s.boltAt n m).tx.getD l {}).act = true ∧ ((s.boltAt n m).tx.getD l {}).doom = false ∧
        ((s.boltAt n m).tx.getD l {}).rd ≠ []) → t.trBusy = s.trBusy) ∧
      (s.trBusy = true → (∀ e ∈ s.cores.ents, e.2.stq = []) → NoTx s → s.dlv = [] → t.trBusy = false)) ∧
    (∀ pa, let r := pa / 2 ^ 21
      let n := s.access.getD r 0 + 1
      s.bump pa false = s ∧
      (s.accThr ≠ 0 → s.accThr ≤ n → (s.bump pa true).access.getD r 0 = 0 ∧
        (s.bump pa true).accDue.getD r 0 = s.accDue.getD r 0 + 1 ∧ .accessEvent r ∈ (s.bump pa true).agenda) ∧
      (s.accThr = 0 ∨ n < s.accThr → (s.bump pa true).access.getD r 0 = n ∧ (s.bump pa true).accDue = s.accDue ∧
        (s.bump pa true).agenda = s.agenda)) ∧
    ∃ t, exec (.accessEvent region) s = .next t ∧ t.mem = s.mem ∧ t.cores = s.cores ∧ t.access = s.access ∧
      (s.accDue.getD region 0 ≠ 0 → t.posts = .access region :: s.posts ∧
        t.accDue.getD region 0 = s.accDue.getD region 0 - 1) ∧
      (s.accDue.getD region 0 = 0 → t = s)

/-! ### Barriers -/

/-- BarriersComplete (R270 to R274, R291): `barinit`, `expect`, `arrive`, `arrive.r`, `wait`, `bartest` and `bartest.v` complete
under the conditions of R272 and R273 with the effects of R271 and R291 on the barrier they name, and leave every other
barrier of the panel (R419: one that is read has its single-bit error corrected); where an event would overflow it, or finds an engine's operation counted, they raise 0x10 or 0x2C. A
phase whose arrivals are all in, with no engine operation counted, completes at once. A remote arrival is applied at its
target, and an overflow there sets ERR and is not counted. -/
def Obligations.BarriersComplete : Prop :=
  ∀ (x : Ext) (s : State),
    let ls := s.actLanes x
    let live := s.liveLanes x ls
    let n := x.immF 0 4
    let b := s.panel.bar n
    let here (t : State) : Prop := t.sw.pc = s.nextPc x.len ∧ t.mem = s.mem ∧ SamePreds s t ∧ SameFlags s t ∧ SameControl s t ∧
      ∀ j, j ≠ n → t.panel.bar j = s.panel.bar j
    (Issues s ⟨0x1B3, x.len, x⟩ false → live ≠ [] →
      (b.eng = 0 → ∃ t, exec (.barinit x) s = .next t ∧ here t ∧ SameNames s t ∧ SameDlv s t ∧
        t.panel.bar n = { exp := x.immF 4 14 }) ∧
      (b.eng ≠ 0 → exec (.barinit x) s = .next (raise s 0x2C (BitVec.ofNat 64 n) (maskOf ls)))) ∧
    (Issues s ⟨0x1B5, x.len, x⟩ false → live ≠ [] →
      let e : Int := (b.exp : Int) + (x.imm.extractLsb' 8 14).toInt
      (1 ≤ e ∧ e ≤ 16383 ∧ (b.arr : Int) ≤ e → ∃ t, exec (.expect x) s = .next t ∧ here t ∧ SameNames s t ∧ SameDlv s t ∧
        ((t.panel.bar n).exp : Int) = e ∧ (t.panel.bar n).err = b.err ∧ (t.panel.bar n).eng = b.eng ∧
        ((b.arr : Int) = e ∧ b.eng = 0 → (t.panel.bar n).gen = (b.gen + 1) % 4 ∧ (t.panel.bar n).arr = 0) ∧
        (¬((b.arr : Int) = e ∧ b.eng = 0) → (t.panel.bar n).gen = b.gen ∧ (t.panel.bar n).arr = b.arr)) ∧
      (e < 1 ∨ 16383 < e ∨ e < (b.arr : Int) →
        exec (.expect x) s = .next (raise s 0x10 (BitVec.ofNat 64 n) (maskOf ls)))) ∧
    (∀ p, Issues s ⟨0x1B4, x.len, x⟩ false → (Instr.arrive x).WellFormed → live ≠ [] → s.sw.phase = 0 → s.loadsDue 0 = false →
      s.cc.stq = [] → s.prep x [] (if x.cntN = 0 then [] else [x.dst]) false = .ok p →
      let m := if x.mod.getLsbD 0 then live.length else 1
      (x.mod.getLsbD 1 = false → b.exp ≠ 0 → b.arr + m ≤ b.exp →
        ∃ t, exec (.arrive x) s = .next t ∧ here t ∧ SameDlv s t ∧ (t.panel.bar n).exp = b.exp ∧
          (t.panel.bar n).err = b.err ∧ (t.panel.bar n).eng = b.eng ∧
          (b.arr + m = b.exp ∧ b.eng = 0 → (t.panel.bar n).gen = (b.gen + 1) % 4 ∧ (t.panel.bar n).arr = 0) ∧
          (¬(b.arr + m = b.exp ∧ b.eng = 0) → (t.panel.bar n).gen = b.gen ∧ (t.panel.bar n).arr = b.arr + m) ∧
          (x.cntN ≠ 0 → ∀ l ∈ ls, t.cell x.dst l = { st := .full, cnt := x.cntN, tag := .n32, val := b.genWord }) ∧
          ∀ k, (∀ l ∈ ls, k ≠ s.key x.dst l ∨ x.cntN = 0) → t.cellK k = s.cellK k) ∧
      (x.mod.getLsbD 1 = true → ∀ c q, s.groupPanel s.cur.core s.bolt.panel (x.immF 4 3) = some (c, q) →
        ∃ t r, exec (.arrive x) s = .next t ∧ t.sw.pc = s.nextPc x.len ∧ t.mem = s.mem ∧ t.panel = s.panel ∧
          t.remote = s.remote ++ [r] ∧ r.core = c ∧ r.panel = q ∧ r.bar = n ∧ r.n = m ∧
          (x.cntN ≠ 0 → ∀ l ∈ ls, (t.cell x.dst l).st = .empty ∧ (t.cell x.dst l).cnt = x.cntN))) ∧
    (Issues s ⟨0x1B4, x.len, x⟩ false → live ≠ [] → s.ready x [] (if x.cntN = 0 then [] else [x.dst]) false = .ok ls →
      x.mod.getLsbD 1 = false → b.exp = 0 ∨ b.exp < b.arr + (if x.mod.getLsbD 0 then live.length else 1) →
      exec (.arrive x) s = .next (raise s 0x10 (BitVec.ofNat 64 n) (maskOf ls))) ∧
    (∀ p, Issues s ⟨0x1B6, x.len, x⟩ false → (Instr.waitB x).WellFormed → s.prep x (srcsOf 0x1B6 x) [] false = .ok p →
      let g := if (srcsOf 0x1B6 x).isEmpty then x.immF 4 2 else (p.opnd 1 (ls.headD 0)).val.toNat % 4
      (live = [] ∨ (s.sw.phase = 2 ∨ b.gen % 4 ≠ g ∧ b.err = false) ∧ s.loadsDue 0 = false →
        ∃ t, exec (.waitB x) s = .next t ∧ here t ∧ SameDlv s t ∧ (∀ k, t.cellK k = p.post.cellK k) ∧ 
          t.panel.bar n = if live = [] then b else { b with ecc := 0 }) ∧
      (live ≠ [] → s.sw.phase ≠ 2 → b.gen % 4 = g → exec (.waitB x) s = .next (block (.retry 5) (s.readMyBar x))) ∧
      (live ≠ [] → s.sw.phase ≠ 2 → b.gen % 4 ≠ g → b.err = true →
        exec (.waitB x) s = .next (raise s 0x2B (BitVec.ofNat 64 n) (maskOf ls)))) ∧
    (∀ p, Issues s ⟨0x1B7, x.len, x⟩ false → (Instr.bartest x).WellFormed → x.modN = 0 →
      s.prep x (srcsOf 0x1B7 x) [] false = .ok p → x.immF 6 3 ≠ 0 → s.sw.phase = 0 →
      let g := if (srcsOf 0x1B7 x).isEmpty then x.immF 4 2 else (p.opnd 1 (ls.headD 0)).val.toNat % 4
      b.gen % 4 = g ∨ b.err = false ∧ s.loadsDue 0 = false →
      ∃ t, exec (.bartest x) s = .next t ∧ t.sw.pc = s.nextPc x.len ∧ t.mem = s.mem ∧ SameFlags s t ∧ SameDlv s t ∧
        (∀ k, t.cellK k = p.post.cellK k) ∧ (t.panel.bar n = if ls = [] then b else { b with ecc := 0 }) ∧
        (∀ l ∈ ls, (t.kMask (x.immF 6 3)).getLsbD l = decide (b.gen % 4 ≠ g)) ∧
        ∀ l, l ∉ ls → (t.kMask (x.immF 6 3)).getLsbD l = (s.kMask (x.immF 6 3)).getLsbD l) ∧
    (∀ p, Issues s ⟨0x1B7, x.len, x⟩ false → (Instr.bartest x).WellFormed → x.modN ≠ 0 → s.prep x [] [x.dst] true = .ok p →
      ∃ t, exec (.bartest x) s = .next t ∧ here t ∧ SameDlv s t ∧
        (t.panel.bar n = if ls = [] then b else { b with ecc := 0 }) ∧ ∀ l ∈ ls,
        (t.cell x.dst l).st = .full ∧ (t.cell x.dst l).cnt = x.cntN ∧ (t.cell x.dst l).tag = .n64 ∧
          (t.cell x.dst l).val.extractLsb' 62 2 = BitVec.ofNat 2 b.gen ∧ (t.cell x.dst l).val.getLsbD 61 = b.err ∧
          (t.cell x.dst l).val.extractLsb' 47 14 = BitVec.ofNat 14 b.exp ∧
          (t.cell x.dst l).val.extractLsb' 33 14 = BitVec.ofNat 14 b.arr ∧
          (t.cell x.dst l).val.extractLsb' 25 8 = BitVec.ofNat 8 b.eng ∧ (t.cell x.dst l).val.extractLsb' 0 25 = 0) ∧
    ∃ t, exec .remoteArrival s = .next t ∧ t.mem = s.mem ∧ t.remote = s.remote.drop 1 ∧
      ∀ r rs, s.remote = r :: rs → r.n ≠ 0 → (s.core r.core).panels.has r.panel = true →
        let a := s.barAt r.core r.panel r.bar
        let a' := t.barAt r.core r.panel r.bar
        (a.exp = 0 ∨ a.exp < a.arr + r.n → a'.err = true ∧ a'.arr = a.arr ∧ a'.gen = a.gen) ∧
        (a.exp ≠ 0 → a.arr + r.n ≤ a.exp → a'.err = a.err ∧
          (a.arr + r.n = a.exp ∧ a.eng = 0 → a'.gen = (a.gen + 1) % 4 ∧ a'.arr = 0) ∧
          (¬(a.arr + r.n = a.exp ∧ a.eng = 0) → a'.gen = a.gen ∧ a'.arr = a.arr + r.n))

/-! ### The copy engine -/

/-- CopiesComplete: (R237, R277 to R279, R284, R285, R288) `tcopy`, `tmcast` and `kick` complete at issue, when their operands
pass R279 and the pool and the barrier admit them: one copy for each active lane, or one request list, is queued with the
operands read, the issuing panel and launch, and the stores that it must wait for; no memory changes, and no name but for
the reads. (R287) the head of a core's request lists is served once the stores before it are performed: OP 0 ends the
list; OP 1, 2 and 3 become a copy when the pool has an entry, and one that fails R279 is cut off with status 4; OP 4
arrives at its barrier once the list's copies have ended; OP 5 goes on at ADDR2; a malformed request ends the list with a
record of status 4. -/
def Obligations.CopiesComplete : Prop :=
  (∀ (x : Ext) (s : State) (p : Prep),
    let ls := s.actLanes x
    let here (t : State) : Prop := t.sw.pc = s.nextPc x.len ∧ t.mem = s.mem ∧ SamePreds s t ∧ SameFlags s t ∧ SameDlv s t ∧
      SameControl s t ∧ (∀ k, t.cellK k = p.post.cellK k) ∧ ∀ c, (t.core c).scr = (s.core c).scr
    (∀ (i : Instr) (opc : Nat), (i = .tcopy x ∧ opc = 0x1B0) ∨ (i = .tmcast x ∧ opc = 0x1B1) → i.WellFormed →
      Issues s ⟨opc, x.len, x⟩ false → s.prep x (srcsOf opc x) [] false = .ok p →
      (∀ l ∈ ls, copyFaults opc x s (fun pos => p.opnd pos l) l = []) → s.cc.canEnter s.bolt.prio ls.length = true →
      (opc = 0x1B0 → x.imm.getLsbD 8 = true → s.trayBusy s.cur.core (x.immF 9 6) = false) →
      (opc = 0x1B0 → x.imm.getLsbD 4 = true → (s.panel.bar (x.immF 0 4)).issue ls.length ≠ none) →
      ∃ (t : State) (new : List Copy), exec i s = .next t ∧ here t ∧ t.cc.copies = s.cc.copies ++ new ∧ new.length = ls.length ∧
        ∀ (j l : Nat), ls[j]? = some l → ∃ k : Copy, new[j]? = some k ∧ k.type = (if opc = 0x1B0 then 1 else 2) ∧
          k.kind = (if x.modN = 0 then .ld else if x.modN = 1 then .st else .lin) ∧ k.started = false ∧ k.done = 0 ∧
          k.panel = s.bolt.panel ∧ k.launch = s.bolt.launch ∧ k.ten = s.bolt.ten ∧ k.queue = s.bolt.prio ∧
          k.after = s.serial ∧ k.wrec = (x.imm.getLsbD 5 || s.saving s.cur.core s.bolt.panel) ∧
          k.bar = (if x.imm.getLsbD 4 then some (x.immF 0 4) else none) ∧
          (x.modN = 2 → k.total = (p.opnd 3 l).val.toNat ∧
            (winOf (p.opnd 1 l).val = 0 → k.src = .glob (p.opnd 1 l).val) ∧
            (opc = 0x1B0 → winOf (p.opnd 2 l).val = 0 → k.dst = [.glob (p.opnd 2 l).val])) ∧
          (x.modN ≠ 2 → k.coord.length = x.immF 6 2 + 1 ∧
            (winOf (p.opnd 1 l).val = 0 → k.lay = .glob (p.opnd 1 l).val))) ∧
    ((Instr.kick x).WellFormed → Issues s ⟨0x1B2, x.len, x⟩ false → s.prep x (srcsOf 0x1B2 x) [] false = .ok p → ls ≠ [] →
      (p.opnd 1 0).val.toNat % 64 = 0 → winOf (p.opnd 1 0).val = 2 → s.cc.kicks.length < 8 →
      ∃ t id, exec (.kick x) s = .next t ∧ here t ∧
        t.cc.kicks = s.cc.kicks ++ [{ id := id, panel := s.bolt.panel, addr := (p.opnd 1 0).val, after := s.serial }])) ∧
  (∀ (s : State) (core : Nat) (l : ReqList) (rest : List ReqList) (r : List Byte), (s.core core).kicks = l :: rest →
    s.storesDue core l.after = false → headRequest s core l = .ok (r, s) →
    let op := layN r 0 1
    let next (t : State) (a : Word) : Prop := (t.core core).kicks = { l with addr := a } :: rest
    (badRequest r = true → ∃ t, exec (.requestEnd core) s = .next t ∧ (t.core core).kicks = rest ∧ t.mem = s.mem ∧
      ∃ d, t.posts = .done d :: s.posts ∧ d.type = 3 ∧ d.status = 4 ∧ d.seq = l.id) ∧
    (badRequest r = false → op = 0 → ∃ t, exec (.requestEnd core) s = .next t ∧ (t.core core).kicks = rest ∧
      t.mem = s.mem ∧ t.posts = s.posts) ∧
    (∀ i, badRequest r = false → (i = .requestLd core ∧ op = 1) ∨ (i = .requestSt core ∧ op = 2) ∨
        (i = .requestLin core ∧ op = 3) →
      let n := s.launchOf (s.panelAt core l.panel).launch
      (s.core core).canEnter n.prio 1 = true →
      ((layN r 1 1).testBit 6 = true → s.trayBusy core (layN r 2 1) = false) →
      ∃ t, exec i s = .next t ∧ t.mem = s.mem ∧ next t (l.addr + 64) ∧
        (requestFails s core l op r = false → ∃ k, (t.core core).copies = (s.core core).copies ++ [k] ∧ k.type = 3 ∧
          k.kind = (if op = 1 then .ld else if op = 2 then .st else .lin) ∧ k.list = some l.id ∧ k.after = l.after ∧
          k.panel = l.panel ∧ k.queue = n.prio ∧ k.started = false ∧ t.posts = s.posts) ∧
        (requestFails s core l op r = true → ∃ d, .done d ∈ t.posts ∧ d.type = 3 ∧ d.status = 4)) ∧
    (badRequest r = false → op = 4 → (∀ k ∈ (s.core core).copies, k.list ≠ some l.id) →
      ∃ t, exec (.requestArrive core) s = .next t ∧ t.mem = s.mem ∧ next t (l.addr + 64) ∧
        let b := s.barAt core l.panel (layN r 1 1 % 16)
        (b.exp ≠ 0 → b.arr + 1 < b.exp → (t.barAt core l.panel (layN r 1 1 % 16)).arr = b.arr + 1)) ∧
    (badRequest r = false → op = 5 → ∃ t, exec (.requestContinue core) s = .next t ∧ t.mem = s.mem ∧
      next t (BitVec.ofNat 64 (layN r 16 8)) ∧ (t.core core).copies = (s.core core).copies ∧ t.posts = s.posts))

/-- CopyEngineCompletes (R237, R238, R280, R282, R283, R285, R286): a queue register takes a value that keeps the set valid,
and no other. A copy starts once the stores before it are performed, and holds the lines of its destination whose
translation stands (that those of a page that comes later are held when it comes is the model's choice: log 33). A chunk of a copy
between scratchpads brings the source's bytes to the destination; the last one ends the copy. A copy that is cut off leaves
the pool, posts its status and sets ERR at its barrier; a page that has come lets it go on; a multicast's command reaches its
receiver. -/
def Obligations.CopyEngineCompletes : Prop :=
  ∀ (s : State) (core id : Nat),
    (∀ (which : Nat) (value : Word), which < 12 →
      (∀ j < 4, (s.core core).cqMinOf j ≤ (s.core core).cqCapOf j ∧ (s.core core).cqCapOf j ≤ 128 ∧
        2048 ≤ (s.core core).cqQuantOf j) →
      (s.core core).cqMinOf 0 + (s.core core).cqMinOf 1 + (s.core core).cqMinOf 2 + (s.core core).cqMinOf 3 ≤ 128 →
      ∃ t, exec (.cqQueueWrite core which value) s = .next t ∧ t.mem = s.mem ∧ t.posts = s.posts ∧
        let q := which % 4
        let v := value.toNat % 256
        let sum := (s.core core).cqMinOf 0 + (s.core core).cqMinOf 1 + (s.core core).cqMinOf 2 + (s.core core).cqMinOf 3
        (∀ j, (t.core core).cqMinOf j = if which < 4 ∧ j = q ∧ sum - (s.core core).cqMinOf q + v ≤ 128 ∧
          v ≤ (s.core core).cqCapOf q then v else (s.core core).cqMinOf j) ∧
        (∀ j, (t.core core).cqCapOf j = if 4 ≤ which ∧ which < 8 ∧ j = q ∧ (s.core core).cqMinOf q ≤ v ∧ v ≤ 128 then v
          else (s.core core).cqCapOf j) ∧
        ∀ j, (t.core core).cqQuantOf j = if 8 ≤ which ∧ j = q ∧ 2048 ≤ value.toNat % 2 ^ 20 then value.toNat % 2 ^ 20
          else (s.core core).cqQuantOf j) ∧
    (∀ k, s.copyAt core id = some k →
      ((k.started = true ∨ k.page ≠ none ∨ s.storesDue core k.after = true) → exec (.copyStart core id) s = .next s) ∧
      (∀ va lines, k.started = false → k.page = none → s.storesDue core k.after = false → k.recv = [] → k.kind = .lin →
        k.stg = none → k.dst = [.glob va] → s.inMove k.ten va.toNat k.total = false →
        lines = engLines s (k.who core) [(va.toNat, k.total)] → (∀ h ∈ s.holds, h.2 ≠ opKey 0 core id) →
        s.engWaits lines = false → s.canHold (opKey 0 core id) lines = true →
        ∃ t, exec (.copyStart core id) s = .next t ∧ t.mem = s.mem ∧ t.copyAt core id = some { k with started := true } ∧
          ∀ l ∈ lines, (l, opKey 0 core id) ∈ t.holds) ∧
      (∀ status, status ≠ 0 → ∃ t, exec (.copyCutOff core id status) s = .next t ∧ t.mem = s.mem ∧ t.copyAt core id = none ∧
        (k.type ≠ 2 → ∃ r, .done r ∈ t.posts ∧ r.type = k.type ∧ r.status = status ∧ r.source = core ∧ r.seq = id ∧
          r.object = k.launch ∧ r.progress = min (2048 * k.done) k.total ∧ r.time = s.hb) ∧
        ∀ i, k.type ≠ 2 → k.counted = true → k.bar = some i → (s.core core).panels.has k.panel = true →
          (t.barAt core k.panel i).err = true) ∧
      (∃ t, exec (.copyResume core id) s = .next t ∧ t.mem = s.mem ∧ t.copyAt core id = some { k with page := none }) ∧
      ∀ r ∈ k.recv, ∃ t k', exec (.multicastCommandArrival core id r.core) s = .next t ∧ t.mem = s.mem ∧
        t.copyAt core id = some k' ∧ (r.reached = false → ∀ r' ∈ k'.recv, r'.core = r.core → r'.reached = true)) ∧
    ((s.core core).chunkNext = none → exec (.copyChunkLand core) s = .next s) ∧
    ∀ k c a ao d off, (s.core core).chunkNext = some (k, c) → s.copyAt core k.id = some k → k.kind = .lin →
      k.tray = none → k.type ≠ 2 → k.src = .scr a ao → k.dst = [.scr d off] → (∀ n, (s.core n).scrEcc = {}) →
      let c0 := 2048 * k.done
      let c1 := min k.total (c0 + 2048)
      copyFits s k c1 = true →
      ∃ t, exec (.copyChunkLand core) s = .next t ∧ t.mem = s.mem ∧
        (∀ j, c0 + j < c1 → (t.core d).scr.read (off + c0 + j) = (s.core a).scr.read (ao + c0 + j)) ∧
        (∀ j, j < off + c0 ∨ off + c1 ≤ j → c0 ≤ c1 → (t.core d).scr.read j = (s.core d).scr.read j) ∧
        (c1 = k.total → t.copyAt core k.id = none) ∧
        (c1 ≠ k.total → t.copyAt core k.id = some { k with done := k.done + 1 })

/-! ### The matrix engine -/

/-- MatrixFormsComplete (R294, R295, R298, R304, R307 to R314): `claim` gives the panel the trays or regions of its run, zeroed
where it did not hold them; `release` gives them back, `acczero` zeroes its regions under a tag; `mload` stores each active
lane's value in a tray, `accrd` and `accwr` read and write elements of a region; `mma`, `mmac` and `accst` join the engine's
queue with the operands of their lowest active lane. Each completes when the trays and regions that it names are the
panel's and free, and its operands pass their checks; no byte of memory changes. -/
def Obligations.MatrixFormsComplete : Prop :=
  ∀ (x : Ext) (s : State),
    let ls := s.actLanes x
    let me := s.bolt.panel
    let run (t : Nat) : Bool := decide (x.immF 6 6 ≤ t ∧ t < x.immF 6 6 + (x.immF 0 6 + 1))
    let hi := x.immF 16 6
    let here (t : State) : Prop := t.sw.pc = s.nextPc x.len ∧ t.mem = s.mem ∧ SamePreds s t ∧ SameFlags s t ∧ SameDlv s t ∧
      SameControl s t ∧ ∀ c, (t.core c).scr = (s.core c).scr
    (Issues s ⟨0x1C0, x.len, x⟩ false → ls ≠ [] →
      (x.modN = 0 → (∀ t, run t = true → s.cc.trayOwn.get? t = none ∨ s.cc.trayOwn.get? t = some me) →
        ∃ t, exec (.claim x) s = .next t ∧ here t ∧ SameNames s t ∧
          (∀ k, t.cc.trayOwn.get? k = if run k then some me else s.cc.trayOwn.get? k) ∧
          ∀ k j, j < 4096 → t.cc.tray.read (4096 * k + j) =
            if run k = true ∧ s.cc.trayOwn.get? k = none then 0 else s.cc.tray.read (4096 * k + j)) ∧
      (x.modN ≠ 0 → (∀ t, run t = true → s.cc.regOwn.get? t = none ∨ s.cc.regOwn.get? t = some me) →
        ∃ t, exec (.claim x) s = .next t ∧ here t ∧ SameNames s t ∧
          (∀ k, t.cc.regOwn.get? k = if run k then some me else s.cc.regOwn.get? k) ∧
          ∀ k, run k = true → s.cc.regOwn.get? k = none → t.cc.regTag k = .f32 ∧ ∀ j < 1024, t.cc.acc.getD (1024 * k + j) 0 = 0)) ∧
    (Issues s ⟨0x1C1, x.len, x⟩ false → ls ≠ [] →
      (x.modN = 0 → (∀ t, run t = true → s.cc.trayOwn.get? t = some me ∧ s.trayBusy s.cur.core t = false) →
        ∃ t, exec (.release x) s = .next t ∧ here t ∧ SameNames s t ∧ t.cc.tray = s.cc.tray ∧
          ∀ k, t.cc.trayOwn.get? k = if run k then none else s.cc.trayOwn.get? k) ∧
      (x.modN ≠ 0 → (∀ t, run t = true → s.cc.regOwn.get? t = some me ∧ s.regInUse s.cur.core t = false) →
        ∃ t, exec (.release x) s = .next t ∧ here t ∧ SameNames s t ∧ t.cc.acc = s.cc.acc ∧
          ∀ k, t.cc.regOwn.get? k = if run k then none else s.cc.regOwn.get? k) ∧
      (∀ k, x.modN = 0 → x.immF 0 6 = 0 → k = x.immF 6 6 → s.cc.trayOwn.get? k ≠ some me →
        exec (.release x) s = .next (raise s 0x0E (BitVec.ofNat 64 k) (s.failMask x ls)))) ∧
    (Issues s ⟨0x1C7, x.len, x⟩ false → ls ≠ [] →
      (∀ t, run t = true → s.cc.regOwn.get? t = some me ∧ s.regInUse s.cur.core t = false) →
      ∃ t, exec (.acczero x) s = .next t ∧ here t ∧ SameNames s t ∧ t.cc.regOwn = s.cc.regOwn ∧
        ∀ k, (run k = true → t.cc.regTag k = (if x.fmt = .s32 then .s32 else .f32) ∧
            ∀ j < 1024, t.cc.acc.getD (1024 * k + j) 0 = 0) ∧
          (run k = false → t.cc.regTag k = s.cc.regTag k ∧
            ∀ j < 1024, t.cc.acc.getD (1024 * k + j) 0 = s.cc.acc.getD (1024 * k + j) 0)) ∧
    (∀ p, Issues s ⟨0x1C2, x.len, x⟩ false → (Instr.mload x).WellFormed → s.prep x (srcsOf 0x1C2 x) [] false = .ok p →
      (∀ l ∈ ls, x.immF 0 12 + 4 * l + 4 ≤ 4096) → s.cc.trayOwn.get? hi = some me → s.trayBusy s.cur.core hi = false →
      ∃ t, exec (.mload x) s = .next t ∧ here t ∧ (∀ k, t.cellK k = p.post.cellK k) ∧
        (∀ l ∈ ls, t.cc.tray.readN (4096 * hi + (x.immF 0 12 + 4 * l)) 4 = (p.opnd 1 l).val.toNat % 2 ^ 32) ∧
        ∀ a, (∀ l ∈ ls, a < 4096 * hi + (x.immF 0 12 + 4 * l) ∨ 4096 * hi + (x.immF 0 12 + 4 * l) + 4 ≤ a) →
          t.cc.tray.read a = s.cc.tray.read a) ∧
    (∀ p, Issues s ⟨0x1C5, x.len, x⟩ false → (Instr.accrd x).WellFormed →
      s.prep x (srcsOf 0x1C5 x) [x.dst] false = .ok p →
      let ix (l : Nat) : Nat := if (srcsOf 0x1C5 x).isEmpty then 32 * x.immF 0 5 + l % 32 else (p.opnd 1 l).val.toNat % 2 ^ 32
      (∀ l ∈ ls, ix l < 1024) → s.cc.regOwn.get? hi = some me → s.cc.regTag hi = x.fmt →
      s.regInUse s.cur.core hi = false → s.cc.accEcc = {} →
      ∃ t, exec (.accrd x) s = .next t ∧ here t ∧ t.cc.acc = s.cc.acc ∧
        (∀ l ∈ ls, t.cell x.dst l = { st := .full, cnt := x.cntN, tag := x.fmt
                                      val := (s.cc.acc.getD (1024 * hi + ix l) 0).setWidth 64 }) ∧
        ∀ k, (∀ l ∈ ls, k ≠ s.key x.dst l) → t.cellK k = p.post.cellK k) ∧
    (∀ p, Issues s ⟨0x1C6, x.len, x⟩ false → (Instr.accwr x).WellFormed →
      s.prep x (srcsOf 0x1C6 x) [] false = .ok p → ls ≠ [] →
      let ix (l : Nat) : Nat := if (srcsOf 0x1C6 x).any (fun r => r.pos == 2) then (p.opnd 2 l).val.toNat % 2 ^ 32
        else 32 * x.immF 0 5 + l % 32
      (∀ l ∈ ls, ix l < 1024) → s.cc.regOwn.get? hi = some me → (x.modN = 1 ∨ s.cc.regTag hi = x.fmt) →
      s.regInUse s.cur.core hi = false →
      ∃ t, exec (.accwr x) s = .next t ∧ here t ∧ (∀ k, t.cellK k = p.post.cellK k) ∧ t.cc.regTag hi = x.fmt ∧
        (∀ l ∈ ls, (∀ l' ∈ ls, l < l' → ix l' ≠ ix l) →
          t.cc.acc.getD (1024 * hi + ix l) 0 = (p.opnd 1 l).val.setWidth 32) ∧
        ∀ k, (∀ l ∈ ls, k ≠ 1024 * hi + ix l) → t.cc.acc.getD k 0 = s.cc.acc.getD k 0) ∧
    (∀ (i : Instr) (opc : Nat) (p : Prep), (i = .mma x ∧ opc = 0x1C3) ∨ (i = .mmac x ∧ opc = 0x1C4) → i.WellFormed →
      Issues s ⟨opc, x.len, x⟩ false → s.prep x (srcsOf opc x) [] false = .ok p → ls ≠ [] →
      let d := (p.opnd 2 (ls.headD 0)).val
      let g := x.immF 10 6
      let ck : Bool := opc == 0x1C3 && x.mod.getLsbD 1
      let want : Tag := if x.fmt = .s8x4 then .s32 else .f32
      descBad d x.fmt (opc == 0x1C4) ck = false →
      (∀ t ∈ [x.immF 16 6, dTB d] ++ (if dSC d then [dTS d] else []), s.cc.trayOwn.get? t = some me) →
      s.cc.regOwn.get? g = some me → s.cc.regTag g = want →
      (x.mod.getLsbD 0 = true → s.cur.core % 2 = 0 ∧ ∃ fc fp, s.farPanel = some (fc, fp) ∧
        (∀ t ∈ [x.immF 16 6] ++ (if dSC d then [dTS d] else []), (s.core fc).trayOwn.get? t = some fp) ∧
        (s.core fc).regOwn.get? g = some fp ∧ (s.core fc).regTag g = want ∧ ∀ q ∈ s.cc.mxq, q.pair = false) →
      (x.fmt = .pb2x2 ∨ tagOfCode (dBfmt d) = .pb2x2 → s.cc.psOwner = none ∨ s.cc.psOwner = some s.bolt.launch) →
      (x.imm.getLsbD 4 = true → (s.panel.bar (x.immF 0 4)).issue 1 ≠ none) → s.cc.mxq.length < 8 →
      s.slaving s.cur.core = [] →
      ∃ t o, exec i s = .next t ∧ here t ∧ (∀ k, t.cellK k = p.post.cellK k) ∧ t.cc.mxq = s.cc.mxq ++ [o] ∧
        o.kind = (if opc = 0x1C3 then 0 else 1) ∧ o.afmt = x.fmt ∧ o.desc = d ∧ o.ta = x.immF 16 6 ∧ o.region = g ∧
        o.pair = x.mod.getLsbD 0 ∧ o.ck = ck ∧ o.started = false ∧ o.step = 0 ∧ o.panel = me ∧
        o.launch = s.bolt.launch ∧ o.after = s.serial ∧ t.cc.acc = s.cc.acc) ∧
    ∀ p, Issues s ⟨0x1C8, x.len, x⟩ false → (Instr.accst x).WellFormed → s.prep x (srcsOf 0x1C8 x) [] false = .ok p →
      ls ≠ [] →
      let a := (p.opnd 1 (ls.headD 0)).val
      let pitch := (p.opnd 2 (ls.headD 0)).val.toNat
      let row := if x.fmt = .f32 ∨ x.fmt = .s32 then 128 else 64
      a.toNat % 16 = 0 → pitch % 16 = 0 → row ≤ pitch →
      (winOf a = 0 ∧ a.toNat + (31 * pitch + row) ≤ 2 ^ 56 ∨
        winOf a = 2 ∧ winOff a + (31 * pitch + row) ≤ s.panel.scrSize ∧ winOff a + (31 * pitch + row) ≤ 0x400000) →
      s.cc.regOwn.get? hi = some me → s.cc.regTag hi = (if x.fmt = .s32 then .s32 else .f32) →
      (x.imm.getLsbD 4 = true → (s.panel.bar (x.immF 0 4)).issue 1 ≠ none) → s.cc.mxq.length < 8 →
      s.slaving s.cur.core = [] →
      ∃ t o, exec (.accst x) s = .next t ∧ here t ∧ (∀ k, t.cellK k = p.post.cellK k) ∧ t.cc.mxq = s.cc.mxq ++ [o] ∧
        o.kind = 2 ∧ o.region = hi ∧ o.pitch = pitch ∧ o.started = false ∧ o.wrec = x.imm.getLsbD 5 ∧
        (winOf a = 0 → o.dst = .glob a) ∧ (winOf a = 2 → o.dst = .scr s.cur.core (s.panel.scrOff + winOff a))

/-- MatrixEngineCompletes (R283, R298, R301, R303, R312, R314, R315): an `accst` whose rows the engine can register is taken
up and holds their lines; else the next operation that may start does, and an `accst` reads its region; a K-step of an
`mma` on one core, without a checksum, gives each cell of its region the sum of its products and, but for a first step
without ACC, of its old value, exactly in S32 and by the window sum of R301 in F32, and no other word of the core's regions
changes (the cells of `mmac`, of a pair and of a checksum step are not stated); an operation whose next step would read damage is
cut off with status 5, its cells NaN or 0; an `accst` writes its rows one by one to scratchpad or global memory, or stops
at a missing page; that one which has stopped there is cut off with status 1 when the event of an operation cut off comes with no
damage to be read, Goloc's ending of its launch, is the model's choice (log 92, DEDUCED from R283: R315 and R410 have a
cancel leave it); the oldest operation retires once it is over. -/
def Obligations.MatrixEngineCompletes : Prop :=
  ∀ (s : State) (core : Nat), let c := s.core core
    let none_ : Prop := ∀ o ∈ c.mxq, MxOp.takes s core o = none
    (∀ o, c.mxq.find? (fun o => (MxOp.takes s core o).isSome) = some o →
      ∃ t, exec (.matrixOpStart core) s = .next t ∧ t.mem = s.mem ∧ (t.core core).acc = c.acc ∧
        (∃ q ∈ (t.core core).mxq, q = { o with held := true }) ∧
        ∀ l ∈ engLines s (o.who core) (accstRows o 0), (l, opKey 1 core o.id) ∈ t.holds) ∧
    (none_ → c.nextMx = none → exec (.matrixOpStart core) s = .next s) ∧
    (∀ o, none_ → c.nextMx = some o → o.kind ≠ 2 → canStartMx s core o = true → o.pb = false →
      ∃ t, exec (.matrixOpStart core) s = .next t ∧ t.mem = s.mem ∧ (t.core core).acc = c.acc ∧
        ∃ q ∈ (t.core core).mxq, q.id = o.id ∧ q.started = true ∧ q.step = o.step ∧ q.desc = o.desc) ∧
    (∀ o, none_ → c.nextMx = some o → o.kind = 2 → canStartMx s core o = true → o.pb = false → c.accEcc = {} →
      ∃ t, exec (.matrixOpStart core) s = .next t ∧ t.mem = s.mem ∧
        ∃ q ∈ (t.core core).mxq, q.id = o.id ∧ q.started = true ∧
          ∀ j < 1024, q.rows[j]? = some (c.acc.getD (1024 * o.region + j) 0)) ∧
    let ended (o : MxOp) : Bool := o.page.isSome
    (c.stepping = none → exec (.matrixKStep core) s = .next s ∧
      (c.mxq.find? ended = none → exec (.matrixCutOff core) s = .next s) ∧
      ∀ o, c.mxq.find? ended = some o → ∃ t, exec (.matrixCutOff core) s = .next t ∧ t.mem = s.mem ∧
        (∀ q ∈ (t.core core).mxq, q.id ≠ o.id) ∧
        ∃ d, .done d ∈ t.posts ∧ d.type = 0x10 + o.kind ∧ d.status = 1 ∧ d.seq = o.id ∧
          (o.kind = 2 → d.progress = rowBytes o.afmt * o.step)) ∧
    (∀ o, c.stepping = some o → stepBad s core o = true → exec (.matrixKStep core) s = .next s ∧
      ∃ t, exec (.matrixCutOff core) s = .next t ∧ t.mem = s.mem ∧ (∀ q ∈ (t.core core).mxq, q.id ≠ o.id) ∧
        (∀ i j, i < 32 → j < 32 → o.ck = false →
          (t.core core).acc.getD (1024 * o.region + (32 * i + j)) 0 = (if o.afmt = .s8x4 then 0 else 0x7FC00000#32)) ∧
        ∃ d, .done d ∈ t.posts ∧ d.type = 0x10 + o.kind ∧ d.status = 5 ∧ d.seq = o.id ∧ d.progress = o.step) ∧
    (∀ o, c.stepping = some o → stepBad s core o = false → o.kind = 0 → o.ck = false → o.pair = false → c.trayEcc = {} →
      c.accEcc = {} →
      ∃ t, exec (.matrixKStep core) s = .next t ∧ (c.mxq.find? ended = none → exec (.matrixCutOff core) s = .next s) ∧
        t.mem = s.mem ∧
        (t.core core).tray = c.tray ∧ (∃ q ∈ (t.core core).mxq, q.id = o.id ∧ q.step = o.step + 1) ∧
        let n := Mx.kc o.afmt
        let a := o.sideA c
        let b := o.sideB c
        (∀ i j, i < 32 → j < 32 →
          let old := if o.step = 0 ∧ dACC o.desc = false then 0 else c.acc.getD (1024 * o.region + (32 * i + j)) 0
          (t.core core).acc.getD (1024 * o.region + (32 * i + j)) 0 =
            if o.afmt = .s8x4 then
              BitVec.ofInt 32 (((List.range n).map (fun k => a.int i (o.step * n + k) * b.int j (o.step * n + k))).foldl (· + ·)
                (old.toNat : Int))
            else BitVec.ofNat 32 (Mx.windowSum ((List.range n).map (fun k =>
              Mx.mul (a.at o.lead i (o.step * n + k)) (b.at o.lead j (o.step * n + k))) ++ [Fp.f32.decode old.toNat]))) ∧
        ∀ k, k / 1024 ≠ o.region → (t.core core).acc.getD k 0 = c.acc.getD k 0) ∧
    (c.mxq.find? (fun o => o.kind == 2 && o.started && o.page.isNone && decide (o.step < 32)) = none →
      exec (.accstRow core) s = .next s) ∧
    (∀ o d off, c.mxq.find? (fun o => o.kind == 2 && o.started && o.page.isNone && decide (o.step < 32)) = some o →
      o.dst = .scr d off → ∃ t, exec (.accstRow core) s = .next t ∧ t.mem = s.mem ∧
        (∀ j b, (rowData o o.step)[j]? = some b → (t.core d).scr.read (off + o.step * o.pitch + j) = b) ∧
        ∃ q ∈ (t.core core).mxq, q.id = o.id ∧ q.step = o.step + 1) ∧
    (∀ o va r, c.mxq.find? (fun o => o.kind == 2 && o.started && o.page.isNone && decide (o.step < 32)) = some o →
      o.dst = .glob va → s.register (opKey 1 core o.id) (o.who core) (accstRows o o.step) = some r →
      (∀ u, engWrite r (o.who core) (va.toNat + o.step * o.pitch) (rowData o o.step) = .ok u →
        ∃ t, exec (.accstRow core) s = .next t ∧ t.mem = u.mem ∧ ∃ q ∈ (t.core core).mxq, q.id = o.id ∧ q.step = o.step + 1) ∧
      ∀ v, engWrite r (o.who core) (va.toNat + o.step * o.pitch) (rowData o o.step) = .error (.page v) →
        ∃ t, exec (.accstRow core) s = .next t ∧ t.mem = s.mem ∧ .page 2 core o.id v ∈ t.posts ∧
          ∃ q ∈ (t.core core).mxq, q = { o with page := some v }) ∧
    (∃ t, exec (.accstResume core) s = .next t ∧ t.mem = s.mem ∧
      ∀ o, c.mxq.find? (fun o => o.page.isSome) = some o → ∃ q ∈ (t.core core).mxq, q = { o with page := none }) ∧
    ∃ t, exec (.matrixRetire core) s = .next t ∧ t.mem = s.mem ∧
      (c.mxq = [] → t = s) ∧
      ∀ o r, c.mxq = o :: r → (o.over = false → t = s) ∧ (o.over = true → (∀ q ∈ (t.core core).mxq, q ∈ r ∧ q.id ≠ o.id) ∧
        (o.wrec = false → t.posts = s.posts))

/-! ### Relocation -/

/-- RelocateAndUnpickComplete (R325, R336, R337): `relocate` whose tiles pass R336, with places free in the engine, makes
one move for each active lane and sets M in the tack entries of its two tiles; one that has waited for its places goes on
when its last move has entered the engine. `unpick` whose array passes R337, with a place free, sends its sweep and leaves
its destination EMPTY under it. No other byte of memory changes, and no name but for the reads. -/
def Obligations.RelocateAndUnpickComplete : Prop :=
  ∀ (x : Ext) (s : State) (p : Prep),
    let ls := s.actLanes x
    let die := s.cur.core / Config.coresPerDie
    let tab (k : Nat) : Nat := (s.tenOf s.ten).ttab + 16 * k
    let here (t : State) : Prop := t.sw.pc = s.nextPc x.len ∧ SamePreds s t ∧ SameFlags s t ∧ SameControl s t
    let fits (va : Word) (e : TlbEnt) : Prop := e.leaf.pa + va.toNat % 2 ^ e.leaf.log + 65536 ≤ Config.hbmBytes
    ((Instr.relocate x).WellFormed → Issues s ⟨0x1D0, x.len, x⟩ false → s.sw.phase ≠ 11 → s.bolt.staged = false →
      s.prep x (srcsOf 0x1D0 x) [] false = .ok p → s.sw.bad = [] → (s.tenOf s.ten).rootEn = true →
      ∀ (tx ty : Nat → Nat),
      let a (l : Nat) : Word := (p.opnd 1 l).val
      let b (l : Nat) : Word := (p.opnd 2 l).val
      (∀ l ∈ ls, (a l).toNat % 65536 = 0 ∧ (b l).toNat % 65536 = 0 ∧ winOf (a l) = 0 ∧ winOf (b l) = 0 ∧ a l ≠ b l ∧
        s.tileOf s.ten (a l).toNat = some (tx l) ∧ s.tileOf s.ten (b l).toNat = some (ty l) ∧
        (∃ e, s.cc.tlbGet s.ten (a l).toNat = some e ∧ fits (a l) e ∧ e.leaf.rd = true ∧ e.leaf.movable = true) ∧
        (∃ e, s.cc.tlbGet s.ten (b l).toNat = some e ∧ fits (b l) e ∧ e.leaf.w = true ∧ e.leaf.movable = true) ∧
        (let e := s.tack s.ten (tx l); tackPin e = 0 ∧ tackT e = false ∧ tackM e = false ∧ tackIn e ≠ 4) ∧
        (let e := s.tack s.ten (ty l); tackPin e = 0 ∧ tackT e = false ∧ tackM e = false ∧ tackIn e = 0) ∧
        ∀ l' ∈ ls, l' ≠ l → a l' ≠ a l ∧ b l' ≠ a l ∧ b l' ≠ b l) →
      (x.imm.getLsbD 4 = true → (s.panel.bar (x.immF 0 4)).issue ls.length ≠ none) →
      (s.relOn die).length + ls.length ≤ 40 → s.relFree die ≠ 0 → (∀ r ∈ s.rel, r.die = die → r.entered = true) →
      ∃ t, exec (.relocate x) s = .next t ∧ here t ∧ SameDlv s t ∧ (∀ k, t.cellK k = p.post.cellK k) ∧
        t.rel.length = s.rel.length + ls.length ∧
        (∀ l ∈ ls, tackM (t.tack s.ten (tx l)) = true ∧ tackM (t.tack s.ten (ty l)) = true ∧
          ∃ o ∈ t.rel, o.sweep = false ∧ o.x = tx l ∧ o.y = ty l ∧ o.ten = s.ten ∧ o.entered = true ∧ o.die = die ∧
            o.after = s.serial ∧ o.holders = x.immF 8 12) ∧
        ∀ m, (∀ l ∈ ls, (m < tab (tx l) ∨ tab (tx l) + 8 ≤ m) ∧ (m < tab (ty l) ∨ tab (ty l) + 8 ≤ m)) →
          t.mem.read m = s.mem.read m) ∧
    ((Instr.relocate x).WellFormed → Issues s ⟨0x1D0, x.len, x⟩ false → s.sw.phase = 11 →
      (∀ r ∈ s.rel, r.id = s.sw.hold.toNat → r.entered = true) →
      ∃ t, exec (.relocate x) s = .next t ∧ Goes s t (s.nextPc x.len) ∧ SameBolt s t) ∧
    ((Instr.unpick x).WellFormed → Issues s ⟨0x1D1, x.len, x⟩ false → s.bolt.staged = false → ls ≠ [] →
      s.prep x (srcsOf 0x1D1 x) [x.dst] false = .ok p →
      let a := (p.opnd 1 0).val
      let k := (p.opnd 2 0).val.toNat % 2 ^ 32
      a.toNat % 8 = 0 → k ≠ 0 → k < 2 ^ 20 → (winOf a = 0 ∧ a.toNat + 8 * k ≤ 2 ^ 56 ∨
        winOf a = 2 ∧ winOff a + 8 * k ≤ s.panel.scrSize) → s.relFree die ≠ 0 →
      ∃ t o, exec (.unpick x) s = .next t ∧ here t ∧ t.mem = s.mem ∧ t.rel = s.rel ++ [o] ∧ o.sweep = true ∧ o.n = k ∧
        (winOf a = 0 → o.arr = .glob a) ∧ o.ten = s.ten ∧ (t.cell x.dst 0).st = .empty ∧ (t.cell x.dst 0).tag = .n32 ∧
        (t.cell x.dst 0).cnt = x.cntN ∧ (t.cell x.dst 0).pend = o.dlv ∧
        ∀ k, k ≠ s.key x.dst 0 → t.cellK k = p.post.cellK k)

/-- TackqAndPinsComplete (R333, R338, R339): `tackq` gives each active lane the address reached from its address by at most
four tacks, or the word of R338: PIN, MOVING and IN of the tile reached, the tacks followed, whether its first tile is
tacked, whether the address lies in a movable tile, and whether a fifth tack exists; outside the global window it gives the
address itself, or 0. `pin` and `unpin` raise and lower the PIN of the tile that each lane's access ends in, by one for each
lane, where no such tile moves or is tacked, and `pin` gives the address reached; when some lane's would pass a limit, they
raise 0x2F with sub-code 7 or 6, those lanes recorded, and nothing is pinned. No other byte of memory changes, and no name
but the destination and for the reads. -/
def Obligations.TackqAndPinsComplete : Prop :=
  ∀ (x : Ext) (s : State) (p : Prep),
    let ls := s.actLanes x
    let tab (k : Nat) : Nat := (s.tenOf s.ten).ttab + 16 * k
    let here (t : State) : Prop := t.sw.pc = s.nextPc x.len ∧ SamePreds s t ∧ SameFlags s t ∧ SameControl s t
    ((Instr.tackq x).WellFormed → Issues s ⟨0x1D2, x.len, x⟩ false →
      s.prep x (srcsOf 0x1D2 x) [x.dst] (x.modN == 0) = .ok p →
      let va (l : Nat) : Word := (p.opnd 1 l).val + memOff 0x1D2 x
      ∃ t, exec (.tackq x) s = .next t ∧ here t ∧ t.mem = s.mem ∧
        ((∀ l ∈ ls, (tackqVal x s (va l)).2 = true) → Frame s t) ∧
        (∀ l ∈ ls, ∃ v, (t.cell x.dst l).cnt = x.cntN ∧ (t.cell x.dst l).tag = (if x.modN = 0 then .n64 else .n32) ∧
          ((t.cell x.dst l).st = .full ∧ (t.cell x.dst l).val = v ∨ (t.cell x.dst l).st = .empty ∧
            ∃ d ∈ t.dlv, d.id = (t.cell x.dst l).pend ∧ ∃ tag, d.bring = .value v tag 0 false) ∧
          (winOf (va l) ≠ 0 → v = if x.modN = 0 then va l else 0) ∧
          (winOf (va l) = 0 → ∀ (n : Nat) (at_ : Nat → Nat),
            let tacked (a z : Nat) : Prop := ∃ e k, s.fill s.ten a = some e ∧ e.tack = some k ∧
              z = s.tileAddr s.ten k + a % 65536
            at_ 0 = (va l).toNat → n ≤ 4 → (∀ i < n, tacked (at_ i) (at_ (i + 1))) →
            (n < 4 → ∀ z, ¬tacked (at_ n) z) →
            let e := match s.movableAt s.ten (at_ n) with
              | some t => s.tack s.ten t
              | none => 0
            (x.modN = 0 → v = BitVec.ofNat 64 (at_ n)) ∧
            (x.modN ≠ 0 → v.extractLsb' 0 16 = BitVec.ofNat 16 (tackPin e) ∧ v.getLsbD 16 = tackM e ∧
              (v.getLsbD 17 = true ↔ n ≠ 0) ∧ v.getLsbD 18 = (s.movableAt s.ten (va l).toNat).isSome ∧
              (v.getLsbD 19 = true ↔ ∃ z, tacked (at_ n) z) ∧ v.extractLsb' 20 4 = BitVec.ofNat 4 n ∧
              v.extractLsb' 24 3 = BitVec.ofNat 3 (tackIn e) ∧ v.extractLsb' 27 37 = 0))) ∧
        ∀ k, (∀ l ∈ ls, k ≠ s.key x.dst l) → t.cellK k = p.post.cellK k) ∧
    ∀ (i : Instr) (opc : Nat) (za : Nat → Nat), (i = .pin x ∧ opc = 0x1D3) ∨ (i = .unpin x ∧ opc = 0x1D4) → i.WellFormed →
      Issues s ⟨opc, x.len, x⟩ false → Outright s x →
      let dsts := if opc = 0x1D3 ∧ x.cntN ≠ 0 then [x.dst] else []
      s.prep x (srcsOf opc x) dsts true = .ok p →
      let va (l : Nat) : Word := (p.opnd 1 l).val + memOff opc x
      let tile (l : Nat) : Option Nat := if winOf (va l) = 0 then s.movableAt s.ten (za l) else none
      let pairs := ls.filterMap (fun l => (tile l).map (fun k => (l, k)))
      let tiles := pairs.map Prod.snd
      (∀ l ∈ ls, (∃ c off, Banks s l (va l) 1 c off) ∨ ∃ g pa acc hops, s.place l (va l) 1 = .ok (.glob g) ∧
        s.translate s.cur.core s.ten g.toNat .r s.sw = .ok pa acc (za l) hops ∧ pa + 1 ≤ Config.hbmBytes) →
      (∀ k ∈ tiles, tackM (s.tack s.ten k) = false ∧ tackT (s.tack s.ten k) = false) →
      (∀ j js, (pinAll (opc == 0x1D3) pairs p.post).2 = j :: js →
        exec i s = .next (raise s 0x2F (relAddr (if opc = 0x1D3 then 7 else 6) x.a) (s.failMask x (j :: js)))) ∧
      ((pinAll (opc == 0x1D3) pairs p.post).2 = [] →
      ∃ t, exec i s = .next t ∧ here t ∧ SameDlv s t ∧
        (∀ k, tackPin (t.tack s.ten k) = if opc = 0x1D3 then tackPin (s.tack s.ten k) + tiles.count k
          else tackPin (s.tack s.ten k) - tiles.count k) ∧
        (∀ m, (∀ k ∈ tiles, m < tab k ∨ tab k + 8 ≤ m) → t.mem.read m = s.mem.read m) ∧
        (dsts ≠ [] → ∀ l ∈ ls, t.cell x.dst l = { st := .full, cnt := x.cntN, tag := .n64
                                                  val := if winOf (va l) = 0 then BitVec.ofNat 64 (za l) else va l }) ∧
        ∀ k, (∀ l ∈ ls, k ≠ s.key x.dst l ∨ dsts = []) → t.cellK k = p.post.cellK k)

/-- RelocationEngineCompletes (R328 to R330, R337): a move that may start registers the lines of its destination; each step
copies one line and no other byte but, with the last, the tack and its time, with M clear; the shootdown drops every translation of the
tile and ends the move. A move that is cut off before its tack clears M and posts its status. A swept word that points into a
tacked tile is rewritten to the end of its tacks, in global memory or a scratchpad, and any other stays; an entry that cannot be
read ends the sweep with status 5 (R419). -/
def Obligations.RelocationEngineCompletes : Prop :=
  ∀ (s : State) (id : Nat) (o : RelOp), s.relAt id = some o →
    let tab (k : Nat) : Nat := (s.tenOf o.ten).ttab + 16 * k
    (o.sweep = true ∨ o.stage ≠ 0 ∨ o.page ≠ none ∨ s.relRuns o = false ∨ s.storesDue o.core o.after = true →
      exec (.moveStart id) s = .next s) ∧
    (∀ px py, o.sweep = false → o.stage = 0 → o.page = none → s.relRuns o = true → s.storesDue o.core o.after = false →
      s.tilePa o.ten o.x .r = .ok px → s.tilePa o.ten o.y .w = .ok py → NoTx s →
      (∀ h ∈ s.holds, h.1 < px ∨ px + 65536 ≤ h.1) → (linesOf py 65536).any s.taken = false →
      s.canHold o.keyY (linesOf py 65536) = true →
      ∃ t, exec (.moveStart id) s = .next t ∧ t.mem = s.mem ∧ t.relAt id = some { o with stage := 1, yheld := true } ∧
        ∀ l ∈ linesOf py 65536, (l, o.keyY) ∈ t.holds) ∧
    (∀ px py, o.sweep = false → o.stage = 1 → o.page = none → o.yheld = true → s.tilePa o.ten o.x .r = .ok px →
      s.tilePa o.ten o.y .w = .ok py → NoTx s → s.ecc = {} →
      ∃ t, exec (.moveLineCopy id) s = .next t ∧
        (o.done + 1 < 512 → t.relAt id = some { o with done := o.done + 1 } ∧
          (∀ j < 128, t.mem.read (py + 128 * o.done + j) = s.mem.read (px + 128 * o.done + j)) ∧
          ∀ a, a < py + 128 * o.done ∨ py + 128 * o.done + 128 ≤ a → t.mem.read a = s.mem.read a) ∧
        (o.done + 1 = 512 → o.x ≠ o.y → o.y < 2 ^ 20 → o.holders < 2 ^ 12 → t.relAt id = some { o with done := 512, stage := 2 } ∧
          tackT (t.tack o.ten o.x) = true ∧ tackM (t.tack o.ten o.x) = false ∧ tackTo (t.tack o.ten o.x) = o.y ∧
          tackHold (t.tack o.ten o.x) = o.holders ∧ tackT (t.tack o.ten o.y) = false ∧ tackM (t.tack o.ten o.y) = false ∧
          t.mem.readN (tab o.x + 8) 8 = s.hb.toNat ∧
          ∀ a, (a < tab o.x ∨ tab o.x + 16 ≤ a) → (a < tab o.y ∨ tab o.y + 8 ≤ a) →
            t.mem.read a = if py + 65408 ≤ a ∧ a < py + 65536 then s.mem.read (px + (a - py)) else s.mem.read a)) ∧
    (o.sweep = true ∨ o.stage ≠ 2 → exec (.moveShootdownComplete id) s = .next s) ∧
    (o.sweep = false → o.stage = 2 → ∃ t, exec (.moveShootdownComplete id) s = .next t ∧ t.mem = s.mem ∧ t.relAt id = none ∧
      (∀ n, ∀ e ∈ (t.core n).tlb, ¬(e.ten = o.ten ∧ e.base = s.tileAddr o.ten o.x)) ∧
      ∀ n es, t.ctlb.get? n = some es → ∀ e ∈ es, ¬(e.ten = o.ten ∧ e.base = s.tileAddr o.ten o.x)) ∧
    (∀ status, ∃ t, exec (.moveCutOff id status) s = .next t ∧ (status = 0 ∨ o.stage = 2 → t = s) ∧
      (status ≠ 0 → o.stage ≠ 2 → o.sweep = false → t.relAt id = none ∧ tackM (t.tack o.ten o.x) = false ∧
        tackM (t.tack o.ten o.y) = false ∧
        ∃ r, .done r ∈ t.posts ∧ r.type = 0x20 ∧ r.status = status ∧ r.progress = 128 * o.done)) ∧
    (∃ t u, exec (.moveResume id) s = .next t ∧ exec (.unpickResume id) s = .next u ∧ t.mem = s.mem ∧ u.mem = s.mem ∧
      (o.sweep = false → t.relAt id = some { o with page := none } ∧ u = s) ∧
      (o.sweep = true → u.relAt id = some { o with page := none } ∧ t = s)) ∧
    (∀ va r, o.sweep = true → o.page = none → s.relRuns o = true → s.storesDue o.core o.after = false →
      o.arr = .glob va → engRead s o.who (va.toNat + 8 * o.done) 8 = .ok r →
      let v := ofLE r.1
      (tacksBad s o.ten 4 v = true → ∃ t, exec (.unpickSweepWord id) s = .next t ∧ t.mem = s.mem ∧ t.relAt id = none ∧
        ∃ r, .done r ∈ t.posts ∧ r.type = 0x21 ∧ r.status = 5 ∧ r.progress = o.done) ∧
      (tacksBad s o.ten 4 v = false →
        ((∀ k, s.tileOf o.ten v = some k → tackT (s.tack o.ten k) = false ∨ followTacks s o.ten 4 v = none) →
          ∃ t, exec (.unpickSweepWord id) s = .next t ∧ (o.tile = none ∨ o.done + 1 ≠ o.n → t.mem = s.mem) ∧
            (o.done + 1 = o.n → t.relAt id = none) ∧
            (o.done + 1 ≠ o.n → ∃ q, t.relAt id = some q ∧ q.done = o.done + 1 ∧ q.rewritten = o.rewritten)) ∧
        ∀ k w u, s.tileOf o.ten v = some k → tackT (s.tack o.ten k) = true → followTacks s o.ten 4 v = some w →
          engWrite r.2 o.who (va.toNat + 8 * o.done) (toLE w 8) = .ok u →
          ∃ t, exec (.unpickSweepWord id) s = .next t ∧ (o.tile = none ∨ o.done + 1 ≠ o.n → t.mem = u.mem) ∧
            (o.done + 1 = o.n → t.relAt id = none) ∧
            (o.done + 1 ≠ o.n → ∃ q, t.relAt id = some q ∧ q.done = o.done + 1 ∧ q.rewritten = o.rewritten + 1))) ∧
    ∀ c off, o.sweep = true → o.page = none → s.relRuns o = true → s.storesDue o.core o.after = false →
      o.arr = .scr c off → (s.core c).scrEcc = {} →
      let v := (s.core c).scr.readN (off + 8 * o.done) 8
      tacksBad s o.ten 4 v = false → ∃ t, exec (.unpickSweepWord id) s = .next t ∧
        ((∀ k, s.tileOf o.ten v = some k → tackT (s.tack o.ten k) = false) → (t.core c).scr = (s.core c).scr) ∧
        (∀ k w, s.tileOf o.ten v = some k → tackT (s.tack o.ten k) = true → followTacks s o.ten 4 v = some w →
          (t.core c).scr.readN (off + 8 * o.done) 8 = w % 2 ^ 64) ∧
        (o.done + 1 = o.n → t.relAt id = none) ∧
        (o.done + 1 ≠ o.n → ∃ q, t.relAt id = some q ∧ q.done = o.done + 1)

/-! ### Collectives -/

/-- CollectiveFormsComplete (R346, R355, R360 to R364): `coll`, whose operands pass R361 while the domain runs for its
tenancy, no abort stands and fewer than four operations are in flight, takes the domain's next number; `linkq`, `treeq` and
`collq` write the words of R362 to R364 under the current version, every other bit of them zero: of a row that is not held,
of a device above SIZE or of a link above 17 `linkq` gives the version alone; `treeq` gives the device's hops from the root,
the link to its parent (31 for the root) and the links to its children in the tree, that of a number beyond the trees
derived being empty (the model's choice: log 38); `collq` gives an operation's final chunks, state and status, and the
trees derived. No memory changes. -/
def Obligations.CollectiveFormsComplete : Prop :=
  ∀ (x : Ext) (s : State) (p : Prep),
    let ls := s.actLanes x
    let root : Bool := s.dom.self == 0
    ((Instr.coll x).WellFormed → Issues s ⟨0x1D8, x.len, x⟩ false → s.prep x (srcsOf 0x1D8 x) [] false = .ok p → ls ≠ [] →
      s.bolt.staged = false →
      let d := (p.opnd 1 0).val
      let src := (p.opnd 2 0).val
      let n := (p.opnd 3 0).val.toNat
      let c := 2 ^ (12 + x.immF 12 3)
      (x.modN ≠ 1 ∨ root = true → d.toNat % 16 = 0 ∧ winOf d = 0 ∧ d.toNat + n ≤ 2 ^ 56) →
      (x.modN ≠ 2 ∨ root = true → src.toNat % 16 = 0 ∧ winOf src = 0 ∧ src.toNat + n ≤ 2 ^ 56) →
      ((x.modN ≠ 1 ∧ x.modN ≠ 2 ∨ root = true) → d.toNat + n ≤ src.toNat ∨ src.toNat + n ≤ d.toNat) → n % 16 = 0 → n % (x.fmt.width / 8) = 0 → n ≠ 0 →
      (n + c - 1) / c ≤ 65535 → s.dom.en = true → s.ten = s.dom.ten → s.dom.abort = false → s.dom.ops.length < 4 →
      (x.imm.getLsbD 4 = true → (s.panel.bar (x.immF 0 4)).issue 1 ≠ none) →
      ∃ t o, exec (.coll x) s = .next t ∧ t.sw.pc = s.nextPc x.len ∧ t.mem = s.mem ∧ SamePreds s t ∧ SameFlags s t ∧
        SameDlv s t ∧ SameControl s t ∧ (∀ k, t.cellK k = p.post.cellK k) ∧ t.dom.ops = s.dom.ops ++ [o] ∧
        t.dom.seqNext = s.dom.seqNext + 1 ∧ o.seq = s.dom.seqNext ∧ o.dst = d ∧ o.src = src ∧ o.hdr.len = n ∧
        o.hdr.fmt = x.fmt ∧ o.hdr.mode.toNat = x.modN % 4 ∧ o.hdr.op.toNat = x.immF 8 4 ∧ o.hdr.ch.toNat = x.immF 12 3 ∧
        o.started = false ∧ o.state = 1 ∧ o.after = s.serial ∧ o.launch = s.bolt.launch) ∧
    ∀ (i : Instr) (opc : Nat), (i = .linkq x ∧ opc = 0x1D9) ∨ (i = .treeq x ∧ opc = 0x1DA) ∨ (i = .collq x ∧ opc = 0x1DB) →
      i.WellFormed → Issues s ⟨opc, x.len, x⟩ false → s.prep x (srcsOf opc x) [x.dst] true = .ok p →
      let k := if x.a = 0 then x.imm.toNat else (p.opnd 1 0).val.toNat % 2 ^ 32
      let dev := k / 32 % 256
      ∃ t v, exec i s = .next t ∧ Goes s t (s.nextPc x.len) ∧ SamePreds s t ∧ SameFlags s t ∧ SameDlv s t ∧
        (∀ l ∈ ls, t.cell x.dst l = { st := .full, cnt := x.cntN, tag := .n64, val := v }) ∧
        (∀ key, (∀ l ∈ ls, key ≠ s.key x.dst l) → t.cellK key = p.post.cellK key) ∧
        (opc = 0x1D9 → v.extractLsb' 32 32 = s.dom.version ∧
          (dev ≤ s.dom.size → k % 32 < Config.links → ∀ w, s.dom.entry dev (k % 32) = some w →
            v.getLsbD 31 = s.dom.live dev (k % 32) ∧ v.getLsbD 30 = w.getLsbD 30 ∧ v.getLsbD 0 = w.getLsbD 0 ∧
            v.extractLsb' 16 8 = w.extractLsb' 16 8 ∧ v.extractLsb' 8 5 = w.extractLsb' 8 5 ∧ v.extractLsb' 24 6 = 0 ∧
            v.extractLsb' 13 3 = 0 ∧ v.extractLsb' 1 7 = 0) ∧
          (s.dom.size < dev ∨ Config.links ≤ k % 32 ∨ s.dom.entry dev (k % 32) = none → v.extractLsb' 0 32 = 0)) ∧
        (opc = 0x1DA → s.dom.trees.length ≤ 8 → ∀ (n : Nat) (up : Nat → Nat),
          let tree := s.dom.trees.getD (k % 8) []
          up 0 = dev → n < 256 → (∀ i < n, ∃ e, tree.find? (fun e => e.v == up i) = some e ∧ up (i + 1) = e.u) →
          tree.find? (fun e => e.v == up n) = none → (∀ e ∈ tree, e.i < 18 ∧ e.k < 18) →
          v.extractLsb' 24 8 = BitVec.ofNat 8 n ∧
          (∀ e, tree.find? (fun e => e.v == dev) = some e → v.extractLsb' 18 5 = BitVec.ofNat 5 e.k) ∧
          (n = 0 → v.extractLsb' 18 5 = 31) ∧ v.extractLsb' 40 24 = 0 ∧ v.extractLsb' 34 2 = 0 ∧ v.getLsbD 23 = false ∧
          v.getLsbD 33 = (decide (k % 8 < s.dom.trees.length) && s.dom.current) ∧ v.getLsbD 32 = decide (dev = 0) ∧
          v.extractLsb' 36 4 = BitVec.ofNat 4 s.dom.trees.length ∧
          ∀ j < 18, (v.getLsbD j = true ↔ ∃ e ∈ tree, e.u = dev ∧ e.i = j)) ∧
        (opc = 0x1DB → s.dom.trees.length ≤ 8 →
          ((∀ o ∈ s.dom.ops ++ s.dom.aborted, o.seq ≠ k) →
            v.extractLsb' 32 32 = s.dom.version ∧ v.extractLsb' 12 20 = 0 ∧ v.extractLsb' 0 8 = 0 ∧
            v.extractLsb' 8 4 = BitVec.ofNat 4 s.dom.trees.length) ∧
          ∀ o, (s.dom.ops ++ s.dom.aborted).find? (fun o => o.seq == k) = some o → o.finals.length < 2 ^ 16 → o.state < 16 →
            o.status < 256 → v.extractLsb' 32 32 = s.dom.version ∧ v.extractLsb' 16 16 = BitVec.ofNat 16 o.finals.length ∧
            v.extractLsb' 12 4 = BitVec.ofNat 4 o.state ∧ v.extractLsb' 0 8 = BitVec.ofNat 8 o.status ∧
            v.extractLsb' 8 4 = BitVec.ofNat 4 s.dom.trees.length)

/-- CollectiveEngineCompletes (R346 to R350, R352 to R359): a link that trains is up; one that fails at this end, in a running
domain, is marked, counted and told, and a new version stops every operation; a table of a later epoch is adopted and one of
an earlier epoch ignored. Trees are derived when the table has settled. An operation starts when the stores before it are
performed, holding its destination's lines. At the root, the last partial of a chunk is folded, after the own input, into the
destination; at a leaf, the result of a chunk is written. A done token, a set of final chunks and a page that has come are
taken; the completion message ends the operation; an abort ends it with status 10. Messages of another version are
discarded, but for the epoch that they show and what an exchange tells of failures. The domain's registers keep their values
while an operation is in flight. The model's choices: that a flit's seventeenth error is its sixteenth failed replay, that
NFAIL counts the link ends marked, and that a write of `CL.LINK` starts an epoch (log 38); which lines are held, that an
exchange message of a later epoch is merged, and that any other message of another version is dropped (log 39); that a
device which has accepted an operation late answers a set with an empty one (log 98); that messages show an epoch
(log 99). -/
def Obligations.CollectiveEngineCompletes : Prop :=
  ∀ (s : State) (link flit seq : Nat), let d := s.dom
    let last : Prop := (d.link link).replays.getD flit 0 = 16
    (∃ t, exec (.linkTrained link) s = .next t ∧ t.mem = s.mem ∧ t.cores = s.cores ∧ (t.dom.link link).up = true ∧
      (t.dom.link link).fail = (d.link link).fail ∧ ∀ j, j ≠ link → t.dom.link j = d.link j) ∧
    (∀ i ∈ [Instr.linkTrainingLoss link, .linkAckTimeout link, .linkDownNotice link, .flitCrcError ⟨link, flit⟩],
      ∃ t, exec i s = .next t ∧ t.mem = s.mem ∧ t.cores = s.cores ∧
        (d.en = true → (d.link link).en = true → (i = .flitCrcError ⟨link, flit⟩ → last) →
          (t.dom.link link).fail = true ∧
          ((d.link link).fail = false → t.dom.nfail = t.dom.failures.length ∧ t.dom.current = false ∧
            t.dom.changed = s.hb ∧ (t.dom.version ≠ d.version → ∀ o ∈ t.dom.ops, o.state = 2 ∧ o.parts = []) ∧
            ((d.link link).up = true → i ≠ .linkTrainingLoss link → .linkDown link ∈ t.posts))) ∧
        (i = .linkTrainingLoss link → (t.dom.link link).up = false) ∧
        (i = .flitCrcError ⟨link, flit⟩ → ¬last → (t.dom.link link).fail = (d.link link).fail ∧
          (t.dom.link link).replays.getD flit 0 = (d.link link).replays.getD flit 0 + 1 ∧
          ∀ g, g ≠ flit → (t.dom.link link).replays.getD g 0 = (d.link link).replays.getD g 0)) ∧
    (∀ epoch rows, ∃ t, exec (.linkTableReceived epoch rows) s = .next t ∧ t.mem = s.mem ∧ t.cores = s.cores ∧
      epoch.toNat ≤ max t.dom.epoch t.dom.seen ∧ (d.en = false ∨ epoch.toNat < d.epoch → t = s.see epoch.toNat) ∧
      (d.en = true → d.epoch < epoch.toNat → t.dom.epoch = epoch.toNat ∧ t.dom.current = false ∧
        ∀ o ∈ t.dom.ops, o.state = 2)) ∧
    (d.ops = [] → d.past = [] → ∃ t, exec .settleExpiry s = .next t ∧ t.mem = s.mem ∧
      (d.en = false ∨ d.current = true ∨ s.hb.toNat < d.changed.toNat + d.settle → t = s) ∧
      (d.en = true → d.current = false → (∀ v ≤ d.size, (d.row v).isSome) → d.changed.toNat + d.settle ≤ s.hb.toNat →
        t.dom.trees = d.derive ∧ t.dom.current = true)) ∧
    (∀ value, ∃ t, exec (.clDomEnable value) s = .next t ∧ t.mem = s.mem ∧ t.cores = s.cores ∧ (d.ops ≠ [] → t = s) ∧
      (d.ops = [] → t.dom.en = value.getLsbD 0 ∧ t.dom.ten = (value.extractLsb' 4 4).toNat ∧
        t.dom.self = (value.extractLsb' 8 8).toNat ∧ t.dom.size = (value.extractLsb' 16 8).toNat ∧
        t.dom.settle = (value.extractLsb' 32 16).toNat ∧ t.dom.abort = (d.abort && !value.getLsbD 31) ∧
        (d.en = false → value.getLsbD 0 = true → t.dom.seqNext = 0 ∧ t.dom.epoch = (max d.epoch d.seen + 1) % 65536))) ∧
    (∀ value, ∃ t, exec (.clLinkWrite link value) s = .next t ∧ t.mem = s.mem ∧ t.cores = s.cores ∧
      (d.ops ≠ [] ∨ Config.links ≤ link → t = s) ∧
      (d.ops = [] → link < Config.links → (t.dom.link link).en = value.getLsbD 0 ∧
        (t.dom.link link).peerdev = (value.extractLsb' 16 8).toNat ∧
        (t.dom.link link).peerlink = (value.extractLsb' 8 5).toNat ∧ t.dom.epoch = (max d.epoch d.seen + 1) % 65536)) ∧
    ∀ (o : CollOp) (hdr : CollHdr), s.collAt seq = some o → hdr.seq = seq →
      let kids := childrenOf (d.trees.headD []) d.self
      let epoch := hdr.version.toNat / 65536
      let mine : Prop := hdr.version = d.version ∧ agrees hdr o.hdr = true
      let free (pa : Nat) : Prop := s.engWaits (linesOf pa o.hdr.len) = false ∧
        ∀ l ∈ linesOf pa o.hdr.len, (l, o.key) ∈ s.holds
      (∀ lines, d.current = false → d.early = [] → o.started = false → s.storesDue o.core o.after = false →
        lines = engLines s (o.who d) (o.dstOf d) → (∀ h ∈ s.holds, h.2 ≠ o.key) →
        s.inMove d.ten o.dst.toNat o.hdr.len = false → s.engWaits lines = false → s.canHold o.key lines = true →
        ∃ t, exec (.collStart seq) s = .next t ∧ t.mem = s.mem ∧ t.collAt seq = some { o with started := true } ∧
          ∀ l ∈ lines, (l, o.key) ∈ t.holds) ∧
      (o.started = true ∨ s.storesDue o.core o.after = true → exec (.collStart seq) s = .next s) ∧
      (∀ bytes own pa acc za hops t0, mine → d.current = true → d.self = 0 → d.trees = [t0] → childrenOf t0 0 = [link] →
        parentOf t0 0 = none → o.started = true → o.state = 1 → o.page = none → o.hdr.mode.toNat < 2 →
        o.notch.getD 0 0 = 0 → (∀ q ∈ o.parts, q.2.1 ≠ folded) → 0 < o.hdr.len → o.hdr.len ≤ o.chunk →
        engRead s (o.who d) o.src.toNat o.hdr.len = .ok own → o.dst.toNat % 65536 + o.hdr.len ≤ 65536 →
        s.translateNow d.ten o.dst.toNat .w = .ok pa acc za hops → pa + o.hdr.len ≤ Config.hbmBytes → free pa →
        ∃ t, exec (.partialReceived hdr 0 link bytes) s = .next t ∧
          (∀ j b, j < o.hdr.len → (foldStep o.hdr own.1 bytes)[j]? = some b → t.mem.read (pa + j) = b) ∧
          ∀ a, a < pa ∨ pa + o.hdr.len ≤ a → t.mem.read a = s.mem.read a) ∧
      (∀ bytes pa acc za hops t0, mine → d.current = true → d.self ≠ 0 → d.trees = [t0] → childrenOf t0 d.self = [] →
        o.started = true → o.state = 1 → o.page = none → o.hdr.mode = 0 → o.notch.getD 0 0 = 1 → 0 < o.hdr.len →
        o.hdr.len ≤ o.chunk → bytes.length = o.hdr.len → o.dst.toNat % 65536 + o.hdr.len ≤ 65536 →
        s.translateNow d.ten o.dst.toNat .w = .ok pa acc za hops → pa + o.hdr.len ≤ Config.hbmBytes → free pa →
        ∃ t, exec (.resultReceived hdr 0 bytes) s = .next t ∧
          (∀ j b, bytes[j]? = some b → t.mem.read (pa + j) = b) ∧
          ∀ a, a < pa ∨ pa + o.hdr.len ≤ a → t.mem.read a = s.mem.read a) ∧
      (∀ i, hdr.version ≠ d.version → (∃ chunk bytes, i = .partialReceived hdr chunk link bytes ∨
          i = .resultReceived hdr chunk bytes) ∨ i = .doneToken hdr link ∨ i = .completeMessage hdr ∨ i = .abortFlood hdr →
        exec i s = .next (s.see epoch)) ∧
      (∀ failed final, mine → d.learn hdr.version failed = none → o.state = 1 →
        exec (.exchangeUp hdr link failed final) s = .next (s.send link (.exchDown link (o.header d) d.failures []))) ∧
      (d.current = false ∨ o.started = false →
        (mine → ∃ t q, exec (.doneToken hdr link) s = .next t ∧ t.mem = s.mem ∧ t.collAt seq = some q ∧ link ∈ q.tokens ∧
          q.parts = o.parts) ∧
        ∃ t q, exec (.collChunkResume seq) s = .next t ∧ t.mem = s.mem ∧ t.collAt seq = some q ∧ q.page = none ∧
          q.notch = o.notch) ∧
      (mine → ∃ t, exec (.completeMessage hdr) s = .next t ∧ t.mem = s.mem ∧ (o.doneUp = false → t = s) ∧
        (o.doneUp = true → t.collAt seq = none ∧ (∀ j ∈ kids, .complete j hdr ∈ t.posts) ∧
          (o.wrec = true → ∃ r, .done r ∈ t.posts ∧ r.type = 0x30 ∧ r.status = 0))) ∧
      (hdr.version = d.version → ∃ t, exec (.abortFlood hdr) s = .next t ∧ t.mem = s.mem ∧ t.collAt seq = none ∧
        t.dom.abort = true ∧ ∃ q ∈ t.dom.aborted, q.seq = o.seq ∧ q.state = 5 ∧ q.status = 10) ∧
      (∀ i failed final, i = .exchangeUp hdr link failed final ∨ i = .exchangeDown hdr failed final →
        (hdr.version ≠ d.version → epoch < d.epoch → exec i s = .next s) ∧
        (d.en = true → d.epoch < epoch → ∃ t, exec i s = .next t ∧ t.mem = s.mem ∧ t.dom.epoch = epoch ∧
          t.dom.current = false ∧ ∀ q ∈ t.dom.ops, q.state = 2) ∧
        ∀ j, d.en = true → d.epoch = epoch → d.self ≤ d.size → j < Config.links → (d.link j).en = true →
          (d.link j).fail = false → (d.self, j) ∈ failed →
          ∃ t, exec i s = .next t ∧ t.mem = s.mem ∧ (t.dom.link j).fail = true ∧ t.dom.current = false ∧ t.dom.changed = s.hb) ∧
      (∀ failed final j, mine → d.learn hdr.version failed = none → o.state = 3 → j ∈ kids → j ≠ link →
        (∀ e ∈ o.exch, e.1 ≠ j) →
        ∃ t q, exec (.exchangeUp hdr link failed final) s = .next t ∧ t.mem = s.mem ∧ t.collAt seq = some q ∧
          (link, final) ∈ q.exch ∧ q.state = 3) ∧
      ∀ failed final, mine → d.learn hdr.version failed = none → o.state = 3 → o.started = false →
        ∃ t q, exec (.exchangeDown hdr failed final) s = .next t ∧ t.mem = s.mem ∧ t.collAt seq = some q ∧ q.state = 4 ∧
          ∀ c < o.nchunks, q.notch.getD c 0 = if final.contains c then o.notch.getD c 0 else 0

/-! ### The work hierarchy -/

/-- WorkComplete: (R406 to R411, R421, R422) a created graph, phase or job starts with a counter of 1 under its parent, whose
counter it raises; the seal lowers it, and at 0 the object completes, with its record. A panel that is done gives back
what it holds and lowers its launch; a launch that nothing holds any more completes with its record. `hcnt` gives the
cancel bit and the counter of an ancestor; `cancel` marks one and everything under it, its own swatch standing at the word
after. (R397 to R405, R464) a PROD that is lowered, or that overfills its ring, is ignored, and any other is taken. A
record that waits for an enabled tenancy whose class dispatches nothing is consumed: refused, it gives its record of
status 4; accepted, it makes a launch that its graph counts. A group that fits within the tenancy's deficit is admitted:
its panel stands on the core found, its bolts at the kernel's entry, and the launch has sent one group more. The model's
choices, not the spec's: that a record is consumed only when its class has nothing left to dispatch, and the cases beyond R399
in which one is refused (log 40); that a visit adds the weight though nothing fits (log 100). -/
def Obligations.WorkComplete : Prop :=
  (∀ (s : State),
    (∀ level id parent, (level < 2 ∨ 4 < level ∨ (s.obj level id).isSome = true) →
      exec (.graphCreate level id parent) s = .next s) ∧
    (∀ level id parent, 2 ≤ level → level ≤ 4 → s.obj level id = none →
      ∃ t o, exec (.graphCreate level id parent) s = .next t ∧ t.obj level id = some o ∧ o.out = 1 ∧ o.complete = false ∧
        o.sealed = false ∧ t.mem = s.mem ∧ t.cores = s.cores ∧
        ∀ p, level < 4 → s.obj (level + 1) parent = some p →
          o.parent = parent ∧ o.cancelled = p.cancelled ∧ t.obj (level + 1) parent = some { p with out := p.out + 1, ecc := 0 }) ∧
    (∀ level id o, s.obj level id = some o →
      (o.sealed = true → exec (.graphSeal level id) s = .next s) ∧
      (o.sealed = false → 2 ≤ o.out → ∃ t, exec (.graphSeal level id) s = .next t ∧
        t.obj level id = some { o with sealed := true, out := o.out - 1, ecc := 0 } ∧ t.posts = s.posts) ∧
      (o.sealed = false → o.out = 1 → o.complete = false → ∃ t r, exec (.graphSeal level id) s = .next t ∧
        t.obj level id = some { o with sealed := true, out := 0, complete := true, ecc := 0 } ∧ .done r ∈ t.posts ∧
        r.type = 0x3F + level ∧ r.object = id ∧ r.status = o.status.getD (if o.cancelled then 6 else 0) ∧
        r.progress = o.children)) ∧
    (∀ core panel,
      (s.panelDone core panel = false → (∀ l ∈ s.launches, s.canSettle (s.launchOf l.id) = false) →
        exec (.panelComplete core panel) s = .next s) ∧
      (s.panelDone core panel = true → (∀ l ∈ s.launches, 2 ≤ l.out ∨ l.complete = true) →
        ∃ t, exec (.panelComplete core panel) s = .next t ∧ t.mem = s.mem ∧ (t.core core).panels.has panel = false ∧
          ∀ k, (t.core core).trayOwn.get? k ≠ some panel ∧ (t.core core).regOwn.get? k ≠ some panel) ∧
      (∀ l, s.panelDone core panel = true → s.launches = [l] → l.id = (s.panelAt core panel).launch → l.out = 1 →
        l.sent = l.groups → l.complete = false → l.cancelled = false → l.requeue = false → l.stages = false →
        (s.panelAt core panel).asCore = none → l.ended.contains (s.panelAt core panel).at = false → (freePanel s core panel).launchBusy l.id = false →
        ∃ t m r, exec (.panelComplete core panel) s = .next t ∧ t.mem = s.mem ∧ t.launches = [m] ∧ m.id = l.id ∧ m.complete = true ∧
          m.out = 0 ∧ .done r ∈ t.posts ∧ r.type = 0x40 ∧ r.status = l.status.getD 0 ∧ r.object = l.id ∧
          r.progress = l.done + 1)) ∧
    (∀ core, ∃ t, exec (.patternStoreRegenDone core) s = .next t ∧ t.mem = s.mem ∧
      ((s.core core).psRegen = false → t = s) ∧
      ((s.core core).psRegen = true → (t.core core).psRegen = false ∧ (t.core core).psOwner = (s.core core).psOwner ∧
        ∀ i, (t.core core).leader i = Fp.defaultLeader i)) ∧
    (∀ x : Ext, (Instr.hcnt x).WellFormed → Issues s ⟨0x1E7, x.len, x⟩ false → ∀ p, s.prep x [] [x.dst] true = .ok p →
      let lv := x.immF 0 3
      let word (can : Bool) (n : Nat) : Word := BitVec.ofNat 64 ((if can then 2 ^ 63 else 0) + n % 2 ^ 32)
      ∃ t v, exec (.hcnt x) s = .next t ∧ t.sw.pc = s.nextPc x.len ∧ t.mem = s.mem ∧ SameControl s t ∧ SamePreds s t ∧
        SameFlags s t ∧ SameDlv s t ∧ (lv = 0 → s.panel.ecc = 0 → Frame s t) ∧
        (∀ l ∈ s.actLanes x, t.cell x.dst l = { st := .full, cnt := x.cntN, tag := .n64, val := v }) ∧
        (∀ k, (∀ l ∈ s.actLanes x, k ≠ s.key x.dst l) → t.cellK k = p.post.cellK k) ∧
        (lv = 0 → v = word s.panel.cancelled s.panel.out) ∧ (lv = 1 → v = word s.launch.cancelled s.launch.out) ∧
        ∀ o, (lv = 2 ∧ s.obj 2 s.launch.graph = some o ∨ lv = 3 ∧ s.obj 3 s.launch.phase = some o ∨
          lv = 4 ∧ s.obj 4 s.launch.job = some o) → v = word o.cancelled o.out) ∧
    ∀ x : Ext, (Instr.cancel x).WellFormed → Issues s ⟨0x1E6, x.len, x⟩ true → s.nextBit s.ten s.sw.pc (s.nextPc x.len) = true →
      let lv := x.immF 0 3
      ∃ t, exec (.cancel x) s = .next t ∧
        (s.gActive x = false → Goes s t (s.nextPc x.len) ∧ SameBolt s t ∧ t.launches = s.launches ∧ t.objs = s.objs) ∧
        (s.gActive x = true → s.dry x = false →
          (lv = 0 → (t.panelAt s.cur.core s.bolt.panel).cancelled = true) ∧
          (1 ≤ lv → (s.obj lv (s.ancestor lv)).any (fun o => o.complete) = false →
            (∀ l ∈ t.launches, l.under lv (s.ancestor lv) = true → l.complete = false → l.cancelled = true) ∧
            (2 ≤ lv → ∀ o, s.obj lv (s.ancestor lv) = some o → ∃ q, t.obj lv (s.ancestor lv) = some q ∧ q.cancelled = true)))) ∧
  (∀ (s : State) (ten q : Nat),
    let x := s.queue ten q
    (∀ prod, (prod.toNat < x.prod ∨ x.cons + 2 ^ x.log2n < prod.toNat → exec (.lqProdWrite ten q prod) s = .next s) ∧
      (x.prod ≤ prod.toNat → prod.toNat ≤ x.cons + 2 ^ x.log2n →
        ∃ t, exec (.lqProdWrite ten q prod) s = .next t ∧ t.queue ten q = { x with prod := prod.toNat } ∧ t.mem = s.mem ∧
          t.cores = s.cores ∧ t.launches = s.launches)) ∧
    (x.holds = false ∨ (s.tenOf ten).en = false ∨ (s.tenOf ten).busy = true ∨ (s.dispatching ten q).isSome = true →
      exec (.launchRecordConsume ten q) s = .next s) ∧
    (∀ d, x.holds = true → (s.tenOf ten).en = true → (s.tenOf ten).busy = false → s.dispatching ten q = none →
      let at_ := x.addr + 128 * (x.cons % 2 ^ x.log2n)
      let r := s.mem.bytes at_ 128
      let taken := s.setQueue ten q { x with cons := (x.cons + 1) % 2 ^ 32 }
      let l := launchOfRecord ten q r d.1
      engRead taken { core := 0, ten := ten, launch := 0 } (recN r 0 8) 64 = .ok d →
      ((∃ w ∈ wordsOf at_ 128, d.2.l2Bad w = true) → ∃ t e, exec (.launchRecordConsume ten q) s = .next t ∧
        t.launches = s.launches ∧ t.objs = s.objs ∧ (t.queue ten q).cons = (x.cons + 1) % 2 ^ 32 ∧ t.posts = .done e :: s.posts ∧
        e.type = 0x40 ∧ e.status = 5 ∧ e.object = l.id ∧ e.progress = 0) ∧
      ((∀ w ∈ wordsOf at_ 128, d.2.l2Bad w = false) →
      (refused q r d.1 l = true → ∃ t e, exec (.launchRecordConsume ten q) s = .next t ∧ t.launches = s.launches ∧ t.objs = s.objs ∧
        (t.queue ten q).cons = (x.cons + 1) % 2 ^ 32 ∧ t.posts = .done e :: s.posts ∧ e.type = 0x40 ∧ e.status = 4 ∧
        e.object = l.id ∧ e.progress = 0) ∧
      (refused q r d.1 l = false → (∀ m ∈ s.launches, m.id ≠ l.id) → s.cancelledAbove l = false →
        ∃ t, exec (.launchRecordConsume ten q) s = .next t ∧ t.launches = s.launches ++ [l] ∧
          (t.queue ten q).cons = (x.cons + 1) % 2 ^ 32 ∧ t.posts = s.posts ∧
          ∀ o, s.obj 2 l.graph = some o → t.obj 2 l.graph = some { o with out := o.out + 1, ecc := 0 }))) ∧
    (s.loaded ten q = none → s.readyRestore ten q = none → s.dispatching ten q = none → exec (.panelGroupAdmit ten q) s = .next s) ∧
    ∀ l cl j, s.loaded ten q = none → s.readyRestore ten q = none → s.dispatching ten q = some l → s.launchOf l.id = l → (s.tenOf ten).en = true →
      (s.tenOf ten).busy = false → (s.tenOf ten).weight ≠ 0 → s.classOf ten = some q → l.group = 0 → l.twins = false →
      let g := l.groupAt l.sent
      let d := if s.visiting ten then (s.tenOf ten).deficit else (s.tenOf ten).deficit + (s.tenOf ten).weight
      l.nbolt * l.stitches ≤ d →
      (s.modTen ten (fun t => { t with deficit := d })).groupPlaces l g = some [(cl, j)] →
      let c := choiceCore l cl j 0
      ∃ t p, exec (.panelGroupAdmit ten q) s = .next t ∧ (t.launchOf l.id).sent = l.sent + 1 ∧
        (t.core c).panels.get? (s.core c).panelNext = some p ∧ p.launch = l.id ∧ p.ten = l.ten ∧ p.x = g.1 ∧ p.y = g.2.1 ∧
        p.z = g.2.2 ∧ p.out = l.nbolt ∧ p.cancelled = false ∧
        ((t.tenOf ten).deficit = d - l.nbolt * l.stitches ∨ (t.tenOf ten).deficit = 0 ∧ t.queued ten = false) ∧
        (l.nbolt = 1 → ∃ slot b e w, (t.core c).bolts.get? slot = some b ∧ b.launch = l.id ∧ b.panel = (s.core c).panelNext ∧
          b.index = 0 ∧ b.left = false ∧ b.sw.get? e = some w ∧ w.pc = l.entry ∧ w.mask = fullMask l.lanes ∧ w.st = .ready))

/-! ### System -/

/-- FaultAnswersComplete (R373, R375, R378, R379): Goloc's answers to a swatch that is parked on its record. A replay makes it
ready where it stands; a skip, at the following instruction, when that starts one; a delivery takes it into its bolt's
handler, at the vector that stood when its fault was raised, with the record in the TRAP registers, or leaves it waiting for
the handler that runs; with no such vector its record becomes one of cause 0x02; an end cancels its launch.
What a running handler held back is delivered once the handler has returned. A swatch that is not parked takes no answer.
The model's choices, not the spec's: that a delivery which Goloc orders is held back while a handler is active (log 43), and
how a delivered record and its vector stand by then (log 74). -/
def Obligations.FaultAnswersComplete : Prop :=
  ∀ (s : State) (core slot ent : Nat),
    let v : State := { s with cur := { core := core, slot := slot, ent := ent } }
    let b := s.boltAt core slot
    let w := b.sw.getD ent {}
    let at_ (t : State) : Swatch := (t.boltAt core slot).sw.getD ent {}
    let keeps (t : State) : Prop := t.mem = s.mem ∧ (t.boltAt core slot).regs = b.regs ∧ (t.boltAt core slot).k = b.k ∧
      (t.boltAt core slot).q = b.q ∧ (t.boltAt core slot).flags = b.flags ∧ (at_ t).mask = w.mask
    let entered (t : State) (r : FaultRec) : Prop := keeps t ∧ (at_ t).st = .ready ∧ (at_ t).pc = w.vec ∧ (at_ t).hand = true ∧
      (t.boltAt core slot).trap = { b.trap with cause := r.cause, act := true, pc := r.pc, addr := r.addr, mask := r.mask
                                                lfail := w.ctx, ent := ent, lanes := w.mask, depth := w.depth
                                                jtop := w.jtop, rtop := w.rtop }
    (w.st ≠ .parked ∨ w.frec = none → exec (.faultReplay core slot ent) s = .next s ∧ exec (.faultSkip core slot ent) s = .next s ∧
      exec (.faultDeliver core slot ent) s = .next s ∧ exec (.faultEnd core slot ent) s = .next s) ∧
    (∀ r, w.st = .parked → w.frec = some r →
      (∃ t, exec (.faultReplay core slot ent) s = .next t ∧ keeps t ∧ (t.boltAt core slot).trap = b.trap ∧
        (at_ t).st = .ready ∧ (at_ t).frec = none ∧ (at_ t).pc = w.pc ∧ t.posts = s.posts ∧
        (at_ t).unfin = (if unfinishedCause r.cause then w.unfin else none)) ∧
      (v.nextBit b.ten r.pc (s.afterInstr b.ten r.pc) = true → ∃ t, exec (.faultSkip core slot ent) s = .next t ∧ keeps t ∧
        (t.boltAt core slot).trap = b.trap ∧ (at_ t).st = .ready ∧ (at_ t).frec = none ∧ (at_ t).unfin = none ∧
        (at_ t).pc = s.afterInstr b.ten r.pc ∧ t.posts = s.posts) ∧
      (v.nextBit b.ten r.pc (s.afterInstr b.ten r.pc) = false → ∃ t e, exec (.faultSkip core slot ent) s = .next t ∧ keeps t ∧
        (at_ t).st = .parked ∧ (at_ t).frec = some e ∧ e.cause = 0x02 ∧ e.addr = s.afterInstr b.ten r.pc ∧ e.pc = r.pc ∧
        t.posts = .fault e :: s.posts) ∧
      (b.trap.act = true → w.hand = false → ∃ t, exec (.faultDeliver core slot ent) s = .next t ∧ keeps t ∧
        (at_ t).st = .deferred ∧ (at_ t).frec = some r ∧ (t.boltAt core slot).trap = b.trap) ∧
      (b.trap.act = false → w.vec ≠ 0 → v.startBit b.ten w.vec = true →
        ∃ t, exec (.faultDeliver core slot ent) s = .next t ∧ entered t r ∧ t.posts = s.posts) ∧
      (b.trap.act = false → w.vec = 0 ∨ v.startBit b.ten w.vec = false →
        ∃ t e, exec (.faultDeliver core slot ent) s = .next t ∧ keeps t ∧ (at_ t).st = .parked ∧ (at_ t).frec = some e ∧
          e.cause = 0x02 ∧ e.addr = BitVec.ofNat 64 (r.cause % 256) ∧ e.pc = r.pc ∧ t.posts = .fault e :: s.posts) ∧
      (r.cause ≠ 0x13 → ∃ t, exec (.faultEnd core slot ent) s = .next t ∧
        ∀ l ∈ t.launches, l.id = b.launch → l.complete = false → l.cancelled = true)) ∧
    (w.st ≠ .deferred ∨ w.frec = none ∨ b.trap.act = true → exec (.deferredFaultDelivery core slot ent) s = .next s) ∧
    (∀ r, w.st = .deferred → w.frec = some r → b.trap.act = false → w.vec ≠ 0 → v.startBit b.ten w.vec = true →
      ∃ t, exec (.deferredFaultDelivery core slot ent) s = .next t ∧ entered t r ∧ t.posts = s.posts)

/-- SpecialRegistersAndServices: (R135, R377, R382, R383) `getsp` gives each active lane the special register that it names,
and `setsp` writes the writable fields of one: FX.FLAGS, and what R382 lists, with read-only registers and fields left as
they are. A register of index 0x100 or above is for privileged bolts: any other bolt's access faults with cause 0x07 and
changes nothing. (R384) `svc`, its earlier loads and stores performed, posts a record of cause 0x31 with its code, its
destination and its argument, leaves its destination EMPTY, and goes on; the result is delivered to that destination, but
for a service that ends the launch, which cancels it. The model's choices, not the spec's: that the fault 0x07 comes before the
checks of sources and destination (log 62), and the answers of the services, that of a post among them (log 44, 101). -/
def Obligations.SpecialRegistersAndServices : Prop :=
  (∀ (x : Ext) (s : State) (p : Prep),
    let i := x.immF 0 12
    let ls := s.actLanes x
    let b := s.bolt
    let c := s.cc
    let quiet : Prop := s.sw.phase = 0 ∧ (∀ d ∈ s.dlv, ¬(d.core = s.cur.core ∧ d.slot = s.cur.slot)) ∧
      ∀ e ∈ b.flagLog, e.1 ≤ s.serial % 2 ^ 64
    let waits (t : State) : Prop := t.dlv = s.dlv ∧ (i ≠ 0 ∨ ls = [] → t.serial = s.serial)
    ((Instr.getsp x).WellFormed → Issues s ⟨0x1E2, x.len, x⟩ false → i < 0x100 ∨ b.priv = true → i ≠ 0 ∨ quiet →
      s.prep x [] [x.dst] x.fmt.is64 = .ok p →
      ∃ t, exec (.getsp x) s = .next t ∧ Goes s t (s.nextPc x.len) ∧ SamePreds s t ∧ SameFlags s t ∧ waits t ∧
        (∀ k, (∀ l ∈ ls, k ≠ s.key x.dst l) → t.cellK k = p.post.cellK k) ∧
        ∀ l ∈ ls, ∃ v, t.cell x.dst l = { st := .full, cnt := x.cntN, tag := x.fmt, val := v } ∧
          (i = 0x000 → v = b.flags.setWidth 64) ∧ (i = 0x001 → v = s.hb) ∧ (i = 0x010 → v = b.trap.vec) ∧
          (i = 0x011 → v = b.trap.deleg) ∧
          (i = 0x012 → v = BitVec.ofNat 64 ((if b.trap.act then 256 else 0) + b.trap.cause % 256)) ∧
          (i = 0x013 → v = b.trap.pc) ∧ (i = 0x014 → v = b.trap.addr) ∧ (i = 0x015 → v = b.trap.mask.setWidth 64) ∧
          (i = 0x016 → v = b.trap.mask.extractLsb' 64 64) ∧ (i = 0x017 → v = if b.trap.lfail.getLsbD l then 1 else 0) ∧
          (i = 0x020 → v = BitVec.ofNat 64 ((if b.priv then 1 else 0) + (if b.errinj then 2 else 0))) ∧
          (i = 0x100 → v = BitVec.ofNat 64 c.ubReg) ∧ (i = 0x101 → v = BitVec.ofNat 64 c.ubScr) ∧
          (i = 0x102 → v = BitVec.ofNat 64 c.ubL1) ∧
          (i = 0x103 → v = BitVec.ofNat 64 ((if c.ubRej then 2 else 0) + (if c.busy then 1 else 0))) ∧
          (i = 0x121 → v = c.psOwner.getD 0) ∧ (i = 0x130 → v = c.peWord)) ∧
    ((Instr.setsp x).WellFormed → Issues s ⟨0x1E3, x.len, x⟩ false → i < 0x100 ∨ b.priv = true → i ≠ 0 ∨ quiet → ls = [0] →
      s.prep x (srcsOf 0x1E3 x) [] false = .ok p →
      let v := (p.opnd 1 0).val
      ∃ t, exec (.setsp x) s = .next t ∧ t.sw.pc = s.nextPc x.len ∧ SamePreds s t ∧ waits t ∧ t.mem = s.mem ∧
        (∀ k, t.cellK k = p.post.cellK k) ∧
        t.bolt.flags = (if i = 0 then v.setWidth 5 else b.flags) ∧
        t.bolt.trap = { b.trap with
          vec := if i = 0x010 then v &&& ~~~3 else b.trap.vec
          deleg := if i = 0x011 then t.bolt.trap.deleg else b.trap.deleg
          pc := if i = 0x013 ∧ b.trap.act = true then v else b.trap.pc } ∧
        (i = 0x011 → ∀ k, t.bolt.trap.deleg.getLsbD k = (v.getLsbD k && delegable k)) ∧
        (i < 0x100 ∨ i = 0x120 ∨ i = 0x121 ∨ i = 0x122 →
          t.cc.ubReg = c.ubReg ∧ t.cc.ubScr = c.ubScr ∧ t.cc.ubL1 = c.ubL1 ∧ t.cc.ubRej = c.ubRej ∧ t.cc.peWord = c.peWord ∧
          t.cc.psOwner = c.psOwner ∧ t.cc.psRegen = c.psRegen ∧
          ∀ q, t.cc.cqMinOf q = c.cqMinOf q ∧ t.cc.cqCapOf q = c.cqCapOf q ∧ t.cc.cqQuantOf q = c.cqQuantOf q) ∧
        (i = 0x100 ∨ i = 0x101 ∨ i = 0x102 → c.busy = true → t.cc.ubRej = true ∧ t.cc.ubReg = c.ubReg ∧ t.cc.ubScr = c.ubScr ∧
          t.cc.ubL1 = c.ubL1)) ∧
    (0x100 ≤ i → b.priv = false → ls ≠ [] →
      (Issues s ⟨0x1E2, x.len, x⟩ false →
        exec (.getsp x) s = .next (raise s 0x07 (BitVec.ofNat 64 (0x1E2 + i * 2 ^ 16)) (s.failMask x ls))) ∧
      (Issues s ⟨0x1E3, x.len, x⟩ false →
        exec (.setsp x) s = .next (raise s 0x07 (BitVec.ofNat 64 (0x1E3 + i * 2 ^ 16)) s.sw.mask)))) ∧
  (∀ (s : State),
    (∀ (x : Ext) (p : Prep), (Instr.svc x).WellFormed → Issues s ⟨0x1E0, x.len, x⟩ false →
      s.liveLanes x (s.actLanes x) = s.actLanes x → s.actLanes x ≠ [] → s.sw.phase = 0 → s.loadsDue 0 = false → s.cc.stq = [] →
      s.prep x (srcsOf 0x1E0 x) [x.dst] true = .ok p →
      ∃ t q r, exec (.svc x) s = .next t ∧ t.sw.pc = s.nextPc x.len ∧ t.mem = s.mem ∧ SamePreds s t ∧ SameFlags s t ∧
        t.services = s.services ++ [q] ∧ q.code = svcCode x ∧ q.arg = (p.opnd 1 0).val ∧ q.ten = s.ten ∧ q.launch = s.bolt.launch ∧
        t.cell x.dst 0 = { st := .empty, cnt := x.cntN, tag := .n64, pend := q.dlv } ∧ (∃ d ∈ t.dlv, d.id = q.dlv) ∧
        t.posts = .fault r :: s.posts ∧ r.cause = 0x31 ∧ r.addr = BitVec.ofNat 64 (svcCode x + x.dst.toNat * 2 ^ 16) ∧
        r.mask = (p.opnd 1 0).val.setWidth 128 ∧ r.pc = s.sw.pc ∧
        ∀ k, k ≠ s.key x.dst 0 → t.cellK k = p.post.cellK k) ∧
    ∀ id result, (s.services.find? (fun q => q.dlv == id) = none → exec (.svcResult id result) s = .next s) ∧
      ∀ q, s.services.find? (fun q => q.dlv == id) = some q →
        (q.code = 4 → svcError result = false → ∃ t, exec (.svcResult id result) s = .next t ∧
          ∀ l ∈ t.launches, l.id = q.launch → l.complete = false → l.cancelled = true) ∧
        (q.code ≠ 4 → (q.code = 1 → svcError result = true) → ∀ d, s.dlv.find? (fun d => d.id == id) = some d →
          let at_ (t : State) : Cell := (t.boltAt d.core d.slot).regs.getD d.key {}
          let here (c : CodeObj) : Bool := c.ten == q.ten && c.base == q.arg
          (at_ s).st = .empty → (at_ s).pend = id → (at_ s).flip = 0 →
          ∃ t, exec (.svcResult id result) s = .next t ∧ t.mem = s.mem ∧ (∀ q ∈ t.services, q.dlv ≠ id) ∧
            (∀ e ∈ t.dlv, e.id ≠ id) ∧ (at_ t).st = .full ∧ (at_ t).cnt = (at_ s).cnt ∧
            (q.code = 0 → (at_ t).val = 1) ∧ (q.code = 1 → (at_ t).val = 0xFFFFFFFFFFFFFF03) ∧
            (q.code = 2 → (s.codes.any here = true → (at_ t).val = 0 ∧ t.codes.any here = false) ∧
              (s.codes.any here = false → (at_ t).val = 0xFFFFFFFFFFFFFF02)) ∧
            (q.code = 3 → (at_ t).val = 0 ∧ ∃ n, 2 ≤ n ∧ n < 8 ∧ .vector (q.ten + 1) n ∈ t.posts) ∧
            (q.code = 5 → (at_ t).val = if 7 < q.arg.toNat then 0xFFFFFFFFFFFFFF02
              else BitVec.ofNat 64 (s.acctWord q.ten q.arg.toNat)) ∧
            (5 < q.code → (at_ t).val = 0xFFFFFFFFFFFFFF01)) ∧
        ∀ u, q.code = 1 → svcError result = false → installCode s q result = .done u →
          ∃ t c, exec (.svcResult id result) s = .next t ∧ t.codes = s.codes ++ [c] ∧ c.ten = q.ten ∧ c.base = result)

/-- BoundaryWrites (R203, R204): a boundary register takes a value while BUSY is 0 and the value, taken with the other two registers as
they stand, gives a valid set: UB.REG a multiple of 6 and at least 12, UB.L1 at least 4, the sum at most 192; an array then
holds nothing (R204), which a read of the scratchpad shows as zero by the model's choice alone (log 2). Any other write leaves
every register as it was and sets REJ. -/
def Obligations.BoundaryWrites : Prop :=
  ∀ (s : State) (core which : Nat) (value : Word), which < 3 →
    let c := s.core core
    let g := value.toNat % 256
    let b : Nat × Nat × Nat := if which = 0 then (g, c.ubScr, c.ubL1) else if which = 1 then (c.ubReg, g, c.ubL1)
      else (c.ubReg, c.ubScr, g)
    ∃ t, exec (.ubBoundaryWrite core which value) s = .next t ∧ t.mem = s.mem ∧
      (c.busy = false → b.1 % 6 = 0 → 12 ≤ b.1 → 4 ≤ b.2.2 → b.1 + b.2.1 + b.2.2 ≤ 192 →
        ((t.core core).ubReg, (t.core core).ubScr, (t.core core).ubL1) = b ∧ (t.core core).ubRej = c.ubRej ∧
        (t.core core).l1.ents = [] ∧ ∀ a, (t.core core).scr.read a = 0) ∧
      (c.busy = true ∨ b.1 % 6 ≠ 0 ∨ b.1 < 12 ∨ b.2.2 < 4 ∨ 192 < b.1 + b.2.1 + b.2.2 →
        t.core core = { c with ubRej := true })

/-- SavesComplete (R385 to R392): GO, or `ctxsave`, starts the save of a panel, whose bolts stop; once nothing of it is in flight and
its image is written, the image is kept, its record posted, and the panel has left its core. `ctxload` of an image that passes
its checks waits for its panels' places, its destination EMPTY. The model's choices, not the spec's: an image's size and the
bytes of its body (log 7), that a `ctxsave` has been consumed once its image is written (log 42), and that the fault 0x07 of a
`ctxload` comes first (log 62). -/
def Obligations.SavesComplete : Prop :=
  ∀ (s : State) (core : Nat),
    let c := s.core core
    (∀ value slot, slot = value.toNat / 2 ^ 56 →
      ∃ t, exec (.peGo core value) s = .next t ∧ t.mem = s.mem ∧ (t.core core).peBolt = slot ∧
        (t.core core).peImg = value.toNat / 2 ^ 12 % 2 ^ 44 ∧
        (value.getLsbD 0 = false ∨ c.save.isSome = true ∨ c.bolts.has slot = false → (t.core core).save = c.save) ∧
        ∀ b, value.getLsbD 0 = true → c.save = none → c.bolts.get? slot = some b → b.left = false →
          c.panels.has b.panel = true → s.saving core b.panel = false →
          (t.core core).save = some { panel := b.panel, addr := BitVec.ofNat 64 ((t.core core).peImg * 4096), slot := slot } ∧
          ∀ d, c.bolts.get? d ≠ none → (c.bolts.getD d {}).panel = b.panel → ((t.core core).bolts.getD d {}).frozen = true) ∧
    (c.save = none → exec (.saveWrite core) s = .next s) ∧
    (∀ v, c.save = some v → v.page = true ∨ s.saveReady (s.groupOf core v.panel) = false → exec (.saveWrite core) s = .next s) ∧
    (∀ v u, c.save = some v → v.page = false → s.saveReady (s.groupOf core v.panel) = true →
      let ms := s.groupOf core v.panel
      let p := s.panelAt core v.panel
      let size := 64 + Config.imageBytes s.fresh % (s.imageBound ms - 63)
      let t0 : State := { preempt s ms with fresh := s.fresh + size }
      let table := ms.any (fun m => (s.core m.1).psOwner == some p.launch)
      writeAll { core := core, ten := p.ten, launch := p.launch }
        (imageWrites v.addr.toNat ((List.range (size - 64)).map (fun i => Config.freeByte (s.fresh + i)))
          (imageHeader t0 (s.launchOf p.launch) ms.length size table)) t0 = (u, none) →
      (s.launchOf p.launch).id = p.launch → v.by_ = none → (u.panelAt core v.panel) = p →
      (u.launchOf p.launch).id = p.launch → (u.launchOf p.launch).cancelled = false → p.cancelled = false →
      (∀ l ∈ u.launches, l.complete = true ∨ l.out ≠ 0) →
      ∃ t i r, exec (.saveWrite core) s = .next t ∧ t.mem = u.mem ∧ (t.core core).save = none ∧ (t.core core).peDone = true ∧
        i ∈ t.images ∧ i.addr = v.addr ∧ i.launch = p.launch ∧ i.ten = p.ten ∧ i.discarded = false ∧ i.members.length = ms.length ∧
        t.posts = .fault r :: u.posts ∧ r.cause = 0x16 ∧ r.core = core ∧ r.addr = v.addr ∧
        ∀ m ∈ ms, (t.core m.1).panels.has m.2 = false ∧ ∀ b ∈ (t.core m.1).bolts.vals, b.panel ≠ m.2) ∧
    (∃ t, exec (.savePageResume core) s = .next t ∧ t.mem = s.mem ∧
      (t.core core).save = c.save.map (fun v => { v with page := false })) ∧
    (∀ x : Ext, (Instr.ctxsave x).WellFormed → Issues s ⟨0x1E4, x.len, x⟩ false → s.actLanes x ≠ [] →
      s.liveLanes x (s.actLanes x) = s.actLanes x → s.ready x (srcsOf 0x1E4 x) [] false = .ok (s.actLanes x) →
      let a := (s.opnd ((srcsOf 0x1E4 x).headD { pos := 1 }) 0).val
      a.toNat % 4096 = 0 → winOf a = 0 →
      (∃ pa acc za hops, s.translate s.cur.core s.ten a.toNat .w s.sw = .ok pa acc za hops) →
      s.cc.save = none → s.saving s.cur.core s.bolt.panel = false → s.bolt.sw.has s.cur.ent = true →
      ∃ t v, exec (.ctxsave x) s = .next t ∧ t.cc.save = some v ∧ v.panel = s.bolt.panel ∧ v.addr = a ∧ v.slot = s.cur.slot ∧
        v.by_ = some (s.cur.ent, x.a) ∧ t.bolt.frozen = true ∧ t.sw.pc = s.sw.pc ∧ t.sw.st = .retry 1 ∧ t.mem = s.mem ∧
        SameNames s t) ∧
    ∀ (x : Ext) (p : Prep) (h : List Byte × State), (Instr.ctxload x).WellFormed → Issues s ⟨0x1E5, x.len, x⟩ false → s.actLanes x ≠ [] →
      (s.bolt.priv = false → exec (.ctxload x) s = .next (raise s 0x07 0x1E5 s.sw.mask)) ∧
      (s.bolt.priv = true → s.liveLanes x (s.actLanes x) = s.actLanes x → s.prep x (srcsOf 0x1E5 x) [x.dst] true = .ok p →
        let a := (p.opnd 1 0).val
        a.toNat % 4096 = 0 → winOf a = 0 →
        (∃ pa acc za hops, s.translate s.cur.core s.ten a.toNat .r s.sw = .ok pa acc za hops) →
        engRead s { core := s.cur.core, ten := s.ten, launch := s.bolt.launch, stg := s.bolt.stage } a.toNat 64 = .ok h →
        (h.1.take 4 ≠ [0x4C, 0x43, 0x58, 0x00] → exec (.ctxload x) s = .next (raise s 0x33 1 s.sw.mask)) ∧
        ∀ i, checkImage h.2 a h.1 = .ok i → ∃ t r, exec (.ctxload x) s = .next t ∧ t.sw.pc = s.nextPc x.len ∧ t.mem = s.mem ∧
          SamePreds s t ∧ SameFlags s t ∧ t.restores = s.restores ++ [r] ∧ r.image = i ∧
          t.cell x.dst 0 = { st := .empty, cnt := x.cntN, tag := .n64, pend := r.dlv } ∧
          ∀ k, k ≠ s.key x.dst 0 → t.cellK k = p.post.cellK k)

/-- InjectionAndStorageErrors: (R393) `errinj` in a bolt that may inject flips one bit of an accumulator, a tray word, a name,
a scratchpad word or a word of memory that its panel or lane reaches: with DET = 0 of the value itself, under new check
bits, and with DET = 1 of what is stored under the old ones, so that a single flip leaves the value to be read as it was.
Any other bolt's faults with cause 0x07. (R58, R404, R419) a bit that changes of itself in a word leaves what was stored
to be corrected: a second makes it uncorrectable, and in a panel's work counter ends its launch; in a cached copy it drops or
marks the copy. A scrub corrects a line's single errors and changes no byte. A core that is fenced off stays so. Native form is
installed and withdrawn by its range; the swatches in it go on in portable form. The model's choices, not the spec's: that the
fault 0x07 comes first (log 62); what an uncorrectable error of a counter ends (log 26); that native form is withdrawn by
exactly the range it was installed by (log 53); that a bit counts modulo the width of its record (log 73). -/
def Obligations.InjectionAndStorageErrors : Prop :=
  (∀ (x : Ext) (s : State),
    let ls := s.actLanes x
    let det := x.imm.getLsbD 21
    let hi := x.immF 15 6
    let me := s.bolt.panel
    (Instr.errinj x).WellFormed → Issues s ⟨0x1E8, x.len, x⟩ false → ls ≠ [] → s.liveLanes x ls = ls →
    (s.bolt.errinj = false → exec (.errinj x) s = .next (raise s 0x07 0x1E8 (s.failMask x ls))) ∧
    (s.bolt.errinj = true → x.modN = 0 → s.cc.regOwn.get? hi = some me → s.regInUse s.cur.core hi = false → s.cc.accEcc = {} →
      let k := 1024 * hi + x.immF 5 10
      ∃ t, exec (.errinj x) s = .next t ∧ t.sw.pc = s.nextPc x.len ∧ t.mem = s.mem ∧ SameBolt s t ∧
        (∀ j, t.cc.acc.getD j 0 = if j = k ∧ det = false then s.cc.acc.getD j 0 ^^^ BitVec.ofNat 32 (2 ^ x.immF 0 5)
          else s.cc.acc.getD j 0) ∧
        ∀ j, t.cc.accEcc.getD j 0 = if j = k ∧ det = true then BitVec.ofNat 64 (2 ^ x.immF 0 5) else 0) ∧
    (s.bolt.errinj = true → x.modN = 1 → s.cc.trayOwn.get? hi = some me → s.trayBusy s.cur.core hi = false → s.cc.trayEcc = {} →
      let k := 4096 * hi + 4 * x.immF 5 10
      ∃ t, exec (.errinj x) s = .next t ∧ t.sw.pc = s.nextPc x.len ∧ t.mem = s.mem ∧ SameBolt s t ∧
        t.cc.tray.readN k 4 = (if det then s.cc.tray.readN k 4 else s.cc.tray.readN k 4 ^^^ 2 ^ x.immF 0 5) ∧
        (∀ a, a < k ∨ k + 4 ≤ a → t.cc.tray.read a = s.cc.tray.read a) ∧
        ∀ j, t.cc.trayEcc.getD j 0 = if j = k ∧ det = true then BitVec.ofNat 64 (2 ^ x.immF 0 5) else 0) ∧
    (s.bolt.errinj = true → x.modN = 3 →
      (∀ l ∈ ls, (s.cell x.a l).st = .full ∧ (s.cell x.a l).ecc = 0 ∧ (x.immF 0 6 < 32 ∨ (s.cell x.a l).tag.is64 = true)) →
      ∃ t, exec (.errinj x) s = .next t ∧ Goes s t (s.nextPc x.len) ∧ SamePreds s t ∧ SameFlags s t ∧ SameDlv s t ∧
        (∀ l ∈ ls, t.cell x.a l = if det then { s.cell x.a l with ecc := BitVec.ofNat 64 (2 ^ x.immF 0 6) }
          else { s.cell x.a l with val := (s.cell x.a l).val ^^^ BitVec.ofNat 64 (2 ^ x.immF 0 6) }) ∧
        ∀ k, (∀ l ∈ ls, k ≠ s.key x.a l) → t.cellK k = s.cellK k) ∧
    ∀ (p : Prep) (l : Nat), s.bolt.errinj = true → x.modN = 2 → ls = [l] → s.bolt.staged = false →
      s.prep x (srcsOf 0x1E8 x) [] false = .ok p →
      let a := (p.opnd 1 l).val
      (∀ c off, (winOf a = 2 ∨ winOf a = 3) → x.immF 0 6 < 32 → Banks s l a 4 c off → a.toNat % 4 = 0 → off % 4 = 0 →
        (s.core c).scrEcc = {} →
        ∃ t, exec (.errinj x) s = .next t ∧ t.sw.pc = s.nextPc x.len ∧ t.mem = s.mem ∧
          (t.core c).scr.readN off 4 = (if det then (s.core c).scr.readN off 4 else (s.core c).scr.readN off 4 ^^^ 2 ^ x.immF 0 6) ∧
          (∀ m, m < off ∨ off + 4 ≤ m → (t.core c).scr.read m = (s.core c).scr.read m) ∧
          ∀ j, (t.core c).scrEcc.getD j 0 = if j = off ∧ det = true then BitVec.ofNat 64 (2 ^ x.immF 0 6) else 0) ∧
      ∀ pa acc hops, winOf a = 0 ∨ winOf a = 1 → Reaches s l a 4 .w pa acc hops → a.toNat % 8 = 0 → pa % 8 = 0 →
        s.lineBusy pa (some s.cur.core) = false → s.cc.stq = [] → s.ecc = {} →
        ∃ t, exec (.errinj x) s = .next t ∧ t.sw.pc = s.nextPc x.len ∧
          t.mem.readN pa 8 = (if det then s.mem.readN pa 8 else s.mem.readN pa 8 ^^^ 2 ^ x.immF 0 6) ∧
          (∀ m, m < pa ∨ pa + 8 ≤ m → t.mem.read m = s.mem.read m) ∧
          ∀ j, t.ecc.getD j 0 = if j = pa ∧ det = true then BitVec.ofNat 64 (2 ^ x.immF 0 6) else 0) ∧
  (∀ (s : State) (core bit : Nat),
    let c := s.core core
    let flip (t : Tab Word) (k n : Nat) : Word := t.getD k 0 ^^^ BitVec.ofNat 64 (2 ^ n)
    (∀ tgt, ∃ t, exec (.storageBitError tgt bit) s = .next t) ∧
    (∀ pa, ∃ t, exec (.storageBitError (.l2 pa) bit) s = .next t ∧ t.mem = s.mem ∧
      t.ecc.getD (pa / 8 * 8) 0 = flip s.ecc (pa / 8 * 8) (bit % 64) ∧ ∀ k, k ≠ pa / 8 * 8 → t.ecc.getD k 0 = s.ecc.getD k 0) ∧
    (∀ off, ∃ t, exec (.storageBitError (.scratch core off) bit) s = .next t ∧ (t.core core).scr = c.scr ∧
      (t.core core).scrEcc.getD (off / 4 * 4) 0 = flip c.scrEcc (off / 4 * 4) (bit % 32)) ∧
    (∀ g w, ∃ t u, exec (.storageBitError (.tray core g w) bit) s = .next t ∧
      exec (.storageBitError (.region core g w) bit) s = .next u ∧ (t.core core).tray = c.tray ∧ (u.core core).acc = c.acc ∧
      (t.core core).trayEcc.getD (4096 * g + 4 * w) 0 = flip c.trayEcc (4096 * g + 4 * w) (bit % 32) ∧
      (u.core core).accEcc.getD (1024 * g + w) 0 = flip c.accEcc (1024 * g + w) (bit % 32)) ∧
    (∀ slot key d, (s.boltAt core slot).regs.get? key = some d → d.st = .full →
      ∃ t e, exec (.storageBitError (.row core slot key) bit) s = .next t ∧ (t.boltAt core slot).regs.get? key = some e ∧
        e.val = d.val ∧ e.cnt = d.cnt ∧ e.tag = d.tag ∧ e.ecc = d.ecc ^^^ BitVec.ofNat 64 (2 ^ (bit % 64)) ∧
        e.poison = (d.poison || rowBad e.ecc)) ∧
    (∀ slot key d, (s.boltAt core slot).regs.get? key = some d →
      ∃ t, exec (.storageBitError (.names core slot key) bit) s = .next t ∧ (t.boltAt core slot).regs.get? key = some { d with
        tecc := d.tecc ^^^ BitVec.ofNat 64 (2 ^ (bit % 32))
        poison := d.poison || decide (2 ≤ ones (d.tecc ^^^ BitVec.ofNat 64 (2 ^ (bit % 32)))) }) ∧
    (∀ slot ent w, (s.boltAt core slot).sw.get? ent = some w →
      ∃ t, exec (.storageBitError (.split core slot ent) bit) s = .next t ∧
        (t.boltAt core slot).sw.get? ent = some { w with ecc := w.ecc ^^^ BitVec.ofNat 64 (2 ^ (bit % 32)) }) ∧
    (∀ slot r j, (s.boltAt core slot).joins.get? r = some j →
      ∃ t, exec (.storageBitError (.join core slot r) bit) s = .next t ∧
        (t.boltAt core slot).joins.get? r = some { j with ecc := j.ecc ^^^ BitVec.ofNat 64 (2 ^ (bit % 32)) }) ∧
    (∀ slot r j, (s.boltAt core slot).rets.get? r = some j → j.spilled = false →
      ∃ t, exec (.storageBitError (.ret core slot r) bit) s = .next t ∧
        (t.boltAt core slot).rets.get? r = some { j with ecc := j.ecc ^^^ BitVec.ofNat 64 (2 ^ (bit % 32)) }) ∧
    (∀ p, c.panels.has p = true → let e := (s.panelAt core p).ecc ^^^ BitVec.ofNat 64 (2 ^ (bit % 64))
      (ones e < 2 → ∃ t, exec (.storageBitError (.panel core p) bit) s = .next t ∧ t.mem = s.mem ∧
        t.panelAt core p = { s.panelAt core p with ecc := e }) ∧
      (2 ≤ ones e → ∃ t, exec (.storageBitError (.panel core p) bit) s = .next t ∧
        ∀ l ∈ t.launches, l.id = (s.panelAt core p).launch → l.complete = false → l.cancelled = true)) ∧
    (∃ t, exec (.storageBitError (.icache core) bit) s = .next t ∧ (t.core core).icache = {} ∧ t.mem = s.mem ∧
      (t.core core).corrected = if c.icache.ents = [] then c.corrected else c.corrected + 1) ∧
    (∀ id cb va, ∃ t, exec (.storageBitError (.staged id cb va) bit) s = .next t ∧ t.mem = s.mem ∧ t.cores = s.cores ∧
      ∀ m ∈ s.launches, m.id = id → ∃ l ∈ t.launches, l.id = id ∧
        ((∀ i < 8, (m.stg cb).has (va / 8 * 8 + i) = false) → l = m) ∧
        ∀ i < 8, (m.stg cb).has (va / 8 * 8 + i) = true →
          l = { m with stgEcc := l.stgEcc } ∧ l.stgFlips cb va = m.stgFlips cb va ^^^ BitVec.ofNat 64 (2 ^ (bit % 64))) ∧
    (∀ pa, ∃ t, exec (.storageBitError (.l1 core pa) bit) s = .next t ∧ t.mem = s.mem ∧
      ∀ w, c.l1.get? (pa / 8 * 8) = some w → (t.core core).l1.get? (pa / 8 * 8) = some { w with bad := true }) ∧
    (∀ line, ∃ t, exec (.l2Scrub line) s = .next t ∧ t.mem = s.mem ∧ t.cores = s.cores ∧
      (∀ i < 16, let k := lineOf line + 8 * i
        t.ecc.getD k 0 = if ones (s.ecc.getD k 0) = 1 then 0 else s.ecc.getD k 0) ∧
      ∀ k, (∀ i < 16, k ≠ lineOf line + 8 * i) → t.ecc.getD k 0 = s.ecc.getD k 0) ∧
    (∃ t, exec (.coreFenceOff core) s = .next t ∧ t.core core = { c with fenced := true } ∧ t.mem = s.mem) ∧
    ∀ ten first last, ∃ t u, exec (.nativeFormInstall ten first last) s = .next t ∧
      exec (.nativeFormWithdraw ten first last) s = .next u ∧ (t.tenOf ten).native = (s.tenOf ten).native ++ [(first, last)] ∧
      (first, last) ∉ (u.tenOf ten).native ∧ (∀ r ∈ (s.tenOf ten).native, r ≠ (first, last) → r ∈ (u.tenOf ten).native) ∧
      t.mem = s.mem ∧ u.mem = s.mem ∧
      ∀ slot ent w, (s.boltAt core slot).ten = ten → (s.boltAt core slot).sw.get? ent = some w → first.toNat ≤ w.pc.toNat →
        w.pc.toNat ≤ last.toNat → (u.boltAt core slot).sw.get? ent = some { w with native := false })

/-! ### Register pools, and instructions of a program -/

/-- ProgressRuleComplete (R38, R74 to R77, R163, R164): a bolt that is wound out, which a protected one is not, parks once no
delivery of its names is pending, no swatch is in the middle of an instruction and its bobbin is written, and till then
only winds; where the bobbin cache takes all its rows no byte of memory changes. One that is wound in, where its rows and
entries fit, is protected, until a limit of R75 has come. Where none asks for entries, freed rows serve the oldest bolt of the
shuttle, and while it asks for nothing the oldest parked one that fits; a stalled swatch gets what it asks for, kept for it
until it tries again. The oldest-bolt slot makes the shuttle's next clock one of R163; after 64 clocks a `yield` ends. A fetch
fill brings the missing word's line in, and the waiting swatch is tried again. The model's choices, not the spec's: that the
others wait while the oldest bolt's request does not fit (log 46), which of one bolt's own requests is served first (log 106),
which rows go to the bobbin cache, and that a wind-in reads nothing back (log 45), that an instruction in its middle delays a
wind-out (log 75). -/
def Obligations.ProgressRuleComplete : Prop :=
  ∀ (s : State) (core slot : Nat),
    let c := s.core core
    let b := s.boltAt core slot
    let settled : Prop := (∀ d ∈ s.dlv, ¬(d.core = core ∧ d.slot = slot)) ∧ ∀ w ∈ b.sw.vals, w.midway = false
    let limit (n : Nat) : Prop := 1024 ≤ n ∨ b.lastClk + 1024 ≤ c.clockOf b
    (c.bolts.has slot = false ∨ b.left = true ∨ b.parked = true ∨ (∃ n, b.protect = some n ∧ ¬limit n) →
      exec (.windOut core slot) s = .next s) ∧
    (c.bolts.has slot = true → b.left = false → b.parked = false → (∀ n, b.protect = some n → limit n) →
      (¬settled ∨ writeBobbin s core b = none → ∃ t, exec (.windOut core slot) s = .next t ∧ t.mem = s.mem ∧
        t.boltAt core slot = { b with winding := true }) ∧
      (settled → ∀ k u, writeBobbin s core b = some (k, u) → ∃ t, exec (.windOut core slot) s = .next t ∧ t.mem = u.mem ∧
        t.boltAt core slot = { b.ungrant with winding := false, parked := true, cached := k }) ∧
      (settled → b.gents = 0 → b.rows ≤ c.cacheRows → ∃ t, exec (.windOut core slot) s = .next t ∧ t.mem = s.mem ∧
        t.boltAt core slot = { b.ungrant with winding := false, parked := true, cached := b.rows })) ∧
    (b.parked = false ∨ b.left = true ∨ c.freeRows b.shuttle < b.rows ∨ c.freeGroup < b.gents →
      exec (.windIn core slot) s = .next s) ∧
    (b.parked = true → b.left = false → b.rows ≤ c.freeRows b.shuttle → b.gents ≤ c.freeGroup →
      ∃ t, exec (.windIn core slot) s = .next t ∧ t.mem = s.mem ∧
        t.boltAt core slot = { b with parked := false, protect := some 0, cached := 0, lastClk := c.clockOf b }) ∧
    (∀ n, b.protect = some n →
      (limit n → ∃ t, exec (.windInProtectionEnd core slot) s = .next t ∧ t.mem = s.mem ∧
        t.boltAt core slot = { b with protect := none }) ∧
      (¬limit n → exec (.windInProtectionEnd core slot) s = .next s)) ∧
    (∀ sh, ∃ t, exec (.oldestBoltSlot core sh) s = .next t ∧ t.mem = s.mem ∧
      (t.core core).bolts = c.bolts ∧ (t.core core).oldestSlot sh = true) ∧
    (∀ ent, ∃ t, exec (.yieldTimeout core slot ent) s = .next t ∧ t.mem = s.mem ∧ ∀ w, b.sw.get? ent = some w →
      (t.boltAt core slot).sw.get? ent = some (if c.clockOf b < w.yieldAt + 64 then w else { w with yield := [] })) ∧
    (∀ sh, (c.served sh = none → exec (.allocationGrant core sh) s = .next s) ∧
      (∀ k o, c.served sh = some (k, o) →
        (o.parked = true → exec (.allocationGrant core sh) s = exec (.windIn core k) s) ∧
        (o.parked = false → ∃ t, exec (.allocationGrant core sh) s = .next t ∧ t.mem = s.mem ∧
          ∀ xs e w ys r, o.sw.ents = xs ++ (e, w) :: ys → w.asks = some r → r.1 ≤ c.freeRows o.shuttle → r.2 ≤ c.freeGroup →
            (∀ q ∈ xs, ∀ r, q.2.asks = some r → c.freeRows o.shuttle < r.1 ∨ c.freeGroup < r.2) →
            (t.boltAt core k).sw.get? e = some { w with st := .ready, short := none, grant := r } ∧
            ∀ d, d ≠ e → (t.boltAt core k).sw.get? d = o.sw.get? d)) ∧
      ((∀ e ∈ c.byAge sh, ∀ q ∈ e.2.asks, q.2 = 0) →
        let gets (o : Bolt) : Prop := ∃ q ∈ o.asks, q.1 ≤ c.freeRows sh
        (c.byAge sh = [] → c.served sh = none) ∧
        ∀ k o r, c.byAge sh = (k, o) :: r →
          (o.asks ≠ [] → gets o → c.served sh = some (k, o)) ∧ (o.asks ≠ [] → ¬gets o → c.served sh = none) ∧
          (o.asks = [] → (∀ e ∈ r, ¬gets e.2) → c.served sh = none) ∧
          ∀ xs m n ys, o.asks = [] → r = xs ++ (m, n) :: ys → n.parked = true → gets n →
            (∀ e ∈ xs, e.2.parked = true → ¬gets e.2) → c.served sh = some (m, n))) ∧
    ∀ ent, let w := b.sw.getD ent {}
      (w.st ≠ .retry 7 → exec (.instructionFetchFill core slot ent) s = .next s) ∧
      (w.st = .retry 7 → ∀ va pa, missingWord { s with cur := { core := core, slot := slot, ent := ent } } = some (va, pa) →
        pa + 4 ≤ Config.hbmBytes → pa % 4 = 0 → s.ecc = {} →
        ∃ t i, exec (.instructionFetchFill core slot ent) s = .next t ∧ t.mem = s.mem ∧ (t.core core).icache.get? pa = some i ∧
          i.word = BitVec.ofNat 32 (s.mem.readN pa 4) ∧ ((t.boltAt core slot).sw.getD ent {}).st = .ready ∧
          ((t.boltAt core slot).sw.getD ent {}).pc = w.pc ∧ (t.boltAt core slot).regs = b.regs)

/-! ### Debug -/

/-- DebugFormsComplete (R425, R426, R436, R437): `enter` pushes its identifier on the region stack and `leave` pops it, each with
the faults of R425 and no other effect; `pmret` ends the safelight context, at the probed instruction, which then does not
match. -/
def Obligations.DebugFormsComplete : Prop :=
  ∀ (x : Ext) (s : State),
    let b := s.bolt
    let here (t : State) (pc : Word) : Prop := Outside s t ∧ SameBolt s t ∧ t.sw.pc = pc
    (Issues s ⟨0x1F0, x.len, x⟩ false →
      (s.gActive x = false ∨ b.rdepth ≠ 255 → ∃ t, exec (.enter x) s = .next t ∧ here t (s.nextPc x.len) ∧
        t.bolt.rdepth = (if s.gActive x then b.rdepth + 1 else b.rdepth) ∧
        t.bolt.regions = if s.gActive x then (regionId x :: b.regions).take 8 else b.regions) ∧
      (s.gActive x = true → b.rdepth = 255 → exec (.enter x) s = .next (raise s 0x35 1 s.sw.mask))) ∧
    (Issues s ⟨0x1F1, x.len, x⟩ false →
      let top := b.regions.headD 0
      let bad := x.modN = 1 ∧ top ≠ 0 ∧ top ≠ x.immF 0 16
      (s.gActive x = false ∨ b.rdepth ≠ 0 ∧ ¬bad → ∃ t, exec (.leave x) s = .next t ∧ here t (s.nextPc x.len) ∧
        t.bolt.rdepth = (if s.gActive x then b.rdepth - 1 else b.rdepth) ∧
        (s.gActive x = false → t.bolt.regions = b.regions) ∧
        ∀ k < 7, s.gActive x = true → t.bolt.regions.getD k 0 = b.regions.getD (k + 1) 0) ∧
      (s.gActive x = true → b.rdepth = 0 → exec (.leave x) s = .next (raise s 0x35 2 s.sw.mask)) ∧
      (s.gActive x = true → b.rdepth ≠ 0 → bad →
        exec (.leave x) s = .next (raise s 0x35 (BitVec.ofNat 64 (3 + top * 2 ^ 16)) s.sw.mask))) ∧
    (Issues s ⟨0x1F2, x.len, x⟩ true → s.bolt.sw.has s.cur.ent = true → s.nextBit s.ten s.sw.pc (s.nextPc x.len) = true →
      (s.actLanes x = [] → ∃ t, exec (.pmret x) s = .next t ∧ here t (s.nextPc x.len)) ∧
      ∀ f, s.actLanes x ≠ [] → s.sw.safe = some f → ∃ t, exec (.pmret x) s = .next t ∧ Outside s t ∧ SameFlags s t ∧ SameDlv s t ∧
        t.sw.pc = f.pc ∧ t.sw.safe = none ∧ t.sw.noProbe = some f.pc ∧ t.sw.mask = s.sw.mask ∧ t.bolt.k = b.k ∧ t.bolt.q = b.q ∧
        t.cellK 263168 = {} ∧ t.cellK 263169 = {} ∧ ∀ k, k ≠ 263168 → k ≠ 263169 → t.cellK k = s.cellK k)

/-- StopsComplete (R427 to R430, R433 to R436): a stop request waits in its bolt, and lands by its count, or after 64 idle clocks:
the bolt is stopped, and its record gives the reason, the edge and the skid once its stores are performed. A stopped bolt
is resumed, or released for one instruction of a swatch; `DB.CL` does so for a tenancy's bolts of a cluster. A probe stops its
bolt before the instruction, or sends the swatch to its handler in a safelight context that holds its pc and the probe. -/
def Obligations.StopsComplete : Prop :=
  ∀ (s : State) (core slot : Nat),
    let c := s.core core
    let b := s.boltAt core slot
    let free := b.stop.stopped = false ∧ b.stop.request = none ∧ b.left = false
    let landed (t : State) (reason skid : Nat) : Prop := t.mem = s.mem ∧ (t.boltAt core slot).stop.stopped = true ∧
      (t.boltAt core slot).stop.request = none ∧ (t.boltAt core slot).regs = b.regs ∧
      ∃ r, r.cause = 0x36 ∧ r.core = core ∧ r.bolt = slot ∧ r.launch = b.launch ∧
        r.addr = BitVec.ofNat 64 (reason * 2 ^ 56 + (if b.stop.edge then 2 ^ 9 else 0) + skid) ∧
        (c.stopRecs = [] → (∀ p ∈ c.stq, s.serial ≤ p.id) → t.posts = .fault r :: s.posts ∧ (t.core core).stopRecs = []) ∧
        (c.stopRecs = [] → (∃ p ∈ c.stq, p.id < s.serial) →
          t.posts = s.posts ∧ (t.core core).stopRecs = [(r, s.serial)])
    (c.bolts.has slot = false → exec (.dbCoreStop core slot) s = .next s) ∧
    (c.bolts.has slot = true → free → ∃ t, exec (.dbCoreStop core slot) s = .next t ∧
      t.boltAt core slot = { b with stop := { b.stop with request := some 1, skid := 0, edge := false, since := c.clockOf b } }) ∧
    (∀ reason, b.stop.request = some reason → b.stop.stopped = false → b.left = false →
      (∀ w ∈ b.sw.vals, w.safe = none ∧ w.phase % 16 ≠ 11) →
      (b.stop.edge = true ∨ 256 ≤ b.stop.skid →
        ∃ t, exec (.stopCountExpiry core slot) s = .next t ∧ landed t reason (min 256 b.stop.skid)) ∧
      (b.stop.edge = false → b.stop.skid < 256 → c.stopRecs = [] → exec (.stopCountExpiry core slot) s = .next s) ∧
      (b.lastClk + 64 ≤ c.clockOf b → b.stop.since + 64 ≤ c.clockOf b →
        ∃ t, exec (.stopIdleExpiry core slot) s = .next t ∧ landed t reason (min 256 b.stop.skid))) ∧
    (b.stop.stopped = false → exec (.dbCoreResume core slot) s = .next s ∧ ∀ ent, exec (.dbCoreStep core slot ent) s = .next s) ∧
    (b.stop.stopped = true → ∃ t, exec (.dbCoreResume core slot) s = .next t ∧ t.mem = s.mem ∧
      t.boltAt core slot = { b with stop := { b.stop with stopped := false, request := none, stepEnt := none, edge := false } }) ∧
    (∀ ent, b.stop.stopped = true → b.sw.has ent = true → ∃ t, exec (.dbCoreStep core slot ent) s = .next t ∧
      (t.boltAt core slot).stop = { b.stop with stepEnt := some ent } ∧ (t.boltAt core slot).regs = b.regs ∧ t.mem = s.mem ∧
      ∀ e w, b.sw.get? e = some w → (t.boltAt core slot).sw.get? e = some (if e = ent then w.stepped else w)) ∧
    (∀ cl ten, ∃ t u, exec (.dbClStop cl ten) s = .next t ∧ exec (.dbClResume cl ten) s = .next u ∧ t.mem = s.mem ∧ u.mem = s.mem ∧
      (t.dbcl.getD cl {}).stopped = true ∧ (t.dbcl.getD cl {}).ten = ten ∧ (u.dbcl.getD cl {}).stopped = false ∧
      (core / 8 = cl → b.ten = ten → c.bolts.has slot = true → s.cores.has core = true → (free →
          t.boltAt core slot = { b with stop := { b.stop with request := some 2, skid := 0, edge := false, since := c.clockOf b } }) ∧
        (u.boltAt core slot).stop.stopped = false) ∧
      (core / 8 ≠ cl ∨ b.ten ≠ ten → t.boltAt core slot = b ∧ u.boltAt core slot = b)) ∧
    ∀ ent, (s.probeOf core slot ent = none → exec (.probePointStop core slot ent) s = .next s ∧
        exec (.probePointHandler core slot ent) s = .next s) ∧
      ∀ p, s.probeOf core slot ent = some p →
        let q := (s.tenOf b.ten).probes.getD p {}
        let w := b.sw.getD ent {}
        (q.act ≠ 1 → exec (.probePointStop core slot ent) s = .next s) ∧
        (q.act ≠ 2 → exec (.probePointHandler core slot ent) s = .next s) ∧
        (q.act = 1 → ∃ t r, exec (.probePointStop core slot ent) s = .next t ∧ t.mem = s.mem ∧
          (t.boltAt core slot).stop.stopped = true ∧ (t.boltAt core slot).regs = b.regs ∧
          ((t.boltAt core slot).sw.getD ent {}).pc = w.pc ∧ ((t.boltAt core slot).sw.getD ent {}).noProbe = some w.pc ∧
          t.posts = .fault r :: s.posts ∧ r.cause = 0x15 ∧ r.addr = BitVec.ofNat 64 p ∧ r.pc = w.pc ∧ r.bolt = slot) ∧
        (q.act = 2 → ({ s with cur := { core := core, slot := slot, ent := ent } } : State).startBit b.ten q.hnd = true → ∃ t f, exec (.probePointHandler core slot ent) s = .next t ∧ t.mem = s.mem ∧
          ((t.boltAt core slot).sw.getD ent {}).pc = q.hnd ∧ ((t.boltAt core slot).sw.getD ent {}).safe = some f ∧ f.pc = w.pc ∧
          f.probe = p ∧ f.q = b.q ∧ (∀ i, 0 < i → i < 8 → f.k.getD i 0 = b.k.getD i 0) ∧
          (t.boltAt core slot).regs.get? 263168 = some { st := .full, cnt := 15, tag := .bits64, val := w.pc } ∧
          (t.boltAt core slot).regs.get? 263169 = some { st := .full, cnt := 15, tag := .n64, val := BitVec.ofNat 64 p } ∧
          ∀ k, k ≠ 263168 → k ≠ 263169 → (t.boltAt core slot).regs.get? k = b.regs.get? k)

/-- ProfileComplete (R438 to R445): `stallrd` gives each active lane a count of the contact sheet, which `.clr` clears, or of an
engine; `dens` reads, feeds or clears a densitometer of its tenancy. A stall clock counts one in each bolt of the shuttle, under
its cause, an engine's clock one under its own, both saturating; a write of a densitometer's registers clears it. A clock of a
unit of source 2 adds one sample, of source 3 or 4 one for each core chosen, four at most. The model's choices, not the spec's:
that source 2 gives exactly one sample for each clock (log 9), how the stall cause is read from the state (log 47), and that a
bolt with none but safelight swatches counts nothing (log 111). -/
def Obligations.ProfileComplete : Prop :=
  ∀ (s : State),
    let up (n : Nat) : Nat := min (n + 1) (2 ^ 32 - 1)
    let zeroed (d : Dens) : Prop := d.count = 0 ∧ d.sum = 0 ∧ d.min = 0xFFFFFFFF ∧ d.max = 0 ∧ d.drop = 0 ∧ ∀ i, d.bins.getD i 0 = 0
    (∀ (x : Ext) (p : Prep), (Instr.stallrd x).WellFormed → Issues s ⟨0x1F3, x.len, x⟩ false →
      let ls := s.actLanes x
      (x.modN = 2 → s.bolt.priv = false → ls ≠ [] → exec (.stallrd x) s =
        .next (raise s 0x07 (BitVec.ofNat 64 (0x1F3 + x.immF 4 2 * 2 ^ 16)) (s.failMask x ls))) ∧
      (x.modN ≠ 2 ∨ s.bolt.priv = true → s.prep x [] [x.dst] false = .ok p →
        ∃ t, exec (.stallrd x) s = .next t ∧ Outside s t ∧ t.sw.pc = s.nextPc x.len ∧ SamePreds s t ∧ SameFlags s t ∧ SameDlv s t ∧
          SameControl s t ∧
          (∀ l ∈ ls, t.cell x.dst l = { st := .full, cnt := x.cntN, tag := .n32
                                        val := BitVec.ofNat 64 (if x.modN = 2 then s.cc.es.getD (4 * x.immF 4 2 + x.immF 0 4) 0
                                          else s.bolt.sheet.getD (x.immF 0 4) 0) }) ∧
          (∀ k, (∀ l ∈ ls, k ≠ s.key x.dst l) → t.cellK k = p.post.cellK k) ∧
          ∀ j, t.bolt.sheet.getD j 0 = if x.modN = 1 ∧ ls ≠ [] ∧ j = x.immF 0 4 then 0 else s.bolt.sheet.getD j 0)) ∧
    (∀ (x : Ext) (p : Prep), (Instr.dens x).WellFormed → Issues s ⟨0x1F4, x.len, x⟩ false →
      let ls := s.actLanes x
      let u := x.immF 0 3
      let cl := s.cur.core / 8
      let d := s.densAt cl u
      let f := x.immF 4 5
      let same (t : State) : Prop := t.sw.pc = s.nextPc x.len ∧ t.mem = s.mem ∧ SamePreds s t ∧ SameFlags s t ∧ SameDlv s t ∧
        SameControl s t
      (d.ten ≠ s.ten → ls ≠ [] → exec (.dens x) s =
        .next (raise s 0x07 (BitVec.ofNat 64 (0x1F4 + u * 2 ^ 16)) (s.failMask x ls))) ∧
      (d.ten = s.ten →
        (x.modN = 0 → s.prep x [] [x.dst] true = .ok p → ∃ t v, exec (.dens x) s = .next t ∧ same t ∧ t.dens = s.dens ∧
          (∀ l ∈ ls, t.cell x.dst l = { st := .full, cnt := x.cntN, tag := .n64, val := BitVec.ofNat 64 v }) ∧
          (∀ k, (∀ l ∈ ls, k ≠ s.key x.dst l) → t.cellK k = p.post.cellK k) ∧
          (f = 0 → v = d.count) ∧ (f = 1 → v = d.sum) ∧ (f = 2 → v = d.min) ∧ (f = 3 → v = d.max) ∧ (f = 4 → v = d.drop) ∧
          ∀ j < 16, f = 16 + j → v = d.bins.getD j 0) ∧
        (x.modN = 1 → s.prep x (srcsOf 0x1F4 x) [] false = .ok p → ∃ t, exec (.dens x) s = .next t ∧ same t ∧
          (∀ k, t.cellK k = p.post.cellK k) ∧ (d.src ≠ 7 ∨ ls = [] → t.dens = s.dens) ∧
          ∀ l, ls = [l] → d.src = 7 →
            let n := (p.opnd 1 l).val.toNat % 2 ^ 32
            let e := t.densAt cl u
            e.count = (d.count + 1) % 2 ^ 64 ∧ e.sum = min (d.sum + n) (2 ^ 64 - 1) ∧ e.min = min d.min n ∧ e.max = max d.max n ∧
            e.drop = d.drop) ∧
        (2 ≤ x.modN → ∃ t, exec (.dens x) s = .next t ∧ same t ∧ SameNames s t ∧ (ls = [] → t.dens = s.dens) ∧
          (ls ≠ [] → zeroed (t.densAt cl u) ∧ (t.densAt cl u).src = d.src ∧ (t.densAt cl u).ten = d.ten)))) ∧
    (∀ core sh, (s.cores.has core = false → exec (.stallClock core sh) s = .next s) ∧
      (s.cores.has core = true → ∃ t, exec (.stallClock core sh) s = .next t ∧ t.mem = s.mem ∧
        ∀ slot b, (s.core core).bolts.get? slot = some b →
          (b.shuttle = sh → b.left = false → ∀ j, (t.boltAt core slot).sheet.getD j 0 =
            if s.boltCause core slot = some j then up (b.sheet.getD j 0) else b.sheet.getD j 0) ∧
          (b.shuttle ≠ sh ∨ b.left = true → t.boltAt core slot = b))) ∧
    (∀ core k (e : EngineId) (stall : Option Nat), (e = .copy core ∧ k = 0 ∧ stall = copyStall s core) ∨
        (e = .request core ∧ k = 1 ∧ stall = requestStall s core) ∨ (e = .matrix core ∧ k = 2 ∧ stall = matrixStall s core) →
      ∃ t, exec (.engineStallClock e) s = .next t ∧ (stall = none → t = s) ∧
        ∀ j, (t.core core).es.getD j 0 = if stall = some (j - 4 * k) ∧ 4 * k ≤ j then up ((s.core core).es.getD j 0)
          else (s.core core).es.getD j 0) ∧
    (∀ die, ∃ t, exec (.engineStallClock (.reloc die)) s = .next t ∧ ∀ j, t.esRel.getD j 0 =
      if relStall s die = some (j - 4 * die) ∧ 4 * die ≤ j then up (s.esRel.getD j 0) else s.esRel.getD j 0) ∧
    (∃ t, exec (.engineStallClock .coll) s = .next t ∧
      ∀ j, t.esCol.getD j 0 = if collStall s = some j then up (s.esCol.getD j 0) else s.esCol.getD j 0) ∧
    ∀ cl u, let d := s.densAt cl u
      (∀ which value, ∃ t, exec (.densConfigWrite cl u which value) s = .next t ∧ zeroed (t.densAt cl u) ∧
        (which = 0 → (t.densAt cl u).src = value.toNat % 16 ∧ (t.densAt cl u).cores = value.toNat / 2 ^ 8 % 256 ∧
          (t.densAt cl u).ten = value.toNat / 2 ^ 16 % 16 ∧ (t.densAt cl u).edges = d.edges) ∧
        (which ≠ 0 → (t.densAt cl u).edges.getD (which - 1) 0 = value.toNat % 2 ^ 32 ∧ (t.densAt cl u).src = d.src)) ∧
      (d.src ≠ 2 → d.src ≠ 3 → d.src ≠ 4 → exec (.densitometerSample cl u) s = .next s) ∧
      (d.src = 2 ∨ d.src = 3 ∨ d.src = 4 → d.count + 4 < 2 ^ 64 → ∃ t, exec (.densitometerSample cl u) s = .next t ∧ t.mem = s.mem ∧
        (t.densAt cl u).count = d.count + min 4 (if d.src = 2 then 1 else ((List.range 8).filter (fun i => d.cores.testBit i)).length))

/-! ### Host, boot, tenancies, power, registers, storage -/

/-- HostAndStartsComplete: (R32, R241, R246, R456, R460) a tick raises `HB.NOW` by 1 and the bolt-time of each tenancy by its
resident bolts. A read through the direct window gives the bytes as HBM holds them, and a write changes those bytes alone;
beyond HBM either is an Unsupported Request. Each request of attestation has its answer, a measurement that of its
register. (R3, R458, R461, R462, R467) a cold start leaves every core, register and memory as at reset, and measures each
stage before it runs; the start ends with five stages, and stops at an image that does not verify. A warm start preserves
reserved HBM and the accounts, and runs the image there if its hash passes, else the one fetched, for which a request waits,
its ROM and its kind measured; after three that failed it is cold; after a thermal trip there is none. A start brought while one runs waits for its end. A
start that fails is counted once, and the third, or a cold one, drives the cold-start strap. The model's choices, not the
spec's: five stages, the warm start ignored after a trip, digests read as little-endian numbers, and what stands at an image
that does not verify (log 51); memory zero after a start (log 2); the lengths of an image's stages, a function of the image without a body, and how
starts wait (log 104); certificates and the algorithms' answer as constants, and a FINISH without keys
(log 105). -/
def Obligations.HostAndStartsComplete : Prop :=
  (∀ (s : State),
    let cert (slot : Nat) : List Byte := if slot = 0 then Config.deviceCert
      else Config.aliasCert (s.plat.ms.getD 0 0) (s.plat.ms.getD 1 0) (s.plat.ms.getD 2 0)
    (∃ t, exec .heartbeatTick s = .next t ∧ t.hb = s.hb + 1 ∧ t.mem = s.mem ∧ t.cores = s.cores ∧ t.posts = s.posts ∧
      ∀ n, (t.tenOf n).acct.getD 7 0 = (s.tenOf n).acct.getD 7 0 +
        (s.cores.vals.flatMap (fun c => c.bolts.vals.filter (fun b => !b.left && b.ten == n))).length) ∧
    (∀ off size, let pa := s.plat.hwBase * 2 ^ 36 + off
      (pa + size ≤ Config.hbmBytes →
        ∃ t p, exec (.hostWindowRead off size) s = .next t ∧ t.posts = .hostRead (s.hbm.bytes pa size) p :: s.posts ∧ t.mem = s.mem ∧
          t.hbm = s.hbm ∧ t.cores = s.cores ∧ (s.ecc = {} → p = false ∧ t.ecc = {}) ∧
          (p = true ↔ ∃ w ∈ wordsOf pa size, s.l2in.has w = false ∧ 2 ≤ ones (s.ecc.getD w 0))) ∧
      (Config.hbmBytes < pa + size → exec (.hostWindowRead off size) s = .next { s with posts := .unsupportedRequest :: s.posts })) ∧
    (∀ off bytes, let pa := s.plat.hwBase * 2 ^ 36 + off
      (Config.hbmBytes < pa + bytes.length →
        exec (.hostWindowWrite off bytes) s = .next { s with posts := .unsupportedRequest :: s.posts }) ∧
      (pa + bytes.length ≤ Config.hbmBytes → (∀ j < bytes.length, s.lineBusy ((pa + j) / 8 * 8) none = false) →
        ∃ t, exec (.hostWindowWrite off bytes) s = .next t ∧ t.posts = s.posts ∧
          (∀ j < bytes.length, bytes[j]? = some (t.mem.read (pa + j))) ∧
          ∀ a, a < pa ∨ pa + bytes.length ≤ a → t.mem.read a = s.mem.read a)) ∧
    (∀ (i : Instr) (name : String), (i = .getCapabilities ∧ name = "CAPABILITIES") ∨ (i = .negotiateAlgorithms ∧ name = "ALGORITHMS") ∨
        (i = .getDigests ∧ name = "DIGESTS") ∨ (i = .getVersion ∧ name = "VERSION") ∨
        (i = .endSession ∧ name = "END_SESSION_ACK") →
      ∃ t data, exec i s = .next t ∧ t.posts = .spdm name data :: s.posts ∧ t.mem = s.mem ∧ t.cores = s.cores ∧
        (i = .getVersion → data = [0x12, 0x13]) ∧
        (i = .negotiateAlgorithms → data = nameBytes "ECDSA P-384, SHA-384, secp384r1, AES-256-GCM") ∧
        (i = .getDigests → data = Sha.sha384 (cert 0) ++ Sha.sha384 (cert 1)) ∧
        (i = .endSession → t.plat.session = false ∧ t.plat.keyed = false)) ∧
    (s.plat.keyed = true → ∃ t data, exec .finish s = .next t ∧ t.posts = .spdm "FINISH_RSP" data :: s.posts ∧
      t.plat.session = true ∧ t.plat.keyed = false) ∧
    (s.plat.keyed = false → exec .finish s = .next { s with posts := .spdm "ERROR" [] :: s.posts }) ∧
    (∀ slot nonce, ∃ t u v, exec (.getCertificate slot) s = .next t ∧ exec (.challenge slot nonce) s = .next u ∧
      exec (.keyExchange slot) s = .next v ∧
      (slot < 2 → t.posts = .spdm "CERTIFICATE" (BitVec.ofNat 8 slot :: cert slot) :: s.posts ∧ v.plat.keyed = true ∧ ∃ b c,
        u.posts = .spdm "CHALLENGE_AUTH" (BitVec.ofNat 8 slot :: (toLE nonce.toNat 8 ++ b)) :: s.posts ∧
        v.posts = .spdm "KEY_EXCHANGE_RSP" (BitVec.ofNat 8 slot :: c) :: s.posts) ∧
      (2 ≤ slot → t.posts = .spdm "ERROR" [] :: s.posts ∧ u.posts = .spdm "ERROR" [] :: s.posts ∧
        v.posts = .spdm "ERROR" [] :: s.posts)) ∧
    ∀ index, ∃ t, exec (.getMeasurements index) s = .next t ∧
      (1 ≤ index → index ≤ 8 → ∃ a, t.posts = .spdm "MEASUREMENTS" (toLE (s.plat.ms.getD (index - 1) 0) 48 ++ a) :: s.posts) ∧
      (16 ≤ index → index < 32 → ∃ a, t.posts = .spdm "MEASUREMENTS" (toLE (s.tenOf (index - 16)).tm 48 ++ a) :: s.posts) ∧
      (index = 0 ∨ 8 < index ∧ index < 16 ∨ 32 ≤ index → t.posts = .spdm "ERROR" [] :: s.posts)) ∧
  (∀ (s : State) (stages : List (List Byte)),
    let p := s.plat
    let digest (b : List Byte) : Nat := ofLE (Sha.sha384 b)
    let fresh (t : State) : Prop := t.cores = {} ∧ t.hb = 0 ∧ t.launches = [] ∧ t.objs = [] ∧ t.posts = s.posts
    let keeps (t : State) : Prop := fresh t ∧ (∀ n, (t.tenOf n).acct = (s.tenOf n).acct) ∧
      ∀ a, t.mem.read a = if Config.reservedBase ≤ a then s.hbm.read a else 0
    let rom := stages.headD []
    let num := stages.length
    let measured (t : State) (kind : Nat) (rom : List Byte) : Prop := t.plat.btKind = kind ∧ t.plat.ms.getD 0 0 = extend 0 rom ∧
      t.plat.ms.getD 5 0 = extend 0 [BitVec.ofNat 8 kind]
    let goes (t : State) (image : List Byte) (num : Nat) : Prop :=
      (∀ i < 4, i + 1 < num → t.plat.ms.getD (i + 1) 0 = extend 0 ((imageStages image).getD i [])) ∧
      (num < 5 → t.plat.btDone = false ∧ t.plat.running = true ∧ t.plat.btStage = num - 1) ∧
      (5 ≤ num → t.plat.btStage = 5 ∧ t.plat.btDone = true ∧ t.plat.running = false ∧ t.plat.failedWarm = 0)
    let stops (t : State) : Prop := t.plat.btStage = 0xFF ∧ t.plat.btDone = false ∧ t.plat.running = true
    let waits (i : Start) : State := { s with plat := { p with waiting := p.waiting ++ [i] } }
    let there := s.hbm.bytes Config.reservedBase p.imgLen
    let kept : Prop := digest there = p.imgHash
    let fetched (image : List Byte) (t : State) : Prop :=
      (Config.imageVerifies image = true → goes t image num ∧ t.plat.imgHash = digest image ∧ t.plat.imgLen = image.length) ∧
      (Config.imageVerifies image = false → stops t)
    (∀ image, (imageStages image).length = 4 ∧ (imageStages image).flatten = image) ∧
    (p.running = true → exec (.coldStart stages) s = .next (waits (.cold stages))) ∧
    (p.running = false → ∃ t, exec (.coldStart stages) s = .next t ∧ fresh t ∧ t.mem = [] ∧ t.hbm = [] ∧ t.tens = {} ∧
      measured t 1 rom ∧ fetched (stages.drop 1).flatten t) ∧
    (∀ image,
      (p.tripped = true → exec (.warmStart image stages) s = .next s) ∧
      (p.tripped = false → p.running = true → p.fetching = false →
        exec (.warmStart image stages) s = .next (waits (.warm image stages))) ∧
      (p.tripped = false → p.fetching = true → p.running = true → p.btDone = false → (∀ i < 4, p.ms.getD (i + 1) 0 = 0) →
        ∃ t, exec (.warmStart image stages) s = .next t ∧ t.mem = s.mem ∧ fetched image t ∧ t.plat.btKind = p.btKind ∧
          t.plat.ms.getD 0 0 = p.ms.getD 0 0 ∧ t.plat.ms.getD 5 0 = p.ms.getD 5 0) ∧
      (p.tripped = false → p.running = false → p.fetching = false →
        (3 ≤ p.failedWarm → exec (.warmStart image stages) s = exec (.coldStart stages) s) ∧
        (p.failedWarm < 3 → kept → ∃ t, exec (.warmStart image stages) s = .next t ∧ keeps t ∧
          t.plat.imgHash = p.imgHash ∧ measured t 3 rom ∧ goes t there num) ∧
        (p.failedWarm < 3 → ¬kept →
          ∃ t, exec (.warmStart image stages) s = .next t ∧ keeps t ∧ measured t 2 rom ∧ fetched image t))) ∧
    (p.tripped = true → exec .warmStartRequest s = .next s) ∧
    (p.tripped = false → p.running = true → exec .warmStartRequest s = .next (waits .request)) ∧
    (p.tripped = false → p.running = false →
      (3 ≤ p.failedWarm → exec .warmStartRequest s = .next { s with posts := .coldStrap :: s.posts }) ∧
      (p.failedWarm < 3 → kept → ∃ t, exec .warmStartRequest s = .next t ∧ keeps t ∧ t.plat.imgHash = p.imgHash ∧
        measured t 3 p.rom ∧ goes t there 5) ∧
      (p.failedWarm < 3 → ¬kept → ∃ t, exec .warmStartRequest s = .next t ∧ keeps t ∧ measured t 2 p.rom ∧
        t.plat.running = true ∧ t.plat.fetching = true ∧ t.plat.btDone = false ∧ ∀ i < 4, t.plat.ms.getD (i + 1) 0 = 0)) ∧
    (∀ rs, s.agenda = [] → p.running = false → p.waiting = .cold stages :: rs →
      step s = exec (.coldStart stages) ((wakeAll { s with spun := s.spun + 1 }).modPlat (fun q => { q with waiting := rs }))) ∧
    (p.running = false → exec .startFailureTimeout s = .next s) ∧
    (p.running = true → ∃ t, exec .startFailureTimeout s = .next t ∧ t.plat.running = false ∧ t.plat.fetching = false ∧
      t.mem = s.mem ∧
      (p.btKind < 2 → t.plat.failedWarm = p.failedWarm ∧ t.posts = .coldStrap :: s.posts) ∧
      (2 ≤ p.btKind → t.plat.failedWarm = p.failedWarm + 1 ∧
        t.posts = if p.failedWarm + 1 < 3 then s.posts else .coldStrap :: s.posts)) ∧
    (∀ w, ∃ t, exec (.powerCapStep w) s = .next t ∧ t.plat.pwWatts = w % 2048 ∧
      t.plat.pwStep = if s.plat.pwCap < w then min 8 (s.plat.pwStep + 1) else s.plat.pwStep) ∧
    ∃ t, exec .thermalTrip s = .next t ∧ t.plat.tripped = true ∧ t.cores = s.cores ∧ t.mem = s.mem)

/-- TenanciesAndRegisters: (R463 to R465) a tenancy's reset marks it busy, empties its queues and cancels its launches; once
nothing works for it, it ends: BUSY is clear and DONE set, `TM.REG` is zero, no TLB holds a translation of it, the pages
that its tables map read as zero, and its vector is raised. (R3, R211, R326, R397, R431, R434, R443, R456, R463, R467) a
write of any register of the maps completes; a read-only register is left as it is, and one without a behaviour of its own
then reads as its writable fields were written, with reserved bits zero. (R220, R241; log entry 77) a control core's store
changes its eight bytes, a clean, a flush or an invalidation of a line brings its bytes to HBM, and a fence changes
nothing. (R455, R457, R459) a word goes into a function's mailbox, and Goloc's raises the tenancy's vector 1; a tenancy's
`TM.REG` is extended by each `.lai` loaded for it; the physical function reads every register, a virtual one its tenancy's
accounts, the management port the `BT` and `PW` registers. The model's choices, not the spec's: a mailbox of one word
(log 102); that function 0 reads every register, and the rest of which port reads which (log 103); that the pages zeroed
are those of the page-table entries that memory lists (log 52); the accesses of the control cores, under names of the model's
own (log 77). -/
def Obligations.TenanciesAndRegisters : Prop :=
  (∀ (s : State) (ten : Nat),
    ((s.tenOf ten).busy = true → exec (.tenancyReset ten) s = .next s) ∧
    ((s.tenOf ten).busy = false → ∃ t, exec (.tenancyReset ten) s = .next t ∧ (t.tenOf ten).busy = true ∧
      (∀ q, q < 4 → (t.queue ten q).cons = (s.queue ten q).prod ∧ (t.queue ten q).prod = (s.queue ten q).prod) ∧
      (∀ l ∈ t.launches, l.ten = ten → l.complete = false → l.cancelled = true) ∧
      (s.dom.ten = ten → t.dom.en = false)) ∧
    (s.resetOver ten = false → exec (.tenancyResetComplete ten) s = .next s) ∧
    (s.resetOver ten = true → ∃ t, exec (.tenancyResetComplete ten) s = .next t ∧ (t.tenOf ten).busy = false ∧
      (t.tenOf ten).done = true ∧ (t.tenOf ten).tm = 0 ∧ t.posts = .vector (ten + 1) 0 :: s.posts ∧
      (∀ n, ∀ e ∈ (t.core n).tlb, e.ten ≠ ten) ∧
      ((s.tenOf ten).rootEn = false → t.mem = s.mem) ∧
      ((s.tenOf ten).rootEn = true → ∀ pg ∈ pagesUnder s.mem 5 (s.tenOf ten).root 0, ∀ a, pg.1 ≤ a → a < pg.1 + 2 ^ pg.2 →
        t.mem.read a = 0))) ∧
  (∀ (s : State) (value : Word),
    let v := value.toNat
    let sets (r : DevReg) (n : Nat) : Prop := ∃ t, exec (.registerWrite r value) s = .next t ∧ readReg r t = n ∧ t.mem = s.mem ∧
      t.posts = s.posts
    (∀ r, ∃ t, exec (.registerWrite r value) s = .next t) ∧
    (∀ r, r = .clVer ∨ r = .hbNow ∨ r = .btImghash ∨ r = .pwStat ∨ (∃ n, r = .rlStat n ∨ r = .psStat n ∨ r = .psOwner n ∨
        r = .mxStat n ∨ r = .esCol n ∨ r = .msReg n ∨ r = .tmReg n) ∨ (∃ n i, r = .cqOcc n i ∨ r = .esRel n i ∨ r = .tenAcct n i) →
      exec (.registerWrite r value) s = .next s) ∧
    (∀ n, sets (.trRoot n) (v / 2 ^ 12 % 2 ^ 36 * 2 ^ 12 + v % 2)) ∧ sets .trAccthr (v % 2 ^ 32) ∧
    (∀ n, s.relocating n = false → sets (.rlArena n) (v / 2 ^ 20 % 2 ^ 36 * 2 ^ 20 + v % 2 ^ 20) ∧
      sets (.rlTtab n) (v / 2 ^ 12 % 2 ^ 36 * 2 ^ 12)) ∧
    (∀ n, s.relocating n = true → exec (.registerWrite (.rlArena n) value) s = .next s ∧
      exec (.registerWrite (.rlTtab n) value) s = .next s) ∧
    (∀ n q, v % 32 ≤ 16 → sets (.lqBase n q) (v / 2 ^ 12 % 2 ^ 36 * 2 ^ 12 + v % 32)) ∧
    (∀ c w, sets (.dwAddr c w) (v / 8 % 2 ^ 53 * 8) ∧ sets (.dwCtl c w) (v % 2 ^ 12)) ∧
    (∀ n p, sets (.dbPh n p) (v / 4 % 2 ^ 54 * 4) ∧
      (v / 2 ^ 62 ≠ 3 → sets (.dbPpc n p) (v / 2 ^ 62 * 2 ^ 62 + v / 4 % 2 ^ 54 * 4))) ∧
    (∀ n, sets (.dbPlaunch n) v) ∧ (∀ c u, sets (.dnCtl c u) (v / 2 ^ 8 % 2 ^ 12 * 2 ^ 8 + v % 16)) ∧
    (∀ c u i, i < 15 → sets (.dnEdge c u i) (v % 2 ^ 32)) ∧ sets .hwBase (v / 2 ^ 36 % 2 ^ 12 * 2 ^ 36) ∧
    (400 ≤ v % 2048 → v % 2048 ≤ 1600 → sets .pwCap (v % 2048)) ∧
    (∀ pa, let a := pa / 8 * 8
      s.lineBusy pa none = false → a + 8 ≤ Config.hbmBytes →
      ∃ t, exec (.registerWrite (.ccStore pa) value) s = .next t ∧ t.mem.readN a 8 = v ∧
        ∀ m, m < a ∨ a + 8 ≤ m → t.mem.read m = s.mem.read m) ∧
    (s.lineBusy v none = false → lineOf v + 128 ≤ Config.hbmBytes →
      ∀ r, r = .cboClean ∨ r = .cboFlush ∨ r = .cboInval → ∃ t, exec (.registerWrite r value) s = .next t ∧ t.mem = s.mem ∧
        ∀ j < 128, t.hbm.read (lineOf v + j) = s.mem.read (lineOf v + j)) ∧
    exec (.registerWrite .ccFence value) s = .next s ∧
    (∀ fn, sets (.mailbox false fn) v ∧ ∃ t, exec (.registerWrite (.mailbox true fn) value) s = .next t ∧
      readReg (.mailbox true fn) t = v ∧ t.posts = if 1 ≤ fn ∧ fn ≤ 16 then .vector fn 1 :: s.posts else s.posts) ∧
    (∀ n lai, ∃ t, exec (.registerWrite (.laiLoad n lai) value) s = .next t ∧ t.posts = s.posts ∧
      (t.tenOf n).tm = extend (s.tenOf n).tm lai ∧ ∀ m, m ≠ n → (t.tenOf m).tm = (s.tenOf m).tm) ∧
    (∀ port r, port = .function 0 ∨ (∃ n i, i < 8 ∧ port = .function (n + 1) ∧ r = .tenAcct n i) ∨
        port = .management ∧ (r = .btStat ∨ r = .btImghash ∨ r = .pwCap ∨ r = .pwStat) →
      exec (.registerWrite (.read port r) value) s = .next { s with posts := .regRead port (readReg r s) :: s.posts }) ∧
    ∀ n, v.testBit 3 = false → ∃ t, exec (.registerWrite (.tenCtl n) value) s = .next t ∧ (t.tenOf n).en = v.testBit 0 ∧
      (t.tenOf n).weight = v / 2 ^ 16 % 65536 ∧ (t.tenOf n).busy = (s.tenOf n).busy ∧
      (t.tenOf n).done = ((s.tenOf n).done && !v.testBit 2))
end

