-- ==== Sys2Proof/Laws/State.lean ====
section
/-! SUPPORT. What each update of the state leaves: one lemma per field. -/

namespace Sys2Proof.Machine.State

@[simp] theorem setCore_hb (s : State) (n : Nat) (c : Core) : (s.setCore n c).hb = s.hb := rfl
@[simp] theorem setCore_mem (s : State) (n : Nat) (c : Core) : (s.setCore n c).mem = s.mem := rfl
@[simp] theorem setCore_hbm (s : State) (n : Nat) (c : Core) : (s.setCore n c).hbm = s.hbm := rfl
@[simp] theorem setCore_owner (s : State) (n : Nat) (c : Core) : (s.setCore n c).owner = s.owner := rfl
@[simp] theorem setCore_ecc (s : State) (n : Nat) (c : Core) : (s.setCore n c).ecc = s.ecc := rfl
@[simp] theorem setCore_holds (s : State) (n : Nat) (c : Core) : (s.setCore n c).holds = s.holds := rfl
@[simp] theorem setCore_access (s : State) (n : Nat) (c : Core) : (s.setCore n c).access = s.access := rfl
@[simp] theorem setCore_accDue (s : State) (n : Nat) (c : Core) : (s.setCore n c).accDue = s.accDue := rfl
@[simp] theorem setCore_accThr (s : State) (n : Nat) (c : Core) : (s.setCore n c).accThr = s.accThr := rfl
@[simp] theorem setCore_trBusy (s : State) (n : Nat) (c : Core) : (s.setCore n c).trBusy = s.trBusy := rfl
@[simp] theorem setCore_trPend (s : State) (n : Nat) (c : Core) : (s.setCore n c).trPend = s.trPend := rfl
@[simp] theorem setCore_ctlb (s : State) (n : Nat) (c : Core) : (s.setCore n c).ctlb = s.ctlb := rfl
@[simp] theorem setCore_lineTen (s : State) (n : Nat) (c : Core) : (s.setCore n c).lineTen = s.lineTen := rfl
@[simp] theorem setCore_l2in (s : State) (n : Nat) (c : Core) : (s.setCore n c).l2in = s.l2in := rfl
@[simp] theorem setCore_l2corr (s : State) (n : Nat) (c : Core) : (s.setCore n c).l2corr = s.l2corr := rfl
@[simp] theorem setCore_tens (s : State) (n : Nat) (c : Core) : (s.setCore n c).tens = s.tens := rfl
@[simp] theorem setCore_queues (s : State) (n : Nat) (c : Core) : (s.setCore n c).queues = s.queues := rfl
@[simp] theorem setCore_launches (s : State) (n : Nat) (c : Core) : (s.setCore n c).launches = s.launches := rfl
@[simp] theorem setCore_objs (s : State) (n : Nat) (c : Core) : (s.setCore n c).objs = s.objs := rfl
@[simp] theorem setCore_codes (s : State) (n : Nat) (c : Core) : (s.setCore n c).codes = s.codes := rfl
@[simp] theorem setCore_images (s : State) (n : Nat) (c : Core) : (s.setCore n c).images = s.images := rfl
@[simp] theorem setCore_restores (s : State) (n : Nat) (c : Core) : (s.setCore n c).restores = s.restores := rfl
@[simp] theorem setCore_services (s : State) (n : Nat) (c : Core) : (s.setCore n c).services = s.services := rfl
@[simp] theorem setCore_dlv (s : State) (n : Nat) (c : Core) : (s.setCore n c).dlv = s.dlv := rfl
@[simp] theorem setCore_remote (s : State) (n : Nat) (c : Core) : (s.setCore n c).remote = s.remote := rfl
@[simp] theorem setCore_rel (s : State) (n : Nat) (c : Core) : (s.setCore n c).rel = s.rel := rfl
@[simp] theorem setCore_dom (s : State) (n : Nat) (c : Core) : (s.setCore n c).dom = s.dom := rfl
@[simp] theorem setCore_watch (s : State) (n : Nat) (c : Core) : (s.setCore n c).watch = s.watch := rfl
@[simp] theorem setCore_dbcl (s : State) (n : Nat) (c : Core) : (s.setCore n c).dbcl = s.dbcl := rfl
@[simp] theorem setCore_dens (s : State) (n : Nat) (c : Core) : (s.setCore n c).dens = s.dens := rfl
@[simp] theorem setCore_esRel (s : State) (n : Nat) (c : Core) : (s.setCore n c).esRel = s.esRel := rfl
@[simp] theorem setCore_esCol (s : State) (n : Nat) (c : Core) : (s.setCore n c).esCol = s.esCol := rfl
@[simp] theorem setCore_plat (s : State) (n : Nat) (c : Core) : (s.setCore n c).plat = s.plat := rfl
@[simp] theorem setCore_token (s : State) (n : Nat) (c : Core) : (s.setCore n c).token = s.token := rfl
@[simp] theorem setCore_rrTen (s : State) (n : Nat) (c : Core) : (s.setCore n c).rrTen = s.rrTen := rfl
@[simp] theorem setCore_posts (s : State) (n : Nat) (c : Core) : (s.setCore n c).posts = s.posts := rfl
@[simp] theorem setCore_serial (s : State) (n : Nat) (c : Core) : (s.setCore n c).serial = s.serial := rfl
@[simp] theorem setCore_opSeq (s : State) (n : Nat) (c : Core) : (s.setCore n c).opSeq = s.opSeq := rfl
@[simp] theorem setCore_agenda (s : State) (n : Nat) (c : Core) : (s.setCore n c).agenda = s.agenda := rfl
@[simp] theorem setCore_fresh (s : State) (n : Nat) (c : Core) : (s.setCore n c).fresh = s.fresh := rfl
@[simp] theorem setCore_turn (s : State) (n : Nat) (c : Core) : (s.setCore n c).turn = s.turn := rfl
@[simp] theorem setCore_spun (s : State) (n : Nat) (c : Core) : (s.setCore n c).spun = s.spun := rfl
@[simp] theorem setCore_cur (s : State) (n : Nat) (c : Core) : (s.setCore n c).cur = s.cur := rfl

@[simp] theorem modCore_hb (s : State) (n : Nat) (f : Core → Core) : (s.modCore n f).hb = s.hb := rfl
@[simp] theorem modCore_mem (s : State) (n : Nat) (f : Core → Core) : (s.modCore n f).mem = s.mem := rfl
@[simp] theorem modCore_hbm (s : State) (n : Nat) (f : Core → Core) : (s.modCore n f).hbm = s.hbm := rfl
@[simp] theorem modCore_owner (s : State) (n : Nat) (f : Core → Core) : (s.modCore n f).owner = s.owner := rfl
@[simp] theorem modCore_ecc (s : State) (n : Nat) (f : Core → Core) : (s.modCore n f).ecc = s.ecc := rfl
@[simp] theorem modCore_holds (s : State) (n : Nat) (f : Core → Core) : (s.modCore n f).holds = s.holds := rfl
@[simp] theorem modCore_access (s : State) (n : Nat) (f : Core → Core) : (s.modCore n f).access = s.access := rfl
@[simp] theorem modCore_accDue (s : State) (n : Nat) (f : Core → Core) : (s.modCore n f).accDue = s.accDue := rfl
@[simp] theorem modCore_accThr (s : State) (n : Nat) (f : Core → Core) : (s.modCore n f).accThr = s.accThr := rfl
@[simp] theorem modCore_trBusy (s : State) (n : Nat) (f : Core → Core) : (s.modCore n f).trBusy = s.trBusy := rfl
@[simp] theorem modCore_trPend (s : State) (n : Nat) (f : Core → Core) : (s.modCore n f).trPend = s.trPend := rfl
@[simp] theorem modCore_ctlb (s : State) (n : Nat) (f : Core → Core) : (s.modCore n f).ctlb = s.ctlb := rfl
@[simp] theorem modCore_lineTen (s : State) (n : Nat) (f : Core → Core) : (s.modCore n f).lineTen = s.lineTen := rfl
@[simp] theorem modCore_l2in (s : State) (n : Nat) (f : Core → Core) : (s.modCore n f).l2in = s.l2in := rfl
@[simp] theorem modCore_l2corr (s : State) (n : Nat) (f : Core → Core) : (s.modCore n f).l2corr = s.l2corr := rfl
@[simp] theorem modCore_tens (s : State) (n : Nat) (f : Core → Core) : (s.modCore n f).tens = s.tens := rfl
@[simp] theorem modCore_queues (s : State) (n : Nat) (f : Core → Core) : (s.modCore n f).queues = s.queues := rfl
@[simp] theorem modCore_launches (s : State) (n : Nat) (f : Core → Core) : (s.modCore n f).launches = s.launches := rfl
@[simp] theorem modCore_objs (s : State) (n : Nat) (f : Core → Core) : (s.modCore n f).objs = s.objs := rfl
@[simp] theorem modCore_codes (s : State) (n : Nat) (f : Core → Core) : (s.modCore n f).codes = s.codes := rfl
@[simp] theorem modCore_images (s : State) (n : Nat) (f : Core → Core) : (s.modCore n f).images = s.images := rfl
@[simp] theorem modCore_restores (s : State) (n : Nat) (f : Core → Core) : (s.modCore n f).restores = s.restores := rfl
@[simp] theorem modCore_services (s : State) (n : Nat) (f : Core → Core) : (s.modCore n f).services = s.services := rfl
@[simp] theorem modCore_dlv (s : State) (n : Nat) (f : Core → Core) : (s.modCore n f).dlv = s.dlv := rfl
@[simp] theorem modCore_remote (s : State) (n : Nat) (f : Core → Core) : (s.modCore n f).remote = s.remote := rfl
@[simp] theorem modCore_rel (s : State) (n : Nat) (f : Core → Core) : (s.modCore n f).rel = s.rel := rfl
@[simp] theorem modCore_dom (s : State) (n : Nat) (f : Core → Core) : (s.modCore n f).dom = s.dom := rfl
@[simp] theorem modCore_watch (s : State) (n : Nat) (f : Core → Core) : (s.modCore n f).watch = s.watch := rfl
@[simp] theorem modCore_dbcl (s : State) (n : Nat) (f : Core → Core) : (s.modCore n f).dbcl = s.dbcl := rfl
@[simp] theorem modCore_dens (s : State) (n : Nat) (f : Core → Core) : (s.modCore n f).dens = s.dens := rfl
@[simp] theorem modCore_esRel (s : State) (n : Nat) (f : Core → Core) : (s.modCore n f).esRel = s.esRel := rfl
@[simp] theorem modCore_esCol (s : State) (n : Nat) (f : Core → Core) : (s.modCore n f).esCol = s.esCol := rfl
@[simp] theorem modCore_plat (s : State) (n : Nat) (f : Core → Core) : (s.modCore n f).plat = s.plat := rfl
@[simp] theorem modCore_token (s : State) (n : Nat) (f : Core → Core) : (s.modCore n f).token = s.token := rfl
@[simp] theorem modCore_rrTen (s : State) (n : Nat) (f : Core → Core) : (s.modCore n f).rrTen = s.rrTen := rfl
@[simp] theorem modCore_posts (s : State) (n : Nat) (f : Core → Core) : (s.modCore n f).posts = s.posts := rfl
@[simp] theorem modCore_serial (s : State) (n : Nat) (f : Core → Core) : (s.modCore n f).serial = s.serial := rfl
@[simp] theorem modCore_opSeq (s : State) (n : Nat) (f : Core → Core) : (s.modCore n f).opSeq = s.opSeq := rfl
@[simp] theorem modCore_agenda (s : State) (n : Nat) (f : Core → Core) : (s.modCore n f).agenda = s.agenda := rfl
@[simp] theorem modCore_fresh (s : State) (n : Nat) (f : Core → Core) : (s.modCore n f).fresh = s.fresh := rfl
@[simp] theorem modCore_turn (s : State) (n : Nat) (f : Core → Core) : (s.modCore n f).turn = s.turn := rfl
@[simp] theorem modCore_spun (s : State) (n : Nat) (f : Core → Core) : (s.modCore n f).spun = s.spun := rfl
@[simp] theorem modCore_cur (s : State) (n : Nat) (f : Core → Core) : (s.modCore n f).cur = s.cur := rfl

@[simp] theorem mapCores_hb (s : State) (f : Core → Core) : (s.mapCores f).hb = s.hb := rfl
@[simp] theorem mapCores_mem (s : State) (f : Core → Core) : (s.mapCores f).mem = s.mem := rfl
@[simp] theorem mapCores_hbm (s : State) (f : Core → Core) : (s.mapCores f).hbm = s.hbm := rfl
@[simp] theorem mapCores_owner (s : State) (f : Core → Core) : (s.mapCores f).owner = s.owner := rfl
@[simp] theorem mapCores_ecc (s : State) (f : Core → Core) : (s.mapCores f).ecc = s.ecc := rfl
@[simp] theorem mapCores_holds (s : State) (f : Core → Core) : (s.mapCores f).holds = s.holds := rfl
@[simp] theorem mapCores_access (s : State) (f : Core → Core) : (s.mapCores f).access = s.access := rfl
@[simp] theorem mapCores_accDue (s : State) (f : Core → Core) : (s.mapCores f).accDue = s.accDue := rfl
@[simp] theorem mapCores_accThr (s : State) (f : Core → Core) : (s.mapCores f).accThr = s.accThr := rfl
@[simp] theorem mapCores_trBusy (s : State) (f : Core → Core) : (s.mapCores f).trBusy = s.trBusy := rfl
@[simp] theorem mapCores_trPend (s : State) (f : Core → Core) : (s.mapCores f).trPend = s.trPend := rfl
@[simp] theorem mapCores_ctlb (s : State) (f : Core → Core) : (s.mapCores f).ctlb = s.ctlb := rfl
@[simp] theorem mapCores_lineTen (s : State) (f : Core → Core) : (s.mapCores f).lineTen = s.lineTen := rfl
@[simp] theorem mapCores_l2in (s : State) (f : Core → Core) : (s.mapCores f).l2in = s.l2in := rfl
@[simp] theorem mapCores_l2corr (s : State) (f : Core → Core) : (s.mapCores f).l2corr = s.l2corr := rfl
@[simp] theorem mapCores_tens (s : State) (f : Core → Core) : (s.mapCores f).tens = s.tens := rfl
@[simp] theorem mapCores_queues (s : State) (f : Core → Core) : (s.mapCores f).queues = s.queues := rfl
@[simp] theorem mapCores_launches (s : State) (f : Core → Core) : (s.mapCores f).launches = s.launches := rfl
@[simp] theorem mapCores_objs (s : State) (f : Core → Core) : (s.mapCores f).objs = s.objs := rfl
@[simp] theorem mapCores_codes (s : State) (f : Core → Core) : (s.mapCores f).codes = s.codes := rfl
@[simp] theorem mapCores_images (s : State) (f : Core → Core) : (s.mapCores f).images = s.images := rfl
@[simp] theorem mapCores_restores (s : State) (f : Core → Core) : (s.mapCores f).restores = s.restores := rfl
@[simp] theorem mapCores_services (s : State) (f : Core → Core) : (s.mapCores f).services = s.services := rfl
@[simp] theorem mapCores_dlv (s : State) (f : Core → Core) : (s.mapCores f).dlv = s.dlv := rfl
@[simp] theorem mapCores_remote (s : State) (f : Core → Core) : (s.mapCores f).remote = s.remote := rfl
@[simp] theorem mapCores_rel (s : State) (f : Core → Core) : (s.mapCores f).rel = s.rel := rfl
@[simp] theorem mapCores_dom (s : State) (f : Core → Core) : (s.mapCores f).dom = s.dom := rfl
@[simp] theorem mapCores_watch (s : State) (f : Core → Core) : (s.mapCores f).watch = s.watch := rfl
@[simp] theorem mapCores_dbcl (s : State) (f : Core → Core) : (s.mapCores f).dbcl = s.dbcl := rfl
@[simp] theorem mapCores_dens (s : State) (f : Core → Core) : (s.mapCores f).dens = s.dens := rfl
@[simp] theorem mapCores_esRel (s : State) (f : Core → Core) : (s.mapCores f).esRel = s.esRel := rfl
@[simp] theorem mapCores_esCol (s : State) (f : Core → Core) : (s.mapCores f).esCol = s.esCol := rfl
@[simp] theorem mapCores_plat (s : State) (f : Core → Core) : (s.mapCores f).plat = s.plat := rfl
@[simp] theorem mapCores_token (s : State) (f : Core → Core) : (s.mapCores f).token = s.token := rfl
@[simp] theorem mapCores_rrTen (s : State) (f : Core → Core) : (s.mapCores f).rrTen = s.rrTen := rfl
@[simp] theorem mapCores_posts (s : State) (f : Core → Core) : (s.mapCores f).posts = s.posts := rfl
@[simp] theorem mapCores_serial (s : State) (f : Core → Core) : (s.mapCores f).serial = s.serial := rfl
@[simp] theorem mapCores_opSeq (s : State) (f : Core → Core) : (s.mapCores f).opSeq = s.opSeq := rfl
@[simp] theorem mapCores_agenda (s : State) (f : Core → Core) : (s.mapCores f).agenda = s.agenda := rfl
@[simp] theorem mapCores_fresh (s : State) (f : Core → Core) : (s.mapCores f).fresh = s.fresh := rfl
@[simp] theorem mapCores_turn (s : State) (f : Core → Core) : (s.mapCores f).turn = s.turn := rfl
@[simp] theorem mapCores_spun (s : State) (f : Core → Core) : (s.mapCores f).spun = s.spun := rfl
@[simp] theorem mapCores_cur (s : State) (f : Core → Core) : (s.mapCores f).cur = s.cur := rfl

@[simp] theorem setBoltAt_hb (s : State) (n m : Nat) (b : Bolt) : (s.setBoltAt n m b).hb = s.hb := rfl
@[simp] theorem setBoltAt_mem (s : State) (n m : Nat) (b : Bolt) : (s.setBoltAt n m b).mem = s.mem := rfl
@[simp] theorem setBoltAt_hbm (s : State) (n m : Nat) (b : Bolt) : (s.setBoltAt n m b).hbm = s.hbm := rfl
@[simp] theorem setBoltAt_owner (s : State) (n m : Nat) (b : Bolt) : (s.setBoltAt n m b).owner = s.owner := rfl
@[simp] theorem setBoltAt_ecc (s : State) (n m : Nat) (b : Bolt) : (s.setBoltAt n m b).ecc = s.ecc := rfl
@[simp] theorem setBoltAt_holds (s : State) (n m : Nat) (b : Bolt) : (s.setBoltAt n m b).holds = s.holds := rfl
@[simp] theorem setBoltAt_access (s : State) (n m : Nat) (b : Bolt) : (s.setBoltAt n m b).access = s.access := rfl
@[simp] theorem setBoltAt_accDue (s : State) (n m : Nat) (b : Bolt) : (s.setBoltAt n m b).accDue = s.accDue := rfl
@[simp] theorem setBoltAt_accThr (s : State) (n m : Nat) (b : Bolt) : (s.setBoltAt n m b).accThr = s.accThr := rfl
@[simp] theorem setBoltAt_trBusy (s : State) (n m : Nat) (b : Bolt) : (s.setBoltAt n m b).trBusy = s.trBusy := rfl
@[simp] theorem setBoltAt_trPend (s : State) (n m : Nat) (b : Bolt) : (s.setBoltAt n m b).trPend = s.trPend := rfl
@[simp] theorem setBoltAt_ctlb (s : State) (n m : Nat) (b : Bolt) : (s.setBoltAt n m b).ctlb = s.ctlb := rfl
@[simp] theorem setBoltAt_lineTen (s : State) (n m : Nat) (b : Bolt) : (s.setBoltAt n m b).lineTen = s.lineTen := rfl
@[simp] theorem setBoltAt_l2in (s : State) (n m : Nat) (b : Bolt) : (s.setBoltAt n m b).l2in = s.l2in := rfl
@[simp] theorem setBoltAt_l2corr (s : State) (n m : Nat) (b : Bolt) : (s.setBoltAt n m b).l2corr = s.l2corr := rfl
@[simp] theorem setBoltAt_tens (s : State) (n m : Nat) (b : Bolt) : (s.setBoltAt n m b).tens = s.tens := rfl
@[simp] theorem setBoltAt_queues (s : State) (n m : Nat) (b : Bolt) : (s.setBoltAt n m b).queues = s.queues := rfl
@[simp] theorem setBoltAt_launches (s : State) (n m : Nat) (b : Bolt) : (s.setBoltAt n m b).launches = s.launches := rfl
@[simp] theorem setBoltAt_objs (s : State) (n m : Nat) (b : Bolt) : (s.setBoltAt n m b).objs = s.objs := rfl
@[simp] theorem setBoltAt_codes (s : State) (n m : Nat) (b : Bolt) : (s.setBoltAt n m b).codes = s.codes := rfl
@[simp] theorem setBoltAt_images (s : State) (n m : Nat) (b : Bolt) : (s.setBoltAt n m b).images = s.images := rfl
@[simp] theorem setBoltAt_restores (s : State) (n m : Nat) (b : Bolt) : (s.setBoltAt n m b).restores = s.restores := rfl
@[simp] theorem setBoltAt_services (s : State) (n m : Nat) (b : Bolt) : (s.setBoltAt n m b).services = s.services := rfl
@[simp] theorem setBoltAt_dlv (s : State) (n m : Nat) (b : Bolt) : (s.setBoltAt n m b).dlv = s.dlv := rfl
@[simp] theorem setBoltAt_remote (s : State) (n m : Nat) (b : Bolt) : (s.setBoltAt n m b).remote = s.remote := rfl
@[simp] theorem setBoltAt_rel (s : State) (n m : Nat) (b : Bolt) : (s.setBoltAt n m b).rel = s.rel := rfl
@[simp] theorem setBoltAt_dom (s : State) (n m : Nat) (b : Bolt) : (s.setBoltAt n m b).dom = s.dom := rfl
@[simp] theorem setBoltAt_watch (s : State) (n m : Nat) (b : Bolt) : (s.setBoltAt n m b).watch = s.watch := rfl
@[simp] theorem setBoltAt_dbcl (s : State) (n m : Nat) (b : Bolt) : (s.setBoltAt n m b).dbcl = s.dbcl := rfl
@[simp] theorem setBoltAt_dens (s : State) (n m : Nat) (b : Bolt) : (s.setBoltAt n m b).dens = s.dens := rfl
@[simp] theorem setBoltAt_esRel (s : State) (n m : Nat) (b : Bolt) : (s.setBoltAt n m b).esRel = s.esRel := rfl
@[simp] theorem setBoltAt_esCol (s : State) (n m : Nat) (b : Bolt) : (s.setBoltAt n m b).esCol = s.esCol := rfl
@[simp] theorem setBoltAt_plat (s : State) (n m : Nat) (b : Bolt) : (s.setBoltAt n m b).plat = s.plat := rfl
@[simp] theorem setBoltAt_token (s : State) (n m : Nat) (b : Bolt) : (s.setBoltAt n m b).token = s.token := rfl
@[simp] theorem setBoltAt_rrTen (s : State) (n m : Nat) (b : Bolt) : (s.setBoltAt n m b).rrTen = s.rrTen := rfl
@[simp] theorem setBoltAt_posts (s : State) (n m : Nat) (b : Bolt) : (s.setBoltAt n m b).posts = s.posts := rfl
@[simp] theorem setBoltAt_serial (s : State) (n m : Nat) (b : Bolt) : (s.setBoltAt n m b).serial = s.serial := rfl
@[simp] theorem setBoltAt_opSeq (s : State) (n m : Nat) (b : Bolt) : (s.setBoltAt n m b).opSeq = s.opSeq := rfl
@[simp] theorem setBoltAt_agenda (s : State) (n m : Nat) (b : Bolt) : (s.setBoltAt n m b).agenda = s.agenda := rfl
@[simp] theorem setBoltAt_fresh (s : State) (n m : Nat) (b : Bolt) : (s.setBoltAt n m b).fresh = s.fresh := rfl
@[simp] theorem setBoltAt_turn (s : State) (n m : Nat) (b : Bolt) : (s.setBoltAt n m b).turn = s.turn := rfl
@[simp] theorem setBoltAt_spun (s : State) (n m : Nat) (b : Bolt) : (s.setBoltAt n m b).spun = s.spun := rfl
@[simp] theorem setBoltAt_cur (s : State) (n m : Nat) (b : Bolt) : (s.setBoltAt n m b).cur = s.cur := rfl

@[simp] theorem modBolt_hb (s : State) (f : Bolt → Bolt) : (s.modBolt f).hb = s.hb := rfl
@[simp] theorem modBolt_mem (s : State) (f : Bolt → Bolt) : (s.modBolt f).mem = s.mem := rfl
@[simp] theorem modBolt_hbm (s : State) (f : Bolt → Bolt) : (s.modBolt f).hbm = s.hbm := rfl
@[simp] theorem modBolt_owner (s : State) (f : Bolt → Bolt) : (s.modBolt f).owner = s.owner := rfl
@[simp] theorem modBolt_ecc (s : State) (f : Bolt → Bolt) : (s.modBolt f).ecc = s.ecc := rfl
@[simp] theorem modBolt_holds (s : State) (f : Bolt → Bolt) : (s.modBolt f).holds = s.holds := rfl
@[simp] theorem modBolt_access (s : State) (f : Bolt → Bolt) : (s.modBolt f).access = s.access := rfl
@[simp] theorem modBolt_accDue (s : State) (f : Bolt → Bolt) : (s.modBolt f).accDue = s.accDue := rfl
@[simp] theorem modBolt_accThr (s : State) (f : Bolt → Bolt) : (s.modBolt f).accThr = s.accThr := rfl
@[simp] theorem modBolt_trBusy (s : State) (f : Bolt → Bolt) : (s.modBolt f).trBusy = s.trBusy := rfl
@[simp] theorem modBolt_trPend (s : State) (f : Bolt → Bolt) : (s.modBolt f).trPend = s.trPend := rfl
@[simp] theorem modBolt_ctlb (s : State) (f : Bolt → Bolt) : (s.modBolt f).ctlb = s.ctlb := rfl
@[simp] theorem modBolt_lineTen (s : State) (f : Bolt → Bolt) : (s.modBolt f).lineTen = s.lineTen := rfl
@[simp] theorem modBolt_l2in (s : State) (f : Bolt → Bolt) : (s.modBolt f).l2in = s.l2in := rfl
@[simp] theorem modBolt_l2corr (s : State) (f : Bolt → Bolt) : (s.modBolt f).l2corr = s.l2corr := rfl
@[simp] theorem modBolt_tens (s : State) (f : Bolt → Bolt) : (s.modBolt f).tens = s.tens := rfl
@[simp] theorem modBolt_queues (s : State) (f : Bolt → Bolt) : (s.modBolt f).queues = s.queues := rfl
@[simp] theorem modBolt_launches (s : State) (f : Bolt → Bolt) : (s.modBolt f).launches = s.launches := rfl
@[simp] theorem modBolt_objs (s : State) (f : Bolt → Bolt) : (s.modBolt f).objs = s.objs := rfl
@[simp] theorem modBolt_codes (s : State) (f : Bolt → Bolt) : (s.modBolt f).codes = s.codes := rfl
@[simp] theorem modBolt_images (s : State) (f : Bolt → Bolt) : (s.modBolt f).images = s.images := rfl
@[simp] theorem modBolt_restores (s : State) (f : Bolt → Bolt) : (s.modBolt f).restores = s.restores := rfl
@[simp] theorem modBolt_services (s : State) (f : Bolt → Bolt) : (s.modBolt f).services = s.services := rfl
@[simp] theorem modBolt_dlv (s : State) (f : Bolt → Bolt) : (s.modBolt f).dlv = s.dlv := rfl
@[simp] theorem modBolt_remote (s : State) (f : Bolt → Bolt) : (s.modBolt f).remote = s.remote := rfl
@[simp] theorem modBolt_rel (s : State) (f : Bolt → Bolt) : (s.modBolt f).rel = s.rel := rfl
@[simp] theorem modBolt_dom (s : State) (f : Bolt → Bolt) : (s.modBolt f).dom = s.dom := rfl
@[simp] theorem modBolt_watch (s : State) (f : Bolt → Bolt) : (s.modBolt f).watch = s.watch := rfl
@[simp] theorem modBolt_dbcl (s : State) (f : Bolt → Bolt) : (s.modBolt f).dbcl = s.dbcl := rfl
@[simp] theorem modBolt_dens (s : State) (f : Bolt → Bolt) : (s.modBolt f).dens = s.dens := rfl
@[simp] theorem modBolt_esRel (s : State) (f : Bolt → Bolt) : (s.modBolt f).esRel = s.esRel := rfl
@[simp] theorem modBolt_esCol (s : State) (f : Bolt → Bolt) : (s.modBolt f).esCol = s.esCol := rfl
@[simp] theorem modBolt_plat (s : State) (f : Bolt → Bolt) : (s.modBolt f).plat = s.plat := rfl
@[simp] theorem modBolt_token (s : State) (f : Bolt → Bolt) : (s.modBolt f).token = s.token := rfl
@[simp] theorem modBolt_rrTen (s : State) (f : Bolt → Bolt) : (s.modBolt f).rrTen = s.rrTen := rfl
@[simp] theorem modBolt_posts (s : State) (f : Bolt → Bolt) : (s.modBolt f).posts = s.posts := rfl
@[simp] theorem modBolt_serial (s : State) (f : Bolt → Bolt) : (s.modBolt f).serial = s.serial := rfl
@[simp] theorem modBolt_opSeq (s : State) (f : Bolt → Bolt) : (s.modBolt f).opSeq = s.opSeq := rfl
@[simp] theorem modBolt_agenda (s : State) (f : Bolt → Bolt) : (s.modBolt f).agenda = s.agenda := rfl
@[simp] theorem modBolt_fresh (s : State) (f : Bolt → Bolt) : (s.modBolt f).fresh = s.fresh := rfl
@[simp] theorem modBolt_turn (s : State) (f : Bolt → Bolt) : (s.modBolt f).turn = s.turn := rfl
@[simp] theorem modBolt_spun (s : State) (f : Bolt → Bolt) : (s.modBolt f).spun = s.spun := rfl
@[simp] theorem modBolt_cur (s : State) (f : Bolt → Bolt) : (s.modBolt f).cur = s.cur := rfl

@[simp] theorem modSw_hb (s : State) (f : Swatch → Swatch) : (s.modSw f).hb = s.hb := rfl
@[simp] theorem modSw_mem (s : State) (f : Swatch → Swatch) : (s.modSw f).mem = s.mem := rfl
@[simp] theorem modSw_hbm (s : State) (f : Swatch → Swatch) : (s.modSw f).hbm = s.hbm := rfl
@[simp] theorem modSw_owner (s : State) (f : Swatch → Swatch) : (s.modSw f).owner = s.owner := rfl
@[simp] theorem modSw_ecc (s : State) (f : Swatch → Swatch) : (s.modSw f).ecc = s.ecc := rfl
@[simp] theorem modSw_holds (s : State) (f : Swatch → Swatch) : (s.modSw f).holds = s.holds := rfl
@[simp] theorem modSw_access (s : State) (f : Swatch → Swatch) : (s.modSw f).access = s.access := rfl
@[simp] theorem modSw_accDue (s : State) (f : Swatch → Swatch) : (s.modSw f).accDue = s.accDue := rfl
@[simp] theorem modSw_accThr (s : State) (f : Swatch → Swatch) : (s.modSw f).accThr = s.accThr := rfl
@[simp] theorem modSw_trBusy (s : State) (f : Swatch → Swatch) : (s.modSw f).trBusy = s.trBusy := rfl
@[simp] theorem modSw_trPend (s : State) (f : Swatch → Swatch) : (s.modSw f).trPend = s.trPend := rfl
@[simp] theorem modSw_ctlb (s : State) (f : Swatch → Swatch) : (s.modSw f).ctlb = s.ctlb := rfl
@[simp] theorem modSw_lineTen (s : State) (f : Swatch → Swatch) : (s.modSw f).lineTen = s.lineTen := rfl
@[simp] theorem modSw_l2in (s : State) (f : Swatch → Swatch) : (s.modSw f).l2in = s.l2in := rfl
@[simp] theorem modSw_l2corr (s : State) (f : Swatch → Swatch) : (s.modSw f).l2corr = s.l2corr := rfl
@[simp] theorem modSw_tens (s : State) (f : Swatch → Swatch) : (s.modSw f).tens = s.tens := rfl
@[simp] theorem modSw_queues (s : State) (f : Swatch → Swatch) : (s.modSw f).queues = s.queues := rfl
@[simp] theorem modSw_launches (s : State) (f : Swatch → Swatch) : (s.modSw f).launches = s.launches := rfl
@[simp] theorem modSw_objs (s : State) (f : Swatch → Swatch) : (s.modSw f).objs = s.objs := rfl
@[simp] theorem modSw_codes (s : State) (f : Swatch → Swatch) : (s.modSw f).codes = s.codes := rfl
@[simp] theorem modSw_images (s : State) (f : Swatch → Swatch) : (s.modSw f).images = s.images := rfl
@[simp] theorem modSw_restores (s : State) (f : Swatch → Swatch) : (s.modSw f).restores = s.restores := rfl
@[simp] theorem modSw_services (s : State) (f : Swatch → Swatch) : (s.modSw f).services = s.services := rfl
@[simp] theorem modSw_dlv (s : State) (f : Swatch → Swatch) : (s.modSw f).dlv = s.dlv := rfl
@[simp] theorem modSw_remote (s : State) (f : Swatch → Swatch) : (s.modSw f).remote = s.remote := rfl
@[simp] theorem modSw_rel (s : State) (f : Swatch → Swatch) : (s.modSw f).rel = s.rel := rfl
@[simp] theorem modSw_dom (s : State) (f : Swatch → Swatch) : (s.modSw f).dom = s.dom := rfl
@[simp] theorem modSw_watch (s : State) (f : Swatch → Swatch) : (s.modSw f).watch = s.watch := rfl
@[simp] theorem modSw_dbcl (s : State) (f : Swatch → Swatch) : (s.modSw f).dbcl = s.dbcl := rfl
@[simp] theorem modSw_dens (s : State) (f : Swatch → Swatch) : (s.modSw f).dens = s.dens := rfl
@[simp] theorem modSw_esRel (s : State) (f : Swatch → Swatch) : (s.modSw f).esRel = s.esRel := rfl
@[simp] theorem modSw_esCol (s : State) (f : Swatch → Swatch) : (s.modSw f).esCol = s.esCol := rfl
@[simp] theorem modSw_plat (s : State) (f : Swatch → Swatch) : (s.modSw f).plat = s.plat := rfl
@[simp] theorem modSw_token (s : State) (f : Swatch → Swatch) : (s.modSw f).token = s.token := rfl
@[simp] theorem modSw_rrTen (s : State) (f : Swatch → Swatch) : (s.modSw f).rrTen = s.rrTen := rfl
@[simp] theorem modSw_posts (s : State) (f : Swatch → Swatch) : (s.modSw f).posts = s.posts := rfl
@[simp] theorem modSw_serial (s : State) (f : Swatch → Swatch) : (s.modSw f).serial = s.serial := rfl
@[simp] theorem modSw_opSeq (s : State) (f : Swatch → Swatch) : (s.modSw f).opSeq = s.opSeq := rfl
@[simp] theorem modSw_agenda (s : State) (f : Swatch → Swatch) : (s.modSw f).agenda = s.agenda := rfl
@[simp] theorem modSw_fresh (s : State) (f : Swatch → Swatch) : (s.modSw f).fresh = s.fresh := rfl
@[simp] theorem modSw_turn (s : State) (f : Swatch → Swatch) : (s.modSw f).turn = s.turn := rfl
@[simp] theorem modSw_spun (s : State) (f : Swatch → Swatch) : (s.modSw f).spun = s.spun := rfl
@[simp] theorem modSw_cur (s : State) (f : Swatch → Swatch) : (s.modSw f).cur = s.cur := rfl

@[simp] theorem modPanelAt_hb (s : State) (n p : Nat) (f : Panel → Panel) : (s.modPanelAt n p f).hb = s.hb := rfl
@[simp] theorem modPanelAt_mem (s : State) (n p : Nat) (f : Panel → Panel) : (s.modPanelAt n p f).mem = s.mem := rfl
@[simp] theorem modPanelAt_hbm (s : State) (n p : Nat) (f : Panel → Panel) : (s.modPanelAt n p f).hbm = s.hbm := rfl
@[simp] theorem modPanelAt_owner (s : State) (n p : Nat) (f : Panel → Panel) : (s.modPanelAt n p f).owner = s.owner := rfl
@[simp] theorem modPanelAt_ecc (s : State) (n p : Nat) (f : Panel → Panel) : (s.modPanelAt n p f).ecc = s.ecc := rfl
@[simp] theorem modPanelAt_holds (s : State) (n p : Nat) (f : Panel → Panel) : (s.modPanelAt n p f).holds = s.holds := rfl
@[simp] theorem modPanelAt_access (s : State) (n p : Nat) (f : Panel → Panel) : (s.modPanelAt n p f).access = s.access := rfl
@[simp] theorem modPanelAt_accDue (s : State) (n p : Nat) (f : Panel → Panel) : (s.modPanelAt n p f).accDue = s.accDue := rfl
@[simp] theorem modPanelAt_accThr (s : State) (n p : Nat) (f : Panel → Panel) : (s.modPanelAt n p f).accThr = s.accThr := rfl
@[simp] theorem modPanelAt_trBusy (s : State) (n p : Nat) (f : Panel → Panel) : (s.modPanelAt n p f).trBusy = s.trBusy := rfl
@[simp] theorem modPanelAt_trPend (s : State) (n p : Nat) (f : Panel → Panel) : (s.modPanelAt n p f).trPend = s.trPend := rfl
@[simp] theorem modPanelAt_ctlb (s : State) (n p : Nat) (f : Panel → Panel) : (s.modPanelAt n p f).ctlb = s.ctlb := rfl
@[simp] theorem modPanelAt_lineTen (s : State) (n p : Nat) (f : Panel → Panel) : (s.modPanelAt n p f).lineTen = s.lineTen := rfl
@[simp] theorem modPanelAt_l2in (s : State) (n p : Nat) (f : Panel → Panel) : (s.modPanelAt n p f).l2in = s.l2in := rfl
@[simp] theorem modPanelAt_l2corr (s : State) (n p : Nat) (f : Panel → Panel) : (s.modPanelAt n p f).l2corr = s.l2corr := rfl
@[simp] theorem modPanelAt_tens (s : State) (n p : Nat) (f : Panel → Panel) : (s.modPanelAt n p f).tens = s.tens := rfl
@[simp] theorem modPanelAt_queues (s : State) (n p : Nat) (f : Panel → Panel) : (s.modPanelAt n p f).queues = s.queues := rfl
@[simp] theorem modPanelAt_launches (s : State) (n p : Nat) (f : Panel → Panel) : (s.modPanelAt n p f).launches = s.launches := rfl
@[simp] theorem modPanelAt_objs (s : State) (n p : Nat) (f : Panel → Panel) : (s.modPanelAt n p f).objs = s.objs := rfl
@[simp] theorem modPanelAt_codes (s : State) (n p : Nat) (f : Panel → Panel) : (s.modPanelAt n p f).codes = s.codes := rfl
@[simp] theorem modPanelAt_images (s : State) (n p : Nat) (f : Panel → Panel) : (s.modPanelAt n p f).images = s.images := rfl
@[simp] theorem modPanelAt_restores (s : State) (n p : Nat) (f : Panel → Panel) : (s.modPanelAt n p f).restores = s.restores := rfl
@[simp] theorem modPanelAt_services (s : State) (n p : Nat) (f : Panel → Panel) : (s.modPanelAt n p f).services = s.services := rfl
@[simp] theorem modPanelAt_dlv (s : State) (n p : Nat) (f : Panel → Panel) : (s.modPanelAt n p f).dlv = s.dlv := rfl
@[simp] theorem modPanelAt_remote (s : State) (n p : Nat) (f : Panel → Panel) : (s.modPanelAt n p f).remote = s.remote := rfl
@[simp] theorem modPanelAt_rel (s : State) (n p : Nat) (f : Panel → Panel) : (s.modPanelAt n p f).rel = s.rel := rfl
@[simp] theorem modPanelAt_dom (s : State) (n p : Nat) (f : Panel → Panel) : (s.modPanelAt n p f).dom = s.dom := rfl
@[simp] theorem modPanelAt_watch (s : State) (n p : Nat) (f : Panel → Panel) : (s.modPanelAt n p f).watch = s.watch := rfl
@[simp] theorem modPanelAt_dbcl (s : State) (n p : Nat) (f : Panel → Panel) : (s.modPanelAt n p f).dbcl = s.dbcl := rfl
@[simp] theorem modPanelAt_dens (s : State) (n p : Nat) (f : Panel → Panel) : (s.modPanelAt n p f).dens = s.dens := rfl
@[simp] theorem modPanelAt_esRel (s : State) (n p : Nat) (f : Panel → Panel) : (s.modPanelAt n p f).esRel = s.esRel := rfl
@[simp] theorem modPanelAt_esCol (s : State) (n p : Nat) (f : Panel → Panel) : (s.modPanelAt n p f).esCol = s.esCol := rfl
@[simp] theorem modPanelAt_plat (s : State) (n p : Nat) (f : Panel → Panel) : (s.modPanelAt n p f).plat = s.plat := rfl
@[simp] theorem modPanelAt_token (s : State) (n p : Nat) (f : Panel → Panel) : (s.modPanelAt n p f).token = s.token := rfl
@[simp] theorem modPanelAt_rrTen (s : State) (n p : Nat) (f : Panel → Panel) : (s.modPanelAt n p f).rrTen = s.rrTen := rfl
@[simp] theorem modPanelAt_posts (s : State) (n p : Nat) (f : Panel → Panel) : (s.modPanelAt n p f).posts = s.posts := rfl
@[simp] theorem modPanelAt_serial (s : State) (n p : Nat) (f : Panel → Panel) : (s.modPanelAt n p f).serial = s.serial := rfl
@[simp] theorem modPanelAt_opSeq (s : State) (n p : Nat) (f : Panel → Panel) : (s.modPanelAt n p f).opSeq = s.opSeq := rfl
@[simp] theorem modPanelAt_agenda (s : State) (n p : Nat) (f : Panel → Panel) : (s.modPanelAt n p f).agenda = s.agenda := rfl
@[simp] theorem modPanelAt_fresh (s : State) (n p : Nat) (f : Panel → Panel) : (s.modPanelAt n p f).fresh = s.fresh := rfl
@[simp] theorem modPanelAt_turn (s : State) (n p : Nat) (f : Panel → Panel) : (s.modPanelAt n p f).turn = s.turn := rfl
@[simp] theorem modPanelAt_spun (s : State) (n p : Nat) (f : Panel → Panel) : (s.modPanelAt n p f).spun = s.spun := rfl
@[simp] theorem modPanelAt_cur (s : State) (n p : Nat) (f : Panel → Panel) : (s.modPanelAt n p f).cur = s.cur := rfl

@[simp] theorem setCellK_hb (s : State) (k : Nat) (c : Cell) : (s.setCellK k c).hb = s.hb := rfl
@[simp] theorem setCellK_mem (s : State) (k : Nat) (c : Cell) : (s.setCellK k c).mem = s.mem := rfl
@[simp] theorem setCellK_hbm (s : State) (k : Nat) (c : Cell) : (s.setCellK k c).hbm = s.hbm := rfl
@[simp] theorem setCellK_owner (s : State) (k : Nat) (c : Cell) : (s.setCellK k c).owner = s.owner := rfl
@[simp] theorem setCellK_ecc (s : State) (k : Nat) (c : Cell) : (s.setCellK k c).ecc = s.ecc := rfl
@[simp] theorem setCellK_holds (s : State) (k : Nat) (c : Cell) : (s.setCellK k c).holds = s.holds := rfl
@[simp] theorem setCellK_access (s : State) (k : Nat) (c : Cell) : (s.setCellK k c).access = s.access := rfl
@[simp] theorem setCellK_accDue (s : State) (k : Nat) (c : Cell) : (s.setCellK k c).accDue = s.accDue := rfl
@[simp] theorem setCellK_accThr (s : State) (k : Nat) (c : Cell) : (s.setCellK k c).accThr = s.accThr := rfl
@[simp] theorem setCellK_trBusy (s : State) (k : Nat) (c : Cell) : (s.setCellK k c).trBusy = s.trBusy := rfl
@[simp] theorem setCellK_trPend (s : State) (k : Nat) (c : Cell) : (s.setCellK k c).trPend = s.trPend := rfl
@[simp] theorem setCellK_ctlb (s : State) (k : Nat) (c : Cell) : (s.setCellK k c).ctlb = s.ctlb := rfl
@[simp] theorem setCellK_lineTen (s : State) (k : Nat) (c : Cell) : (s.setCellK k c).lineTen = s.lineTen := rfl
@[simp] theorem setCellK_l2in (s : State) (k : Nat) (c : Cell) : (s.setCellK k c).l2in = s.l2in := rfl
@[simp] theorem setCellK_l2corr (s : State) (k : Nat) (c : Cell) : (s.setCellK k c).l2corr = s.l2corr := rfl
@[simp] theorem setCellK_tens (s : State) (k : Nat) (c : Cell) : (s.setCellK k c).tens = s.tens := rfl
@[simp] theorem setCellK_queues (s : State) (k : Nat) (c : Cell) : (s.setCellK k c).queues = s.queues := rfl
@[simp] theorem setCellK_launches (s : State) (k : Nat) (c : Cell) : (s.setCellK k c).launches = s.launches := rfl
@[simp] theorem setCellK_objs (s : State) (k : Nat) (c : Cell) : (s.setCellK k c).objs = s.objs := rfl
@[simp] theorem setCellK_codes (s : State) (k : Nat) (c : Cell) : (s.setCellK k c).codes = s.codes := rfl
@[simp] theorem setCellK_images (s : State) (k : Nat) (c : Cell) : (s.setCellK k c).images = s.images := rfl
@[simp] theorem setCellK_restores (s : State) (k : Nat) (c : Cell) : (s.setCellK k c).restores = s.restores := rfl
@[simp] theorem setCellK_services (s : State) (k : Nat) (c : Cell) : (s.setCellK k c).services = s.services := rfl
@[simp] theorem setCellK_dlv (s : State) (k : Nat) (c : Cell) : (s.setCellK k c).dlv = s.dlv := rfl
@[simp] theorem setCellK_remote (s : State) (k : Nat) (c : Cell) : (s.setCellK k c).remote = s.remote := rfl
@[simp] theorem setCellK_rel (s : State) (k : Nat) (c : Cell) : (s.setCellK k c).rel = s.rel := rfl
@[simp] theorem setCellK_dom (s : State) (k : Nat) (c : Cell) : (s.setCellK k c).dom = s.dom := rfl
@[simp] theorem setCellK_watch (s : State) (k : Nat) (c : Cell) : (s.setCellK k c).watch = s.watch := rfl
@[simp] theorem setCellK_dbcl (s : State) (k : Nat) (c : Cell) : (s.setCellK k c).dbcl = s.dbcl := rfl
@[simp] theorem setCellK_dens (s : State) (k : Nat) (c : Cell) : (s.setCellK k c).dens = s.dens := rfl
@[simp] theorem setCellK_esRel (s : State) (k : Nat) (c : Cell) : (s.setCellK k c).esRel = s.esRel := rfl
@[simp] theorem setCellK_esCol (s : State) (k : Nat) (c : Cell) : (s.setCellK k c).esCol = s.esCol := rfl
@[simp] theorem setCellK_plat (s : State) (k : Nat) (c : Cell) : (s.setCellK k c).plat = s.plat := rfl
@[simp] theorem setCellK_token (s : State) (k : Nat) (c : Cell) : (s.setCellK k c).token = s.token := rfl
@[simp] theorem setCellK_rrTen (s : State) (k : Nat) (c : Cell) : (s.setCellK k c).rrTen = s.rrTen := rfl
@[simp] theorem setCellK_posts (s : State) (k : Nat) (c : Cell) : (s.setCellK k c).posts = s.posts := rfl
@[simp] theorem setCellK_serial (s : State) (k : Nat) (c : Cell) : (s.setCellK k c).serial = s.serial := rfl
@[simp] theorem setCellK_opSeq (s : State) (k : Nat) (c : Cell) : (s.setCellK k c).opSeq = s.opSeq := rfl
@[simp] theorem setCellK_agenda (s : State) (k : Nat) (c : Cell) : (s.setCellK k c).agenda = s.agenda := rfl
@[simp] theorem setCellK_fresh (s : State) (k : Nat) (c : Cell) : (s.setCellK k c).fresh = s.fresh := rfl
@[simp] theorem setCellK_turn (s : State) (k : Nat) (c : Cell) : (s.setCellK k c).turn = s.turn := rfl
@[simp] theorem setCellK_spun (s : State) (k : Nat) (c : Cell) : (s.setCellK k c).spun = s.spun := rfl
@[simp] theorem setCellK_cur (s : State) (k : Nat) (c : Cell) : (s.setCellK k c).cur = s.cur := rfl

@[simp] theorem setCell_hb (s : State) (c : Code) (l : Nat) (x : Cell) : (s.setCell c l x).hb = s.hb := rfl
@[simp] theorem setCell_mem (s : State) (c : Code) (l : Nat) (x : Cell) : (s.setCell c l x).mem = s.mem := rfl
@[simp] theorem setCell_hbm (s : State) (c : Code) (l : Nat) (x : Cell) : (s.setCell c l x).hbm = s.hbm := rfl
@[simp] theorem setCell_owner (s : State) (c : Code) (l : Nat) (x : Cell) : (s.setCell c l x).owner = s.owner := rfl
@[simp] theorem setCell_ecc (s : State) (c : Code) (l : Nat) (x : Cell) : (s.setCell c l x).ecc = s.ecc := rfl
@[simp] theorem setCell_holds (s : State) (c : Code) (l : Nat) (x : Cell) : (s.setCell c l x).holds = s.holds := rfl
@[simp] theorem setCell_access (s : State) (c : Code) (l : Nat) (x : Cell) : (s.setCell c l x).access = s.access := rfl
@[simp] theorem setCell_accDue (s : State) (c : Code) (l : Nat) (x : Cell) : (s.setCell c l x).accDue = s.accDue := rfl
@[simp] theorem setCell_accThr (s : State) (c : Code) (l : Nat) (x : Cell) : (s.setCell c l x).accThr = s.accThr := rfl
@[simp] theorem setCell_trBusy (s : State) (c : Code) (l : Nat) (x : Cell) : (s.setCell c l x).trBusy = s.trBusy := rfl
@[simp] theorem setCell_trPend (s : State) (c : Code) (l : Nat) (x : Cell) : (s.setCell c l x).trPend = s.trPend := rfl
@[simp] theorem setCell_ctlb (s : State) (c : Code) (l : Nat) (x : Cell) : (s.setCell c l x).ctlb = s.ctlb := rfl
@[simp] theorem setCell_lineTen (s : State) (c : Code) (l : Nat) (x : Cell) : (s.setCell c l x).lineTen = s.lineTen := rfl
@[simp] theorem setCell_l2in (s : State) (c : Code) (l : Nat) (x : Cell) : (s.setCell c l x).l2in = s.l2in := rfl
@[simp] theorem setCell_l2corr (s : State) (c : Code) (l : Nat) (x : Cell) : (s.setCell c l x).l2corr = s.l2corr := rfl
@[simp] theorem setCell_tens (s : State) (c : Code) (l : Nat) (x : Cell) : (s.setCell c l x).tens = s.tens := rfl
@[simp] theorem setCell_queues (s : State) (c : Code) (l : Nat) (x : Cell) : (s.setCell c l x).queues = s.queues := rfl
@[simp] theorem setCell_launches (s : State) (c : Code) (l : Nat) (x : Cell) : (s.setCell c l x).launches = s.launches := rfl
@[simp] theorem setCell_objs (s : State) (c : Code) (l : Nat) (x : Cell) : (s.setCell c l x).objs = s.objs := rfl
@[simp] theorem setCell_codes (s : State) (c : Code) (l : Nat) (x : Cell) : (s.setCell c l x).codes = s.codes := rfl
@[simp] theorem setCell_images (s : State) (c : Code) (l : Nat) (x : Cell) : (s.setCell c l x).images = s.images := rfl
@[simp] theorem setCell_restores (s : State) (c : Code) (l : Nat) (x : Cell) : (s.setCell c l x).restores = s.restores := rfl
@[simp] theorem setCell_services (s : State) (c : Code) (l : Nat) (x : Cell) : (s.setCell c l x).services = s.services := rfl
@[simp] theorem setCell_dlv (s : State) (c : Code) (l : Nat) (x : Cell) : (s.setCell c l x).dlv = s.dlv := rfl
@[simp] theorem setCell_remote (s : State) (c : Code) (l : Nat) (x : Cell) : (s.setCell c l x).remote = s.remote := rfl
@[simp] theorem setCell_rel (s : State) (c : Code) (l : Nat) (x : Cell) : (s.setCell c l x).rel = s.rel := rfl
@[simp] theorem setCell_dom (s : State) (c : Code) (l : Nat) (x : Cell) : (s.setCell c l x).dom = s.dom := rfl
@[simp] theorem setCell_watch (s : State) (c : Code) (l : Nat) (x : Cell) : (s.setCell c l x).watch = s.watch := rfl
@[simp] theorem setCell_dbcl (s : State) (c : Code) (l : Nat) (x : Cell) : (s.setCell c l x).dbcl = s.dbcl := rfl
@[simp] theorem setCell_dens (s : State) (c : Code) (l : Nat) (x : Cell) : (s.setCell c l x).dens = s.dens := rfl
@[simp] theorem setCell_esRel (s : State) (c : Code) (l : Nat) (x : Cell) : (s.setCell c l x).esRel = s.esRel := rfl
@[simp] theorem setCell_esCol (s : State) (c : Code) (l : Nat) (x : Cell) : (s.setCell c l x).esCol = s.esCol := rfl
@[simp] theorem setCell_plat (s : State) (c : Code) (l : Nat) (x : Cell) : (s.setCell c l x).plat = s.plat := rfl
@[simp] theorem setCell_token (s : State) (c : Code) (l : Nat) (x : Cell) : (s.setCell c l x).token = s.token := rfl
@[simp] theorem setCell_rrTen (s : State) (c : Code) (l : Nat) (x : Cell) : (s.setCell c l x).rrTen = s.rrTen := rfl
@[simp] theorem setCell_posts (s : State) (c : Code) (l : Nat) (x : Cell) : (s.setCell c l x).posts = s.posts := rfl
@[simp] theorem setCell_serial (s : State) (c : Code) (l : Nat) (x : Cell) : (s.setCell c l x).serial = s.serial := rfl
@[simp] theorem setCell_opSeq (s : State) (c : Code) (l : Nat) (x : Cell) : (s.setCell c l x).opSeq = s.opSeq := rfl
@[simp] theorem setCell_agenda (s : State) (c : Code) (l : Nat) (x : Cell) : (s.setCell c l x).agenda = s.agenda := rfl
@[simp] theorem setCell_fresh (s : State) (c : Code) (l : Nat) (x : Cell) : (s.setCell c l x).fresh = s.fresh := rfl
@[simp] theorem setCell_turn (s : State) (c : Code) (l : Nat) (x : Cell) : (s.setCell c l x).turn = s.turn := rfl
@[simp] theorem setCell_spun (s : State) (c : Code) (l : Nat) (x : Cell) : (s.setCell c l x).spun = s.spun := rfl
@[simp] theorem setCell_cur (s : State) (c : Code) (l : Nat) (x : Cell) : (s.setCell c l x).cur = s.cur := rfl

@[simp] theorem modLaunch_hb (s : State) (i : Word) (f : Launch → Launch) : (s.modLaunch i f).hb = s.hb := rfl
@[simp] theorem modLaunch_mem (s : State) (i : Word) (f : Launch → Launch) : (s.modLaunch i f).mem = s.mem := rfl
@[simp] theorem modLaunch_hbm (s : State) (i : Word) (f : Launch → Launch) : (s.modLaunch i f).hbm = s.hbm := rfl
@[simp] theorem modLaunch_owner (s : State) (i : Word) (f : Launch → Launch) : (s.modLaunch i f).owner = s.owner := rfl
@[simp] theorem modLaunch_ecc (s : State) (i : Word) (f : Launch → Launch) : (s.modLaunch i f).ecc = s.ecc := rfl
@[simp] theorem modLaunch_holds (s : State) (i : Word) (f : Launch → Launch) : (s.modLaunch i f).holds = s.holds := rfl
@[simp] theorem modLaunch_access (s : State) (i : Word) (f : Launch → Launch) : (s.modLaunch i f).access = s.access := rfl
@[simp] theorem modLaunch_accDue (s : State) (i : Word) (f : Launch → Launch) : (s.modLaunch i f).accDue = s.accDue := rfl
@[simp] theorem modLaunch_accThr (s : State) (i : Word) (f : Launch → Launch) : (s.modLaunch i f).accThr = s.accThr := rfl
@[simp] theorem modLaunch_trBusy (s : State) (i : Word) (f : Launch → Launch) : (s.modLaunch i f).trBusy = s.trBusy := rfl
@[simp] theorem modLaunch_trPend (s : State) (i : Word) (f : Launch → Launch) : (s.modLaunch i f).trPend = s.trPend := rfl
@[simp] theorem modLaunch_ctlb (s : State) (i : Word) (f : Launch → Launch) : (s.modLaunch i f).ctlb = s.ctlb := rfl
@[simp] theorem modLaunch_lineTen (s : State) (i : Word) (f : Launch → Launch) : (s.modLaunch i f).lineTen = s.lineTen := rfl
@[simp] theorem modLaunch_l2in (s : State) (i : Word) (f : Launch → Launch) : (s.modLaunch i f).l2in = s.l2in := rfl
@[simp] theorem modLaunch_l2corr (s : State) (i : Word) (f : Launch → Launch) : (s.modLaunch i f).l2corr = s.l2corr := rfl
@[simp] theorem modLaunch_cores (s : State) (i : Word) (f : Launch → Launch) : (s.modLaunch i f).cores = s.cores := rfl
@[simp] theorem modLaunch_tens (s : State) (i : Word) (f : Launch → Launch) : (s.modLaunch i f).tens = s.tens := rfl
@[simp] theorem modLaunch_queues (s : State) (i : Word) (f : Launch → Launch) : (s.modLaunch i f).queues = s.queues := rfl
@[simp] theorem modLaunch_objs (s : State) (i : Word) (f : Launch → Launch) : (s.modLaunch i f).objs = s.objs := rfl
@[simp] theorem modLaunch_codes (s : State) (i : Word) (f : Launch → Launch) : (s.modLaunch i f).codes = s.codes := rfl
@[simp] theorem modLaunch_images (s : State) (i : Word) (f : Launch → Launch) : (s.modLaunch i f).images = s.images := rfl
@[simp] theorem modLaunch_restores (s : State) (i : Word) (f : Launch → Launch) : (s.modLaunch i f).restores = s.restores := rfl
@[simp] theorem modLaunch_services (s : State) (i : Word) (f : Launch → Launch) : (s.modLaunch i f).services = s.services := rfl
@[simp] theorem modLaunch_dlv (s : State) (i : Word) (f : Launch → Launch) : (s.modLaunch i f).dlv = s.dlv := rfl
@[simp] theorem modLaunch_remote (s : State) (i : Word) (f : Launch → Launch) : (s.modLaunch i f).remote = s.remote := rfl
@[simp] theorem modLaunch_rel (s : State) (i : Word) (f : Launch → Launch) : (s.modLaunch i f).rel = s.rel := rfl
@[simp] theorem modLaunch_dom (s : State) (i : Word) (f : Launch → Launch) : (s.modLaunch i f).dom = s.dom := rfl
@[simp] theorem modLaunch_watch (s : State) (i : Word) (f : Launch → Launch) : (s.modLaunch i f).watch = s.watch := rfl
@[simp] theorem modLaunch_dbcl (s : State) (i : Word) (f : Launch → Launch) : (s.modLaunch i f).dbcl = s.dbcl := rfl
@[simp] theorem modLaunch_dens (s : State) (i : Word) (f : Launch → Launch) : (s.modLaunch i f).dens = s.dens := rfl
@[simp] theorem modLaunch_esRel (s : State) (i : Word) (f : Launch → Launch) : (s.modLaunch i f).esRel = s.esRel := rfl
@[simp] theorem modLaunch_esCol (s : State) (i : Word) (f : Launch → Launch) : (s.modLaunch i f).esCol = s.esCol := rfl
@[simp] theorem modLaunch_plat (s : State) (i : Word) (f : Launch → Launch) : (s.modLaunch i f).plat = s.plat := rfl
@[simp] theorem modLaunch_token (s : State) (i : Word) (f : Launch → Launch) : (s.modLaunch i f).token = s.token := rfl
@[simp] theorem modLaunch_rrTen (s : State) (i : Word) (f : Launch → Launch) : (s.modLaunch i f).rrTen = s.rrTen := rfl
@[simp] theorem modLaunch_posts (s : State) (i : Word) (f : Launch → Launch) : (s.modLaunch i f).posts = s.posts := rfl
@[simp] theorem modLaunch_serial (s : State) (i : Word) (f : Launch → Launch) : (s.modLaunch i f).serial = s.serial := rfl
@[simp] theorem modLaunch_opSeq (s : State) (i : Word) (f : Launch → Launch) : (s.modLaunch i f).opSeq = s.opSeq := rfl
@[simp] theorem modLaunch_agenda (s : State) (i : Word) (f : Launch → Launch) : (s.modLaunch i f).agenda = s.agenda := rfl
@[simp] theorem modLaunch_fresh (s : State) (i : Word) (f : Launch → Launch) : (s.modLaunch i f).fresh = s.fresh := rfl
@[simp] theorem modLaunch_turn (s : State) (i : Word) (f : Launch → Launch) : (s.modLaunch i f).turn = s.turn := rfl
@[simp] theorem modLaunch_spun (s : State) (i : Word) (f : Launch → Launch) : (s.modLaunch i f).spun = s.spun := rfl
@[simp] theorem modLaunch_cur (s : State) (i : Word) (f : Launch → Launch) : (s.modLaunch i f).cur = s.cur := rfl

@[simp] theorem modTen_hb (s : State) (n : Nat) (f : Tenancy → Tenancy) : (s.modTen n f).hb = s.hb := rfl
@[simp] theorem modTen_mem (s : State) (n : Nat) (f : Tenancy → Tenancy) : (s.modTen n f).mem = s.mem := rfl
@[simp] theorem modTen_hbm (s : State) (n : Nat) (f : Tenancy → Tenancy) : (s.modTen n f).hbm = s.hbm := rfl
@[simp] theorem modTen_owner (s : State) (n : Nat) (f : Tenancy → Tenancy) : (s.modTen n f).owner = s.owner := rfl
@[simp] theorem modTen_ecc (s : State) (n : Nat) (f : Tenancy → Tenancy) : (s.modTen n f).ecc = s.ecc := rfl
@[simp] theorem modTen_holds (s : State) (n : Nat) (f : Tenancy → Tenancy) : (s.modTen n f).holds = s.holds := rfl
@[simp] theorem modTen_access (s : State) (n : Nat) (f : Tenancy → Tenancy) : (s.modTen n f).access = s.access := rfl
@[simp] theorem modTen_accDue (s : State) (n : Nat) (f : Tenancy → Tenancy) : (s.modTen n f).accDue = s.accDue := rfl
@[simp] theorem modTen_accThr (s : State) (n : Nat) (f : Tenancy → Tenancy) : (s.modTen n f).accThr = s.accThr := rfl
@[simp] theorem modTen_trBusy (s : State) (n : Nat) (f : Tenancy → Tenancy) : (s.modTen n f).trBusy = s.trBusy := rfl
@[simp] theorem modTen_trPend (s : State) (n : Nat) (f : Tenancy → Tenancy) : (s.modTen n f).trPend = s.trPend := rfl
@[simp] theorem modTen_ctlb (s : State) (n : Nat) (f : Tenancy → Tenancy) : (s.modTen n f).ctlb = s.ctlb := rfl
@[simp] theorem modTen_lineTen (s : State) (n : Nat) (f : Tenancy → Tenancy) : (s.modTen n f).lineTen = s.lineTen := rfl
@[simp] theorem modTen_l2in (s : State) (n : Nat) (f : Tenancy → Tenancy) : (s.modTen n f).l2in = s.l2in := rfl
@[simp] theorem modTen_l2corr (s : State) (n : Nat) (f : Tenancy → Tenancy) : (s.modTen n f).l2corr = s.l2corr := rfl
@[simp] theorem modTen_cores (s : State) (n : Nat) (f : Tenancy → Tenancy) : (s.modTen n f).cores = s.cores := rfl
@[simp] theorem modTen_queues (s : State) (n : Nat) (f : Tenancy → Tenancy) : (s.modTen n f).queues = s.queues := rfl
@[simp] theorem modTen_launches (s : State) (n : Nat) (f : Tenancy → Tenancy) : (s.modTen n f).launches = s.launches := rfl
@[simp] theorem modTen_objs (s : State) (n : Nat) (f : Tenancy → Tenancy) : (s.modTen n f).objs = s.objs := rfl
@[simp] theorem modTen_codes (s : State) (n : Nat) (f : Tenancy → Tenancy) : (s.modTen n f).codes = s.codes := rfl
@[simp] theorem modTen_images (s : State) (n : Nat) (f : Tenancy → Tenancy) : (s.modTen n f).images = s.images := rfl
@[simp] theorem modTen_restores (s : State) (n : Nat) (f : Tenancy → Tenancy) : (s.modTen n f).restores = s.restores := rfl
@[simp] theorem modTen_services (s : State) (n : Nat) (f : Tenancy → Tenancy) : (s.modTen n f).services = s.services := rfl
@[simp] theorem modTen_dlv (s : State) (n : Nat) (f : Tenancy → Tenancy) : (s.modTen n f).dlv = s.dlv := rfl
@[simp] theorem modTen_remote (s : State) (n : Nat) (f : Tenancy → Tenancy) : (s.modTen n f).remote = s.remote := rfl
@[simp] theorem modTen_rel (s : State) (n : Nat) (f : Tenancy → Tenancy) : (s.modTen n f).rel = s.rel := rfl
@[simp] theorem modTen_dom (s : State) (n : Nat) (f : Tenancy → Tenancy) : (s.modTen n f).dom = s.dom := rfl
@[simp] theorem modTen_watch (s : State) (n : Nat) (f : Tenancy → Tenancy) : (s.modTen n f).watch = s.watch := rfl
@[simp] theorem modTen_dbcl (s : State) (n : Nat) (f : Tenancy → Tenancy) : (s.modTen n f).dbcl = s.dbcl := rfl
@[simp] theorem modTen_dens (s : State) (n : Nat) (f : Tenancy → Tenancy) : (s.modTen n f).dens = s.dens := rfl
@[simp] theorem modTen_esRel (s : State) (n : Nat) (f : Tenancy → Tenancy) : (s.modTen n f).esRel = s.esRel := rfl
@[simp] theorem modTen_esCol (s : State) (n : Nat) (f : Tenancy → Tenancy) : (s.modTen n f).esCol = s.esCol := rfl
@[simp] theorem modTen_plat (s : State) (n : Nat) (f : Tenancy → Tenancy) : (s.modTen n f).plat = s.plat := rfl
@[simp] theorem modTen_token (s : State) (n : Nat) (f : Tenancy → Tenancy) : (s.modTen n f).token = s.token := rfl
@[simp] theorem modTen_rrTen (s : State) (n : Nat) (f : Tenancy → Tenancy) : (s.modTen n f).rrTen = s.rrTen := rfl
@[simp] theorem modTen_posts (s : State) (n : Nat) (f : Tenancy → Tenancy) : (s.modTen n f).posts = s.posts := rfl
@[simp] theorem modTen_serial (s : State) (n : Nat) (f : Tenancy → Tenancy) : (s.modTen n f).serial = s.serial := rfl
@[simp] theorem modTen_opSeq (s : State) (n : Nat) (f : Tenancy → Tenancy) : (s.modTen n f).opSeq = s.opSeq := rfl
@[simp] theorem modTen_agenda (s : State) (n : Nat) (f : Tenancy → Tenancy) : (s.modTen n f).agenda = s.agenda := rfl
@[simp] theorem modTen_fresh (s : State) (n : Nat) (f : Tenancy → Tenancy) : (s.modTen n f).fresh = s.fresh := rfl
@[simp] theorem modTen_turn (s : State) (n : Nat) (f : Tenancy → Tenancy) : (s.modTen n f).turn = s.turn := rfl
@[simp] theorem modTen_spun (s : State) (n : Nat) (f : Tenancy → Tenancy) : (s.modTen n f).spun = s.spun := rfl
@[simp] theorem modTen_cur (s : State) (n : Nat) (f : Tenancy → Tenancy) : (s.modTen n f).cur = s.cur := rfl

@[simp] theorem charge_hb (s : State) (t i n : Nat) : (s.charge t i n).hb = s.hb := rfl
@[simp] theorem charge_mem (s : State) (t i n : Nat) : (s.charge t i n).mem = s.mem := rfl
@[simp] theorem charge_hbm (s : State) (t i n : Nat) : (s.charge t i n).hbm = s.hbm := rfl
@[simp] theorem charge_owner (s : State) (t i n : Nat) : (s.charge t i n).owner = s.owner := rfl
@[simp] theorem charge_ecc (s : State) (t i n : Nat) : (s.charge t i n).ecc = s.ecc := rfl
@[simp] theorem charge_holds (s : State) (t i n : Nat) : (s.charge t i n).holds = s.holds := rfl
@[simp] theorem charge_access (s : State) (t i n : Nat) : (s.charge t i n).access = s.access := rfl
@[simp] theorem charge_accDue (s : State) (t i n : Nat) : (s.charge t i n).accDue = s.accDue := rfl
@[simp] theorem charge_accThr (s : State) (t i n : Nat) : (s.charge t i n).accThr = s.accThr := rfl
@[simp] theorem charge_trBusy (s : State) (t i n : Nat) : (s.charge t i n).trBusy = s.trBusy := rfl
@[simp] theorem charge_trPend (s : State) (t i n : Nat) : (s.charge t i n).trPend = s.trPend := rfl
@[simp] theorem charge_ctlb (s : State) (t i n : Nat) : (s.charge t i n).ctlb = s.ctlb := rfl
@[simp] theorem charge_lineTen (s : State) (t i n : Nat) : (s.charge t i n).lineTen = s.lineTen := rfl
@[simp] theorem charge_l2in (s : State) (t i n : Nat) : (s.charge t i n).l2in = s.l2in := rfl
@[simp] theorem charge_l2corr (s : State) (t i n : Nat) : (s.charge t i n).l2corr = s.l2corr := rfl
@[simp] theorem charge_cores (s : State) (t i n : Nat) : (s.charge t i n).cores = s.cores := rfl
@[simp] theorem charge_queues (s : State) (t i n : Nat) : (s.charge t i n).queues = s.queues := rfl
@[simp] theorem charge_launches (s : State) (t i n : Nat) : (s.charge t i n).launches = s.launches := rfl
@[simp] theorem charge_objs (s : State) (t i n : Nat) : (s.charge t i n).objs = s.objs := rfl
@[simp] theorem charge_codes (s : State) (t i n : Nat) : (s.charge t i n).codes = s.codes := rfl
@[simp] theorem charge_images (s : State) (t i n : Nat) : (s.charge t i n).images = s.images := rfl
@[simp] theorem charge_restores (s : State) (t i n : Nat) : (s.charge t i n).restores = s.restores := rfl
@[simp] theorem charge_services (s : State) (t i n : Nat) : (s.charge t i n).services = s.services := rfl
@[simp] theorem charge_dlv (s : State) (t i n : Nat) : (s.charge t i n).dlv = s.dlv := rfl
@[simp] theorem charge_remote (s : State) (t i n : Nat) : (s.charge t i n).remote = s.remote := rfl
@[simp] theorem charge_rel (s : State) (t i n : Nat) : (s.charge t i n).rel = s.rel := rfl
@[simp] theorem charge_dom (s : State) (t i n : Nat) : (s.charge t i n).dom = s.dom := rfl
@[simp] theorem charge_watch (s : State) (t i n : Nat) : (s.charge t i n).watch = s.watch := rfl
@[simp] theorem charge_dbcl (s : State) (t i n : Nat) : (s.charge t i n).dbcl = s.dbcl := rfl
@[simp] theorem charge_dens (s : State) (t i n : Nat) : (s.charge t i n).dens = s.dens := rfl
@[simp] theorem charge_esRel (s : State) (t i n : Nat) : (s.charge t i n).esRel = s.esRel := rfl
@[simp] theorem charge_esCol (s : State) (t i n : Nat) : (s.charge t i n).esCol = s.esCol := rfl
@[simp] theorem charge_plat (s : State) (t i n : Nat) : (s.charge t i n).plat = s.plat := rfl
@[simp] theorem charge_token (s : State) (t i n : Nat) : (s.charge t i n).token = s.token := rfl
@[simp] theorem charge_rrTen (s : State) (t i n : Nat) : (s.charge t i n).rrTen = s.rrTen := rfl
@[simp] theorem charge_posts (s : State) (t i n : Nat) : (s.charge t i n).posts = s.posts := rfl
@[simp] theorem charge_serial (s : State) (t i n : Nat) : (s.charge t i n).serial = s.serial := rfl
@[simp] theorem charge_opSeq (s : State) (t i n : Nat) : (s.charge t i n).opSeq = s.opSeq := rfl
@[simp] theorem charge_agenda (s : State) (t i n : Nat) : (s.charge t i n).agenda = s.agenda := rfl
@[simp] theorem charge_fresh (s : State) (t i n : Nat) : (s.charge t i n).fresh = s.fresh := rfl
@[simp] theorem charge_turn (s : State) (t i n : Nat) : (s.charge t i n).turn = s.turn := rfl
@[simp] theorem charge_spun (s : State) (t i n : Nat) : (s.charge t i n).spun = s.spun := rfl
@[simp] theorem charge_cur (s : State) (t i n : Nat) : (s.charge t i n).cur = s.cur := rfl

@[simp] theorem spend_hb (s : State) (t : Nat) : (s.spend t).hb = s.hb := rfl
@[simp] theorem spend_mem (s : State) (t : Nat) : (s.spend t).mem = s.mem := rfl
@[simp] theorem spend_hbm (s : State) (t : Nat) : (s.spend t).hbm = s.hbm := rfl
@[simp] theorem spend_owner (s : State) (t : Nat) : (s.spend t).owner = s.owner := rfl
@[simp] theorem spend_ecc (s : State) (t : Nat) : (s.spend t).ecc = s.ecc := rfl
@[simp] theorem spend_holds (s : State) (t : Nat) : (s.spend t).holds = s.holds := rfl
@[simp] theorem spend_access (s : State) (t : Nat) : (s.spend t).access = s.access := rfl
@[simp] theorem spend_accDue (s : State) (t : Nat) : (s.spend t).accDue = s.accDue := rfl
@[simp] theorem spend_accThr (s : State) (t : Nat) : (s.spend t).accThr = s.accThr := rfl
@[simp] theorem spend_trBusy (s : State) (t : Nat) : (s.spend t).trBusy = s.trBusy := rfl
@[simp] theorem spend_trPend (s : State) (t : Nat) : (s.spend t).trPend = s.trPend := rfl
@[simp] theorem spend_ctlb (s : State) (t : Nat) : (s.spend t).ctlb = s.ctlb := rfl
@[simp] theorem spend_lineTen (s : State) (t : Nat) : (s.spend t).lineTen = s.lineTen := rfl
@[simp] theorem spend_l2in (s : State) (t : Nat) : (s.spend t).l2in = s.l2in := rfl
@[simp] theorem spend_l2corr (s : State) (t : Nat) : (s.spend t).l2corr = s.l2corr := rfl
@[simp] theorem spend_cores (s : State) (t : Nat) : (s.spend t).cores = s.cores := rfl
@[simp] theorem spend_queues (s : State) (t : Nat) : (s.spend t).queues = s.queues := rfl
@[simp] theorem spend_launches (s : State) (t : Nat) : (s.spend t).launches = s.launches := rfl
@[simp] theorem spend_objs (s : State) (t : Nat) : (s.spend t).objs = s.objs := rfl
@[simp] theorem spend_codes (s : State) (t : Nat) : (s.spend t).codes = s.codes := rfl
@[simp] theorem spend_images (s : State) (t : Nat) : (s.spend t).images = s.images := rfl
@[simp] theorem spend_restores (s : State) (t : Nat) : (s.spend t).restores = s.restores := rfl
@[simp] theorem spend_services (s : State) (t : Nat) : (s.spend t).services = s.services := rfl
@[simp] theorem spend_dlv (s : State) (t : Nat) : (s.spend t).dlv = s.dlv := rfl
@[simp] theorem spend_remote (s : State) (t : Nat) : (s.spend t).remote = s.remote := rfl
@[simp] theorem spend_rel (s : State) (t : Nat) : (s.spend t).rel = s.rel := rfl
@[simp] theorem spend_dom (s : State) (t : Nat) : (s.spend t).dom = s.dom := rfl
@[simp] theorem spend_watch (s : State) (t : Nat) : (s.spend t).watch = s.watch := rfl
@[simp] theorem spend_dbcl (s : State) (t : Nat) : (s.spend t).dbcl = s.dbcl := rfl
@[simp] theorem spend_dens (s : State) (t : Nat) : (s.spend t).dens = s.dens := rfl
@[simp] theorem spend_esRel (s : State) (t : Nat) : (s.spend t).esRel = s.esRel := rfl
@[simp] theorem spend_esCol (s : State) (t : Nat) : (s.spend t).esCol = s.esCol := rfl
@[simp] theorem spend_plat (s : State) (t : Nat) : (s.spend t).plat = s.plat := rfl
@[simp] theorem spend_token (s : State) (t : Nat) : (s.spend t).token = s.token := rfl
@[simp] theorem spend_rrTen (s : State) (t : Nat) : (s.spend t).rrTen = s.rrTen := rfl
@[simp] theorem spend_posts (s : State) (t : Nat) : (s.spend t).posts = s.posts := rfl
@[simp] theorem spend_serial (s : State) (t : Nat) : (s.spend t).serial = s.serial := rfl
@[simp] theorem spend_opSeq (s : State) (t : Nat) : (s.spend t).opSeq = s.opSeq := rfl
@[simp] theorem spend_agenda (s : State) (t : Nat) : (s.spend t).agenda = s.agenda := rfl
@[simp] theorem spend_turn (s : State) (t : Nat) : (s.spend t).turn = s.turn := rfl
@[simp] theorem spend_spun (s : State) (t : Nat) : (s.spend t).spun = s.spun := rfl
@[simp] theorem spend_cur (s : State) (t : Nat) : (s.spend t).cur = s.cur := rfl
@[simp] theorem spend_fresh (s : State) (t : Nat) : (s.spend t).fresh = s.fresh + 1 := rfl

@[simp] theorem post_hb (s : State) (p : Post) : (s.post p).hb = s.hb := rfl
@[simp] theorem post_mem (s : State) (p : Post) : (s.post p).mem = s.mem := rfl
@[simp] theorem post_hbm (s : State) (p : Post) : (s.post p).hbm = s.hbm := rfl
@[simp] theorem post_owner (s : State) (p : Post) : (s.post p).owner = s.owner := rfl
@[simp] theorem post_ecc (s : State) (p : Post) : (s.post p).ecc = s.ecc := rfl
@[simp] theorem post_holds (s : State) (p : Post) : (s.post p).holds = s.holds := rfl
@[simp] theorem post_access (s : State) (p : Post) : (s.post p).access = s.access := rfl
@[simp] theorem post_accDue (s : State) (p : Post) : (s.post p).accDue = s.accDue := rfl
@[simp] theorem post_accThr (s : State) (p : Post) : (s.post p).accThr = s.accThr := rfl
@[simp] theorem post_trBusy (s : State) (p : Post) : (s.post p).trBusy = s.trBusy := rfl
@[simp] theorem post_trPend (s : State) (p : Post) : (s.post p).trPend = s.trPend := rfl
@[simp] theorem post_ctlb (s : State) (p : Post) : (s.post p).ctlb = s.ctlb := rfl
@[simp] theorem post_lineTen (s : State) (p : Post) : (s.post p).lineTen = s.lineTen := rfl
@[simp] theorem post_l2in (s : State) (p : Post) : (s.post p).l2in = s.l2in := rfl
@[simp] theorem post_l2corr (s : State) (p : Post) : (s.post p).l2corr = s.l2corr := rfl
@[simp] theorem post_cores (s : State) (p : Post) : (s.post p).cores = s.cores := rfl
@[simp] theorem post_tens (s : State) (p : Post) : (s.post p).tens = s.tens := rfl
@[simp] theorem post_queues (s : State) (p : Post) : (s.post p).queues = s.queues := rfl
@[simp] theorem post_launches (s : State) (p : Post) : (s.post p).launches = s.launches := rfl
@[simp] theorem post_objs (s : State) (p : Post) : (s.post p).objs = s.objs := rfl
@[simp] theorem post_codes (s : State) (p : Post) : (s.post p).codes = s.codes := rfl
@[simp] theorem post_images (s : State) (p : Post) : (s.post p).images = s.images := rfl
@[simp] theorem post_restores (s : State) (p : Post) : (s.post p).restores = s.restores := rfl
@[simp] theorem post_services (s : State) (p : Post) : (s.post p).services = s.services := rfl
@[simp] theorem post_dlv (s : State) (p : Post) : (s.post p).dlv = s.dlv := rfl
@[simp] theorem post_remote (s : State) (p : Post) : (s.post p).remote = s.remote := rfl
@[simp] theorem post_rel (s : State) (p : Post) : (s.post p).rel = s.rel := rfl
@[simp] theorem post_dom (s : State) (p : Post) : (s.post p).dom = s.dom := rfl
@[simp] theorem post_watch (s : State) (p : Post) : (s.post p).watch = s.watch := rfl
@[simp] theorem post_dbcl (s : State) (p : Post) : (s.post p).dbcl = s.dbcl := rfl
@[simp] theorem post_dens (s : State) (p : Post) : (s.post p).dens = s.dens := rfl
@[simp] theorem post_esRel (s : State) (p : Post) : (s.post p).esRel = s.esRel := rfl
@[simp] theorem post_esCol (s : State) (p : Post) : (s.post p).esCol = s.esCol := rfl
@[simp] theorem post_plat (s : State) (p : Post) : (s.post p).plat = s.plat := rfl
@[simp] theorem post_token (s : State) (p : Post) : (s.post p).token = s.token := rfl
@[simp] theorem post_rrTen (s : State) (p : Post) : (s.post p).rrTen = s.rrTen := rfl
@[simp] theorem post_serial (s : State) (p : Post) : (s.post p).serial = s.serial := rfl
@[simp] theorem post_opSeq (s : State) (p : Post) : (s.post p).opSeq = s.opSeq := rfl
@[simp] theorem post_agenda (s : State) (p : Post) : (s.post p).agenda = s.agenda := rfl
@[simp] theorem post_fresh (s : State) (p : Post) : (s.post p).fresh = s.fresh := rfl
@[simp] theorem post_turn (s : State) (p : Post) : (s.post p).turn = s.turn := rfl
@[simp] theorem post_spun (s : State) (p : Post) : (s.post p).spun = s.spun := rfl
@[simp] theorem post_cur (s : State) (p : Post) : (s.post p).cur = s.cur := rfl

@[simp] theorem takeSerial_hb (s : State) : (s.takeSerial.2).hb = s.hb := rfl
@[simp] theorem takeSerial_mem (s : State) : (s.takeSerial.2).mem = s.mem := rfl
@[simp] theorem takeSerial_hbm (s : State) : (s.takeSerial.2).hbm = s.hbm := rfl
@[simp] theorem takeSerial_owner (s : State) : (s.takeSerial.2).owner = s.owner := rfl
@[simp] theorem takeSerial_ecc (s : State) : (s.takeSerial.2).ecc = s.ecc := rfl
@[simp] theorem takeSerial_holds (s : State) : (s.takeSerial.2).holds = s.holds := rfl
@[simp] theorem takeSerial_access (s : State) : (s.takeSerial.2).access = s.access := rfl
@[simp] theorem takeSerial_accDue (s : State) : (s.takeSerial.2).accDue = s.accDue := rfl
@[simp] theorem takeSerial_accThr (s : State) : (s.takeSerial.2).accThr = s.accThr := rfl
@[simp] theorem takeSerial_trBusy (s : State) : (s.takeSerial.2).trBusy = s.trBusy := rfl
@[simp] theorem takeSerial_trPend (s : State) : (s.takeSerial.2).trPend = s.trPend := rfl
@[simp] theorem takeSerial_ctlb (s : State) : (s.takeSerial.2).ctlb = s.ctlb := rfl
@[simp] theorem takeSerial_lineTen (s : State) : (s.takeSerial.2).lineTen = s.lineTen := rfl
@[simp] theorem takeSerial_l2in (s : State) : (s.takeSerial.2).l2in = s.l2in := rfl
@[simp] theorem takeSerial_l2corr (s : State) : (s.takeSerial.2).l2corr = s.l2corr := rfl
@[simp] theorem takeSerial_cores (s : State) : (s.takeSerial.2).cores = s.cores := rfl
@[simp] theorem takeSerial_tens (s : State) : (s.takeSerial.2).tens = s.tens := rfl
@[simp] theorem takeSerial_queues (s : State) : (s.takeSerial.2).queues = s.queues := rfl
@[simp] theorem takeSerial_launches (s : State) : (s.takeSerial.2).launches = s.launches := rfl
@[simp] theorem takeSerial_objs (s : State) : (s.takeSerial.2).objs = s.objs := rfl
@[simp] theorem takeSerial_codes (s : State) : (s.takeSerial.2).codes = s.codes := rfl
@[simp] theorem takeSerial_images (s : State) : (s.takeSerial.2).images = s.images := rfl
@[simp] theorem takeSerial_restores (s : State) : (s.takeSerial.2).restores = s.restores := rfl
@[simp] theorem takeSerial_services (s : State) : (s.takeSerial.2).services = s.services := rfl
@[simp] theorem takeSerial_dlv (s : State) : (s.takeSerial.2).dlv = s.dlv := rfl
@[simp] theorem takeSerial_remote (s : State) : (s.takeSerial.2).remote = s.remote := rfl
@[simp] theorem takeSerial_rel (s : State) : (s.takeSerial.2).rel = s.rel := rfl
@[simp] theorem takeSerial_dom (s : State) : (s.takeSerial.2).dom = s.dom := rfl
@[simp] theorem takeSerial_watch (s : State) : (s.takeSerial.2).watch = s.watch := rfl
@[simp] theorem takeSerial_dbcl (s : State) : (s.takeSerial.2).dbcl = s.dbcl := rfl
@[simp] theorem takeSerial_dens (s : State) : (s.takeSerial.2).dens = s.dens := rfl
@[simp] theorem takeSerial_esRel (s : State) : (s.takeSerial.2).esRel = s.esRel := rfl
@[simp] theorem takeSerial_esCol (s : State) : (s.takeSerial.2).esCol = s.esCol := rfl
@[simp] theorem takeSerial_plat (s : State) : (s.takeSerial.2).plat = s.plat := rfl
@[simp] theorem takeSerial_token (s : State) : (s.takeSerial.2).token = s.token := rfl
@[simp] theorem takeSerial_rrTen (s : State) : (s.takeSerial.2).rrTen = s.rrTen := rfl
@[simp] theorem takeSerial_posts (s : State) : (s.takeSerial.2).posts = s.posts := rfl
@[simp] theorem takeSerial_opSeq (s : State) : (s.takeSerial.2).opSeq = s.opSeq := rfl
@[simp] theorem takeSerial_agenda (s : State) : (s.takeSerial.2).agenda = s.agenda := rfl
@[simp] theorem takeSerial_fresh (s : State) : (s.takeSerial.2).fresh = s.fresh := rfl
@[simp] theorem takeSerial_turn (s : State) : (s.takeSerial.2).turn = s.turn := rfl
@[simp] theorem takeSerial_spun (s : State) : (s.takeSerial.2).spun = s.spun := rfl
@[simp] theorem takeSerial_cur (s : State) : (s.takeSerial.2).cur = s.cur := rfl

@[simp] theorem freshId_hb (s : State) : (s.freshId.2).hb = s.hb := rfl
@[simp] theorem freshId_mem (s : State) : (s.freshId.2).mem = s.mem := rfl
@[simp] theorem freshId_hbm (s : State) : (s.freshId.2).hbm = s.hbm := rfl
@[simp] theorem freshId_owner (s : State) : (s.freshId.2).owner = s.owner := rfl
@[simp] theorem freshId_ecc (s : State) : (s.freshId.2).ecc = s.ecc := rfl
@[simp] theorem freshId_holds (s : State) : (s.freshId.2).holds = s.holds := rfl
@[simp] theorem freshId_access (s : State) : (s.freshId.2).access = s.access := rfl
@[simp] theorem freshId_accDue (s : State) : (s.freshId.2).accDue = s.accDue := rfl
@[simp] theorem freshId_accThr (s : State) : (s.freshId.2).accThr = s.accThr := rfl
@[simp] theorem freshId_trBusy (s : State) : (s.freshId.2).trBusy = s.trBusy := rfl
@[simp] theorem freshId_trPend (s : State) : (s.freshId.2).trPend = s.trPend := rfl
@[simp] theorem freshId_ctlb (s : State) : (s.freshId.2).ctlb = s.ctlb := rfl
@[simp] theorem freshId_lineTen (s : State) : (s.freshId.2).lineTen = s.lineTen := rfl
@[simp] theorem freshId_l2in (s : State) : (s.freshId.2).l2in = s.l2in := rfl
@[simp] theorem freshId_l2corr (s : State) : (s.freshId.2).l2corr = s.l2corr := rfl
@[simp] theorem freshId_cores (s : State) : (s.freshId.2).cores = s.cores := rfl
@[simp] theorem freshId_tens (s : State) : (s.freshId.2).tens = s.tens := rfl
@[simp] theorem freshId_queues (s : State) : (s.freshId.2).queues = s.queues := rfl
@[simp] theorem freshId_launches (s : State) : (s.freshId.2).launches = s.launches := rfl
@[simp] theorem freshId_objs (s : State) : (s.freshId.2).objs = s.objs := rfl
@[simp] theorem freshId_codes (s : State) : (s.freshId.2).codes = s.codes := rfl
@[simp] theorem freshId_images (s : State) : (s.freshId.2).images = s.images := rfl
@[simp] theorem freshId_restores (s : State) : (s.freshId.2).restores = s.restores := rfl
@[simp] theorem freshId_services (s : State) : (s.freshId.2).services = s.services := rfl
@[simp] theorem freshId_dlv (s : State) : (s.freshId.2).dlv = s.dlv := rfl
@[simp] theorem freshId_remote (s : State) : (s.freshId.2).remote = s.remote := rfl
@[simp] theorem freshId_rel (s : State) : (s.freshId.2).rel = s.rel := rfl
@[simp] theorem freshId_dom (s : State) : (s.freshId.2).dom = s.dom := rfl
@[simp] theorem freshId_watch (s : State) : (s.freshId.2).watch = s.watch := rfl
@[simp] theorem freshId_dbcl (s : State) : (s.freshId.2).dbcl = s.dbcl := rfl
@[simp] theorem freshId_dens (s : State) : (s.freshId.2).dens = s.dens := rfl
@[simp] theorem freshId_esRel (s : State) : (s.freshId.2).esRel = s.esRel := rfl
@[simp] theorem freshId_esCol (s : State) : (s.freshId.2).esCol = s.esCol := rfl
@[simp] theorem freshId_plat (s : State) : (s.freshId.2).plat = s.plat := rfl
@[simp] theorem freshId_token (s : State) : (s.freshId.2).token = s.token := rfl
@[simp] theorem freshId_rrTen (s : State) : (s.freshId.2).rrTen = s.rrTen := rfl
@[simp] theorem freshId_posts (s : State) : (s.freshId.2).posts = s.posts := rfl
@[simp] theorem freshId_serial (s : State) : (s.freshId.2).serial = s.serial := rfl
@[simp] theorem freshId_opSeq (s : State) : (s.freshId.2).opSeq = s.opSeq := rfl
@[simp] theorem freshId_agenda (s : State) : (s.freshId.2).agenda = s.agenda := rfl
@[simp] theorem freshId_turn (s : State) : (s.freshId.2).turn = s.turn := rfl
@[simp] theorem freshId_spun (s : State) : (s.freshId.2).spun = s.spun := rfl
@[simp] theorem freshId_cur (s : State) : (s.freshId.2).cur = s.cur := rfl

@[simp] theorem setTx_hb (s : State) (l : Nat) (t : Tx) : (s.setTx l t).hb = s.hb := rfl
@[simp] theorem setTx_mem (s : State) (l : Nat) (t : Tx) : (s.setTx l t).mem = s.mem := rfl
@[simp] theorem setTx_hbm (s : State) (l : Nat) (t : Tx) : (s.setTx l t).hbm = s.hbm := rfl
@[simp] theorem setTx_owner (s : State) (l : Nat) (t : Tx) : (s.setTx l t).owner = s.owner := rfl
@[simp] theorem setTx_ecc (s : State) (l : Nat) (t : Tx) : (s.setTx l t).ecc = s.ecc := rfl
@[simp] theorem setTx_holds (s : State) (l : Nat) (t : Tx) : (s.setTx l t).holds = s.holds := rfl
@[simp] theorem setTx_access (s : State) (l : Nat) (t : Tx) : (s.setTx l t).access = s.access := rfl
@[simp] theorem setTx_accDue (s : State) (l : Nat) (t : Tx) : (s.setTx l t).accDue = s.accDue := rfl
@[simp] theorem setTx_accThr (s : State) (l : Nat) (t : Tx) : (s.setTx l t).accThr = s.accThr := rfl
@[simp] theorem setTx_trBusy (s : State) (l : Nat) (t : Tx) : (s.setTx l t).trBusy = s.trBusy := rfl
@[simp] theorem setTx_trPend (s : State) (l : Nat) (t : Tx) : (s.setTx l t).trPend = s.trPend := rfl
@[simp] theorem setTx_ctlb (s : State) (l : Nat) (t : Tx) : (s.setTx l t).ctlb = s.ctlb := rfl
@[simp] theorem setTx_lineTen (s : State) (l : Nat) (t : Tx) : (s.setTx l t).lineTen = s.lineTen := rfl
@[simp] theorem setTx_l2in (s : State) (l : Nat) (t : Tx) : (s.setTx l t).l2in = s.l2in := rfl
@[simp] theorem setTx_l2corr (s : State) (l : Nat) (t : Tx) : (s.setTx l t).l2corr = s.l2corr := rfl
@[simp] theorem setTx_tens (s : State) (l : Nat) (t : Tx) : (s.setTx l t).tens = s.tens := rfl
@[simp] theorem setTx_queues (s : State) (l : Nat) (t : Tx) : (s.setTx l t).queues = s.queues := rfl
@[simp] theorem setTx_launches (s : State) (l : Nat) (t : Tx) : (s.setTx l t).launches = s.launches := rfl
@[simp] theorem setTx_objs (s : State) (l : Nat) (t : Tx) : (s.setTx l t).objs = s.objs := rfl
@[simp] theorem setTx_codes (s : State) (l : Nat) (t : Tx) : (s.setTx l t).codes = s.codes := rfl
@[simp] theorem setTx_images (s : State) (l : Nat) (t : Tx) : (s.setTx l t).images = s.images := rfl
@[simp] theorem setTx_restores (s : State) (l : Nat) (t : Tx) : (s.setTx l t).restores = s.restores := rfl
@[simp] theorem setTx_services (s : State) (l : Nat) (t : Tx) : (s.setTx l t).services = s.services := rfl
@[simp] theorem setTx_dlv (s : State) (l : Nat) (t : Tx) : (s.setTx l t).dlv = s.dlv := rfl
@[simp] theorem setTx_remote (s : State) (l : Nat) (t : Tx) : (s.setTx l t).remote = s.remote := rfl
@[simp] theorem setTx_rel (s : State) (l : Nat) (t : Tx) : (s.setTx l t).rel = s.rel := rfl
@[simp] theorem setTx_dom (s : State) (l : Nat) (t : Tx) : (s.setTx l t).dom = s.dom := rfl
@[simp] theorem setTx_watch (s : State) (l : Nat) (t : Tx) : (s.setTx l t).watch = s.watch := rfl
@[simp] theorem setTx_dbcl (s : State) (l : Nat) (t : Tx) : (s.setTx l t).dbcl = s.dbcl := rfl
@[simp] theorem setTx_dens (s : State) (l : Nat) (t : Tx) : (s.setTx l t).dens = s.dens := rfl
@[simp] theorem setTx_esRel (s : State) (l : Nat) (t : Tx) : (s.setTx l t).esRel = s.esRel := rfl
@[simp] theorem setTx_esCol (s : State) (l : Nat) (t : Tx) : (s.setTx l t).esCol = s.esCol := rfl
@[simp] theorem setTx_plat (s : State) (l : Nat) (t : Tx) : (s.setTx l t).plat = s.plat := rfl
@[simp] theorem setTx_token (s : State) (l : Nat) (t : Tx) : (s.setTx l t).token = s.token := rfl
@[simp] theorem setTx_rrTen (s : State) (l : Nat) (t : Tx) : (s.setTx l t).rrTen = s.rrTen := rfl
@[simp] theorem setTx_posts (s : State) (l : Nat) (t : Tx) : (s.setTx l t).posts = s.posts := rfl
@[simp] theorem setTx_serial (s : State) (l : Nat) (t : Tx) : (s.setTx l t).serial = s.serial := rfl
@[simp] theorem setTx_opSeq (s : State) (l : Nat) (t : Tx) : (s.setTx l t).opSeq = s.opSeq := rfl
@[simp] theorem setTx_agenda (s : State) (l : Nat) (t : Tx) : (s.setTx l t).agenda = s.agenda := rfl
@[simp] theorem setTx_fresh (s : State) (l : Nat) (t : Tx) : (s.setTx l t).fresh = s.fresh := rfl
@[simp] theorem setTx_turn (s : State) (l : Nat) (t : Tx) : (s.setTx l t).turn = s.turn := rfl
@[simp] theorem setTx_spun (s : State) (l : Nat) (t : Tx) : (s.setTx l t).spun = s.spun := rfl
@[simp] theorem setTx_cur (s : State) (l : Nat) (t : Tx) : (s.setTx l t).cur = s.cur := rfl

end Sys2Proof.Machine.State
end

