-- ==== Sys2Proof/Laws/Tab.lean ====
section
/-! SUPPORT. Sparse tables and memories: reading after writing, and the canonical form that every memory operation
keeps. -/

namespace Sys2Proof.Machine

/-! ### Tables -/

theorem lookup_insertAt {α : Type} (k j : Nat) (v : α) (l : List (Nat × α)) :
    lookup j (insertAt k v l) = if k = j then some v else lookup j l := by
  induction l with
  | nil => simp [insertAt, lookup]
  | cons e r ih =>
    obtain ⟨i, w⟩ := e
    simp only [insertAt]
    split
    · simp [lookup]
    · split
      · subst k; by_cases h : i = j <;> simp [lookup, h]
      · by_cases h : i = j
        · subst h; simp [lookup, *]
        · simp [lookup, h, ih]

theorem lookup_removeAt {α : Type} (k j : Nat) (l : List (Nat × α)) :
    lookup j (removeAt k l) = if k = j then none else lookup j l := by
  induction l with
  | nil => simp [removeAt, lookup]
  | cons e r ih =>
    obtain ⟨i, w⟩ := e
    simp only [removeAt]
    by_cases hk : i = k
    · subst hk; rw [if_pos rfl, ih]; by_cases h : i = j <;> simp [lookup, h]
    · rw [if_neg hk]
      by_cases h : i = j
      · subst h; simp [lookup, Ne.symm hk]
      · simp [lookup, h, ih]

theorem lookup_map {α β : Type} (k : Nat) (f : α → β) (l : List (Nat × α)) :
    lookup k (l.map (fun e => (e.1, f e.2))) = (lookup k l).map f := by
  induction l with
  | nil => rfl
  | cons e r ih => obtain ⟨i, w⟩ := e; by_cases h : i = k <;> simp [lookup, h, ih]

theorem mem_insertAt {α : Type} {k : Nat} {v : α} {l : List (Nat × α)} {e : Nat × α} (h : e ∈ insertAt k v l) :
    e = (k, v) ∨ e ∈ l := by
  induction l with
  | nil => simpa [insertAt] using h
  | cons a r ih =>
    obtain ⟨i, w⟩ := a
    simp only [insertAt] at h
    split at h
    · simpa using h
    · split at h
      · rcases List.mem_cons.mp h with h | h
        · exact .inl h
        · exact .inr (List.mem_cons_of_mem _ h)
      · rcases List.mem_cons.mp h with h | h
        · exact .inr (h ▸ List.mem_cons_self)
        · exact (ih h).imp id (List.mem_cons_of_mem _)

theorem mem_removeAt {α : Type} {k : Nat} {l : List (Nat × α)} {e : Nat × α} (h : e ∈ removeAt k l) : e ∈ l := by
  induction l with
  | nil => exact h
  | cons a r ih =>
    obtain ⟨i, w⟩ := a
    simp only [removeAt] at h
    split at h
    · exact List.mem_cons_of_mem _ (ih h)
    · rcases List.mem_cons.mp h with h | h
      · exact h ▸ List.mem_cons_self
      · exact List.mem_cons_of_mem _ (ih h)

/-- A listed value is in the list. -/
theorem mem_of_lookup {α : Type} {k : Nat} {l : List (Nat × α)} {v : α} (h : lookup k l = some v) : (k, v) ∈ l := by
  induction l with
  | nil => simp [lookup] at h
  | cons a r ih =>
    obtain ⟨i, w⟩ := a
    by_cases hk : i = k
    · subst hk; simp [lookup] at h; simp [h]
    · simp [lookup, hk] at h; exact List.mem_cons_of_mem _ (ih h)

namespace Tab

variable {α : Type}

@[simp] theorem get?_set (t : Tab α) (k j : Nat) (v : α) : (t.set k v).get? j = if k = j then some v else t.get? j :=
  lookup_insertAt k j v t.ents

@[simp] theorem getD_set (t : Tab α) (k j : Nat) (v d : α) : (t.set k v).getD j d = if k = j then v else t.getD j d := by
  simp only [Tab.getD, Tab.set, lookup_insertAt]; split <;> rfl

@[simp] theorem has_set (t : Tab α) (k j : Nat) (v : α) : (t.set k v).has j = (k == j || t.has j) := by
  simp only [Tab.has, Tab.set, lookup_insertAt]; by_cases h : k = j <;> simp [h]

@[simp] theorem get?_erase (t : Tab α) (k j : Nat) : (t.erase k).get? j = if k = j then none else t.get? j :=
  lookup_removeAt k j t.ents

@[simp] theorem getD_erase (t : Tab α) (k j : Nat) (d : α) : (t.erase k).getD j d = if k = j then d else t.getD j d := by
  simp only [Tab.getD, Tab.erase, lookup_removeAt]; split <;> rfl

end Tab

/-! ### Memories: reading after writing -/

@[simp] theorem Mem.read_write (m : Mem) (a c : Nat) (b : Byte) :
    (m.write a b).read c = if a = c then b else m.read c := by
  unfold Mem.write Mem.read
  split
  · subst b; rw [lookup_removeAt]; split <;> rfl
  · rw [lookup_insertAt]; split <;> rfl

theorem Mem.read_writeBytes_of_outside (m : Mem) (a c : Nat) (bs : List Byte) (h : c < a ∨ a + bs.length ≤ c) :
    (m.writeBytes a bs).read c = m.read c := by
  induction bs generalizing m a with
  | nil => rfl
  | cons b bs ih =>
    simp only [List.length_cons] at h
    rw [Mem.writeBytes, ih _ _ (by omega), Mem.read_write, if_neg (by omega)]

theorem Mem.read_writeBytes (m : Mem) (a i : Nat) (bs : List Byte) (h : i < bs.length) :
    (m.writeBytes a bs).read (a + i) = bs[i] := by
  induction bs generalizing m a i with
  | nil => simp at h
  | cons b bs ih =>
    cases i with
    | zero => rw [Mem.writeBytes, Mem.read_writeBytes_of_outside _ _ _ _ (by omega)]; simp
    | succ i =>
      have h' : i < bs.length := by simpa using h
      rw [Mem.writeBytes, show a + (i + 1) = a + 1 + i by omega, ih _ _ _ h']; simp

@[simp] theorem toLE_length (v n : Nat) : (toLE v n).length = n := by
  induction n generalizing v with
  | zero => rfl
  | succ n ih => simp [toLE, ih]

/-! ### The canonical form -/

theorem risingFrom_mono {α : Type} {a b : Option Nat} {l : List (Nat × α)} (h : risingFrom b l = true)
    (hab : ∀ x, a = some x → ∃ y, b = some y ∧ x ≤ y) : risingFrom a l = true := by
  cases l with
  | nil => rfl
  | cons e r =>
    obtain ⟨k, v⟩ := e
    simp only [risingFrom, Bool.and_eq_true] at h ⊢
    refine ⟨?_, h.2⟩
    cases a with
    | none => rfl
    | some x =>
      obtain ⟨y, rfl, hy⟩ := hab x rfl
      simp only [decide_eq_true_eq] at h ⊢
      omega

theorem risingFrom_insertAt {α : Type} {lo : Option Nat} {l : List (Nat × α)} {k : Nat} {v : α}
    (h : risingFrom lo l = true) (hk : ∀ x, lo = some x → x < k) : risingFrom lo (insertAt k v l) = true := by
  induction l generalizing lo with
  | nil => cases lo <;> simp_all [insertAt, risingFrom]
  | cons e r ih =>
    obtain ⟨j, w⟩ := e
    simp only [risingFrom, Bool.and_eq_true] at h
    simp only [insertAt]
    split
    · cases lo <;> simp_all [risingFrom]
    · split
      · subst j; simp only [risingFrom, Bool.and_eq_true]; exact h
      · simp only [risingFrom, Bool.and_eq_true]
        exact ⟨h.1, ih h.2 (fun x hx => by cases hx; omega)⟩

theorem risingFrom_filter {α : Type} {lo : Option Nat} {l : List (Nat × α)} (p : Nat × α → Bool)
    (h : risingFrom lo l = true) : risingFrom lo (l.filter p) = true := by
  induction l generalizing lo with
  | nil => rfl
  | cons e r ih =>
    obtain ⟨j, w⟩ := e
    simp only [risingFrom, Bool.and_eq_true] at h
    simp only [List.filter_cons]
    split
    · simp only [risingFrom, Bool.and_eq_true]; exact ⟨h.1, ih h.2⟩
    · exact risingFrom_mono (ih h.2) (fun x hx => ⟨j, rfl, by subst hx; have := h.1; simp at this; omega⟩)

theorem removeAt_eq_filter {α : Type} (k : Nat) (l : List (Nat × α)) : removeAt k l = l.filter (fun e => e.1 != k) := by
  induction l with
  | nil => rfl
  | cons e r ih => obtain ⟨j, w⟩ := e; by_cases h : j = k <;> simp [removeAt, h, ih]

theorem Mem.wf_filter {m : Mem} (p : Host.Cell → Bool) (h : m.wf = true) : Mem.wf (m.filter p) = true := by
  simp only [Mem.wf, Bool.and_eq_true, List.all_eq_true] at h ⊢
  exact ⟨risingFrom_filter p h.1, fun c hc => h.2 c ((List.mem_filter.mp hc).1)⟩

theorem Mem.wf_zero {m : Mem} (a n : Nat) (h : m.wf = true) : (m.zero a n).wf = true := Mem.wf_filter _ h

/-- Every byte written keeps the canonical form. -/
theorem Mem.wf_write {m : Mem} (a : Nat) (b : Byte) (h : m.wf = true) : (m.write a b).wf = true := by
  unfold Mem.write
  split
  · rw [removeAt_eq_filter]; exact Mem.wf_filter _ h
  · rename_i hb
    simp only [Mem.wf, Bool.and_eq_true, List.all_eq_true] at h ⊢
    refine ⟨risingFrom_insertAt h.1 (by simp), fun c hc => ?_⟩
    rcases mem_insertAt hc with rfl | hc
    · simpa using hb
    · exact h.2 c hc

theorem Mem.wf_writeBytes {m : Mem} (a : Nat) (bs : List Byte) (h : m.wf = true) : (m.writeBytes a bs).wf = true := by
  induction bs generalizing m a with
  | nil => exact h
  | cons b bs ih => exact ih _ (Mem.wf_write a b h)

theorem Mem.wf_writeN {m : Mem} (a n v : Nat) (h : m.wf = true) : (m.writeN a n v).wf = true := Mem.wf_writeBytes _ _ h

theorem Mem.wf_nil : Mem.wf [] = true := rfl

/-- So do any number of bytes. -/
theorem Mem.wf_foldl_write {α : Type} {m : Mem} (l : List α) (a : α → Nat) (b : α → Byte) (h : m.wf = true) :
    (l.foldl (fun t e => t.write (a e) (b e)) m).wf = true := by
  induction l generalizing m with
  | nil => exact h
  | cons e l ih => exact ih (Mem.wf_write _ _ h)

end Sys2Proof.Machine
end

