-- ==== Sys2Proof/Laws/Ops.lean ====
section
/-! SUPPORT. Reading the state through its accessors after an update of a core, a bolt, a swatch, a panel, a tenancy
or a name. -/

namespace Sys2Proof.Machine

namespace State

/-! ### Cores, bolts, swatches -/

@[simp] theorem core_setCore (s : State) (n m : Nat) (c : Core) :
    (s.setCore n c).core m = if n = m then c else s.core m := Tab.getD_set ..

@[simp] theorem core_modCore (s : State) (n m : Nat) (f : Core → Core) :
    (s.modCore n f).core m = if n = m then f (s.core n) else s.core m := core_setCore ..

@[simp] theorem boltAt_setBoltAt (s : State) (n m i j : Nat) (b : Bolt) :
    (s.setBoltAt n m b).boltAt i j = if n = i ∧ m = j then b else s.boltAt i j := by
  unfold boltAt setBoltAt
  rw [core_modCore]
  by_cases h : n = i
  · subst h; simp
  · simp [h]

@[simp] theorem bolt_modBolt (s : State) (f : Bolt → Bolt) : (s.modBolt f).bolt = f s.bolt :=
  (boltAt_setBoltAt ..).trans (if_pos ⟨rfl, rfl⟩)

theorem boltAt_modBolt (s : State) (f : Bolt → Bolt) (i j : Nat) :
    (s.modBolt f).boltAt i j = if s.cur.core = i ∧ s.cur.slot = j then f s.bolt else s.boltAt i j :=
  boltAt_setBoltAt ..

theorem core_modBolt (s : State) (f : Bolt → Bolt) (n : Nat) :
    (s.modBolt f).core n
      = if s.cur.core = n then { s.cc with bolts := s.cc.bolts.set s.cur.slot (f s.bolt) } else s.core n :=
  core_modCore ..

@[simp] theorem bolt_modSw (s : State) (f : Swatch → Swatch) :
    (s.modSw f).bolt = { s.bolt with sw := s.bolt.sw.set s.cur.ent (f s.sw) } := bolt_modBolt ..

@[simp] theorem sw_modSw (s : State) (f : Swatch → Swatch) : (s.modSw f).sw = f s.sw := by
  show (s.modSw f).bolt.sw.getD (s.modSw f).cur.ent {} = _
  rw [bolt_modSw]
  simp

/-! ### Names -/

theorem cellK_setCellK (s : State) (k j : Nat) (c : Cell) (hc : c.st = .exhausted → c = {}) :
    (s.setCellK k c).cellK j = if k = j then c else s.cellK j := by
  unfold cellK setCellK
  rw [bolt_modBolt]
  unfold Bolt.setCell
  split
  · rename_i h; rw [hc (by simpa using h)]; simp
  · simp

/-- A name that is no longer in use lists nothing: it reads as EXHAUSTED. -/
theorem cellK_setCellK_exhausted (s : State) (k j : Nat) (c : Cell) (hc : c.st = .exhausted) :
    (s.setCellK k c).cellK j = if k = j then {} else s.cellK j := by
  unfold cellK setCellK
  rw [bolt_modBolt]
  unfold Bolt.setCell
  simp [hc]

@[simp] theorem sw_setCellK (s : State) (k : Nat) (c : Cell) : (s.setCellK k c).sw = s.sw := by
  show (s.setCellK k c).bolt.sw.getD _ {} = _
  unfold setCellK
  rw [bolt_modBolt]
  rfl

@[simp] theorem key_setCellK (s : State) (k : Nat) (x : Cell) (c : Code) (l : Nat) :
    (s.setCellK k x).key c l = s.key c l := by
  unfold State.key State.inSafe; rw [sw_setCellK]

/-! ### Tenancies -/

@[simp] theorem tenOf_modTen (s : State) (n m : Nat) (f : Tenancy → Tenancy) :
    (s.modTen n f).tenOf m = if n = m then f (s.tenOf n) else s.tenOf m := Tab.getD_set ..

@[simp] theorem core_charge (s : State) (t i n m : Nat) : (s.charge t i n).core m = s.core m := rfl
@[simp] theorem bolt_charge (s : State) (t i n : Nat) : (s.charge t i n).bolt = s.bolt := rfl
@[simp] theorem sw_charge (s : State) (t i n : Nat) : (s.charge t i n).sw = s.sw := rfl
@[simp] theorem core_spend (s : State) (t m : Nat) : (s.spend t).core m = s.core m := rfl
@[simp] theorem boltAt_spend (s : State) (t c k : Nat) : (s.spend t).boltAt c k = s.boltAt c k := rfl
@[simp] theorem bolt_spend (s : State) (t : Nat) : (s.spend t).bolt = s.bolt := rfl
@[simp] theorem sw_spend (s : State) (t : Nat) : (s.spend t).sw = s.sw := rfl

end State

end Sys2Proof.Machine
end

