-- ==== Sys2Proof/Laws/Frame.lean ====
section
/-! SUPPORT. What each shared operation leaves alone, as a `Frame`. -/

namespace Sys2Proof.Machine

namespace Frame

@[refl] theorem refl (s : State) : Frame s s := ⟨⟨rfl, fun _ => rfl, fun _ => rfl, fun _ _ _ => rfl⟩, rfl, fun _ _ => rfl, rfl⟩

theorem cur {s t : State} (h : Frame s t) : t.cur = s.cur := by
  have := congrArg State.cur h.machine; simpa [State.still] using this

theorem mem {s t : State} (h : Frame s t) : t.mem = s.mem := by
  have := congrArg State.mem h.machine; simpa [State.still] using this

theorem trans {s t u : State} (h : Frame s t) (k : Frame t u) : Frame s u where
  machine := k.machine.trans h.machine
  cores n := (k.cores n).trans (h.cores n)
  tens n := (k.tens n).trans (h.tens n)
  others n m hn := (k.others n m (by rwa [h.cur])).trans (h.others n m hn)
  mine := k.mine.trans h.mine
  swatches e he := (k.swatches e (by rwa [h.cur])).trans (h.swatches e he)
  swatch := k.swatch.trans h.swatch

/-- A change of the bolt's names, predicates, flags, rows and counts. -/
theorem modBolt (s : State) (f : Bolt → Bolt) (hb : (f s.bolt).still = s.bolt.still)
    (hw : ∀ e, e ≠ s.cur.ent → ((f s.bolt).sw.getD e {}).quiet = (s.bolt.sw.getD e {}).quiet)
    (hs : ((f s.bolt).sw.getD s.cur.ent {}).still = s.sw.still) : Frame s (s.modBolt f) where
  machine := rfl
  cores n := by
    rw [State.core_modBolt]; split
    · subst n; rfl
    · rfl
  tens n := rfl
  others n m h := by
    rw [State.boltAt_modBolt, if_neg (fun ⟨a, b⟩ => h ⟨a.symm, b.symm⟩)]
  mine := by rw [State.bolt_modBolt]; exact hb
  swatches e he := by rw [State.bolt_modBolt]; exact hw e he
  swatch := by
    show ((s.modBolt f).bolt.sw.getD s.cur.ent {}).still = _
    rw [State.bolt_modBolt]; exact hs

theorem setCellK (s : State) (k : Nat) (c : Cell) : Frame s (s.setCellK k c) :=
  modBolt s _ rfl (fun _ _ => rfl) rfl

theorem setCell (s : State) (c : Code) (l : Nat) (x : Cell) : Frame s (s.setCell c l x) := setCellK ..

theorem write (s : State) (c : Code) (l n : Nat) (t : Tag) (v : Word) (p : Bool) : Frame s (s.write c l n t v p) :=
  setCellK ..

theorem orFlags (s : State) (f : BitVec 5) : Frame s (s.orFlags f) := by
  unfold State.orFlags
  split
  · rfl
  · exact modBolt s _ rfl (fun _ _ => rfl) rfl

theorem modSw (s : State) (f : Swatch → Swatch) (h : (f s.sw).still = s.sw.still) : Frame s (s.modSw f) :=
  modBolt s (fun b => { b with sw := b.sw.set s.cur.ent (f s.sw) }) rfl
    (fun e he => by rw [Tab.getD_set, if_neg (Ne.symm he)]) (by rw [Tab.getD_set, if_pos rfl]; exact h)

theorem charge (s : State) (t i n : Nat) : Frame s (s.charge t i n) where
  machine := rfl
  cores _ := rfl
  tens m := by
    unfold State.charge; rw [State.tenOf_modTen]; split
    · subst m; rfl
    · rfl
  others _ _ _ := rfl
  mine := rfl
  swatches _ _ := rfl
  swatch := rfl

/-- A change of a core that keeps its bolts. -/
theorem modCore (s : State) (n : Nat) (f : Core → Core) (hb : (f (s.core n)).bolts = (s.core n).bolts)
    (hc : (f (s.core n)).still = (s.core n).still) : Frame s (s.modCore n f) := by
  have hbolt : ∀ i j, (s.modCore n f).boltAt i j = s.boltAt i j := fun i j => by
    unfold State.boltAt; rw [State.core_modCore]; split
    · subst i; rw [hb]
    · rfl
  exact
    { machine := rfl
      cores := fun m => by
        rw [State.core_modCore]; split
        · subst m; exact hc
        · rfl
      tens := fun _ => rfl
      others := fun i j _ => by rw [hbolt]
      mine := by unfold State.bolt; rw [hbolt]; rfl
      swatches := fun e _ => by unfold State.bolt; rw [hbolt]; rfl
      swatch := by unfold State.sw State.bolt; rw [hbolt]; rfl }

theorem foldl {α : Type} (l : List α) (f : State → α → State) (h : ∀ s a, Frame s (f s a)) (s : State) :
    Frame s (l.foldl f s) := by
  induction l generalizing s with
  | nil => rfl
  | cons a l ih => exact (h s a).trans (ih _)

end Frame

end Sys2Proof.Machine
end

