-- ==== Sys2Proof/Laws/Issue.lean ====
section
/-! SUPPORT. What completes an instruction: `retire` and `issue`. -/

namespace Sys2Proof.Machine

/-! ### The count of R164 in the other swatches -/

@[simp] theorem Swatch.quiet_passed (me : Nat) (w : Swatch) : (w.passed me).quiet = w.quiet := rfl

theorem Bolt.quiet_passed (me : Nat) (b : Bolt) : (b.passed me).quiet = b.quiet := by
  unfold Bolt.quiet Bolt.passed; simp [List.map_map, Function.comp_def]

theorem Bolt.getD_passed (me e : Nat) (b : Bolt) : (b.passed me).sw.getD e {} = (b.sw.getD e {}).passed me := by
  unfold Bolt.passed Tab.getD; rw [lookup_map]; cases lookup e b.sw.ents <;> rfl

/-- What an issue does to the counts of the core's other swatches. -/
def State.pass (s : State) (me : Nat) : State :=
  s.modCore s.cur.core (fun c => c.passed me)

theorem State.boltAt_pass (s : State) (me n m : Nat) :
    (s.pass me).boltAt n m = s.boltAt n m ∨ (s.pass me).boltAt n m = (s.boltAt n m).passed me := by
  unfold State.pass State.boltAt Core.passed
  rw [State.core_modCore]
  split
  · rename_i h; subst h
    split
    · right; unfold Tab.getD; simp only [lookup_map]; cases lookup m (s.core s.cur.core).bolts.ents <;> rfl
    · left; rfl
  · left; rfl

theorem State.bolt_pass (s : State) (me : Nat) : (s.pass me).bolt = s.bolt ∨ (s.pass me).bolt = s.bolt.passed me :=
  State.boltAt_pass s me s.cur.core s.cur.slot

theorem State.sw_pass (s : State) (me : Nat) : (s.pass me).sw = s.sw ∨ (s.pass me).sw = s.sw.passed me := by
  unfold State.sw
  show (s.pass me).bolt.sw.getD s.cur.ent {} = _ ∨ _
  rcases State.bolt_pass s me with h | h <;> rw [h]
  · exact .inl rfl
  · exact .inr (Bolt.getD_passed ..)

theorem Frame.pass (s : State) (me : Nat) : Frame s (s.pass me) where
  machine := rfl
  cores n := by
    unfold State.pass Core.passed; rw [State.core_modCore]; split
    · subst n; split <;> rfl
    · rfl
  tens _ := rfl
  others n m _ := by rcases State.boltAt_pass s me n m with h | h <;> rw [h]; rw [Bolt.quiet_passed]
  mine := by rcases State.bolt_pass s me with h | h <;> rw [h]; rfl
  swatches e _ := by
    rcases State.bolt_pass s me with h | h <;> rw [h]
    rw [Bolt.getD_passed]; rfl
  swatch := by rcases State.sw_pass s me with h | h <;> rw [h]; rfl

/-! ### `retire` -/

/-- The swatch of a completed instruction, where native forms cover the addresses `at_`. -/
def Swatch.cleared (at_ : Word → Bool) (w : Swatch) : Swatch :=
  { w with unfin := none, bad := [], walked := [], noWatch := false, noProbe := none, phase := 0, edge := none
           block := none, short := none, grant := (0, 0), hold := w.kept, native := w.native && at_ w.pc }

/-- The counts that an issue leaves in its bolt. -/
def Bolt.counted (b : Bolt) (at_ : Word → Bool) (ent clk : Nat) : Bolt :=
  { b with
    issued := b.issued + 1
    lastClk := clk
    protect := if 1024 < clk - b.lastClk then none else b.protect.map (· + 1)
    stop := { b.stop with skid := if b.stop.request.isSome then b.stop.skid + 1 else b.stop.skid, last := ent }
    sw := if b.sw.has ent then b.sw.set ent ((b.sw.getD ent {}).cleared at_) else b.sw }

theorem retire_eq (pre : State) (x : Ext) (t : State) :
    pre.retire x t = ((t.modBolt (fun b => b.counted (t.nativeAt pre.ten) pre.cur.ent (pre.cc.clock.getD pre.bolt.shuttle 0))).pass (pre.bolt.shuttle * 65536 + pre.cur.ent)).charge pre.ten 0
      (if x.g then 1 else popMask pre.nlanes (if [4, 5, 9].contains (pre.sw.phase % 16) then pre.sw.ctx else pre.active x)) := rfl

theorem Swatch.cleared_still (at_ : Word → Bool) (w : Swatch) : (w.cleared at_).still = w.still := rfl

theorem Bolt.getD_counted (b : Bolt) (at_ : Word → Bool) (e j n : Nat) :
    (b.counted at_ e n).sw.getD j {} = if j = e ∧ b.sw.has e then (b.sw.getD e {}).cleared at_ else b.sw.getD j {} := by
  unfold Bolt.counted
  by_cases h : b.sw.has e = true
  · simp only [h, if_true, Tab.getD_set, and_true]
    by_cases hj : j = e
    · subst hj; simp
    · rw [if_neg (Ne.symm hj), if_neg hj]
  · simp [h]

/-- The completion of an instruction keeps all that a `Frame` names. -/
theorem Frame.retire (s : State) (x : Ext) (t : State) (ht : t.cur = s.cur) : Frame t (s.retire x t) := by
  rw [retire_eq]
  refine (Frame.modBolt t _ rfl ?_ ?_).trans ((Frame.pass _ _).trans (Frame.charge _ _ _ _))
  · intro e he
    rw [Bolt.getD_counted, if_neg (fun h => he (by rw [ht]; exact h.1))]
  · rw [Bolt.getD_counted]
    split
    · rw [← ht]; rfl
    · rfl

theorem retire_bolt (s : State) (x : Ext) (t : State) :
    (s.retire x t).bolt = t.bolt.counted (t.nativeAt s.ten) s.cur.ent (s.cc.clock.getD s.bolt.shuttle 0) ∨
      ∃ me, (s.retire x t).bolt = (t.bolt.counted (t.nativeAt s.ten) s.cur.ent (s.cc.clock.getD s.bolt.shuttle 0)).passed me := by
  rw [retire_eq, State.bolt_charge]
  rcases State.bolt_pass (t.modBolt (fun b => b.counted (t.nativeAt s.ten) s.cur.ent (s.cc.clock.getD s.bolt.shuttle 0))) (s.bolt.shuttle * 65536 + s.cur.ent) with h | h <;>
    rw [h, State.bolt_modBolt]
  · exact .inl rfl
  · exact .inr ⟨_, rfl⟩

/-- Every name, predicate and flag stands as the instruction left it. -/
@[simp] theorem retire_cellK (s : State) (x : Ext) (t : State) (k : Nat) : (s.retire x t).cellK k = t.cellK k := by
  unfold State.cellK
  rcases retire_bolt s x t with h | ⟨_, h⟩ <;> rw [h] <;> rfl

@[simp] theorem retire_flags (s : State) (x : Ext) (t : State) : (s.retire x t).bolt.flags = t.bolt.flags := by
  rcases retire_bolt s x t with h | ⟨_, h⟩ <;> rw [h] <;> rfl

@[simp] theorem retire_k (s : State) (x : Ext) (t : State) : (s.retire x t).bolt.k = t.bolt.k := by
  rcases retire_bolt s x t with h | ⟨_, h⟩ <;> rw [h] <;> rfl

@[simp] theorem retire_q (s : State) (x : Ext) (t : State) : (s.retire x t).bolt.q = t.bolt.q := by
  rcases retire_bolt s x t with h | ⟨_, h⟩ <;> rw [h] <;> rfl

@[simp] theorem retire_issued (s : State) (x : Ext) (t : State) :
    (s.retire x t).bolt.issued = t.bolt.issued + 1 := by
  rcases retire_bolt s x t with h | ⟨_, h⟩ <;> rw [h] <;> rfl

@[simp] theorem retire_cur (s : State) (x : Ext) (t : State) : (s.retire x t).cur = t.cur := rfl
@[simp] theorem retire_dlv (s : State) (x : Ext) (t : State) : (s.retire x t).dlv = t.dlv := rfl
@[simp] theorem retire_serial (s : State) (x : Ext) (t : State) : (s.retire x t).serial = t.serial := rfl
@[simp] theorem retire_posts (s : State) (x : Ext) (t : State) : (s.retire x t).posts = t.posts := rfl
@[simp] theorem retire_mem (s : State) (x : Ext) (t : State) : (s.retire x t).mem = t.mem := rfl

/-- The swatch goes on where the instruction left it, its waits and replays done with. -/
theorem retire_sw (s : State) (x : Ext) (t : State) (ht : t.cur = s.cur) :
    ∃ w, (w = t.sw ∨ w = t.sw.cleared (t.nativeAt s.ten)) ∧ (s.retire x t).sw.quiet = w.quiet := by
  have key (n : Nat) : ((t.bolt.counted (t.nativeAt s.ten) s.cur.ent n).sw.getD t.cur.ent {}) = t.sw ∨
      ((t.bolt.counted (t.nativeAt s.ten) s.cur.ent n).sw.getD t.cur.ent {}) = t.sw.cleared (t.nativeAt s.ten) := by
    rw [Bolt.getD_counted, ht]
    split
    · right; unfold State.sw; rw [ht]
    · left; unfold State.sw; rw [ht]
  refine ⟨(t.bolt.counted (t.nativeAt s.ten) s.cur.ent (s.cc.clock.getD s.bolt.shuttle 0)).sw.getD t.cur.ent {}, key _, ?_⟩
  show ((s.retire x t).bolt.sw.getD t.cur.ent {}).quiet = _
  rcases retire_bolt s x t with h | ⟨_, h⟩ <;> rw [h]
  rw [Bolt.getD_passed]; rfl

@[simp] theorem retire_pc (s : State) (x : Ext) (t : State) (ht : t.cur = s.cur) :
    (s.retire x t).sw.pc = t.sw.pc := by
  obtain ⟨w, hw, h⟩ := retire_sw s x t ht
  have hp : (s.retire x t).sw.quiet.pc = w.quiet.pc := congrArg Swatch.pc h
  show (s.retire x t).sw.quiet.pc = _
  rw [hp]; rcases hw with rfl | rfl <;> rfl

/-! ### `issue` -/

/-- What an instruction's body leaves, with the pc at the following word unless it has transferred control. -/
def State.goOn (s : State) (len : Nat) (transfer : Bool) (t : State) : State :=
  if transfer then t else t.modSw (fun w => { w with pc := s.nextPc len })

/-- The end of `issueOn` when its checks pass. -/
theorem issueOn_ok {opc len : Nat} {x : Ext} {transfer : Bool} {body : State → R State} {s s1 t : State}
    (hsafe : safeCheck s opc x (listed x (form opc x) (ranges opc x).1 (ranges opc x).2.1 (ranges opc x).2.2) = .ok ())
    (hpc : transfer = false → s.nextBit s.ten s.sw.pc (s.nextPc len) = true) (htx : s.txGuard opc x = .ok s1)
    (hb : body s1 = .ok t) :
    issueOn opc len x transfer body s = .ok (s.retire x (s.goOn len transfer t)) := by
  unfold issueOn
  rw [hsafe]
  simp only [bind, Except.bind, htx, hb]
  cases transfer with
  | true => rfl
  | false => simp [checkNext, hpc, State.goOn]

theorem issue_ok {opc len : Nat} {x : Ext} {transfer : Bool} {body : State → R State} {s t : State}
    (h : issueOn opc len x transfer body s = .ok t) : issue opc len x transfer body s = .next t := by
  unfold issue; rw [h]; rfl

end Sys2Proof.Machine
end

