-- ==== Sys2Proof/Laws/PerInstr.lean ====
section
/-! SUPPORT. Statements made of every instruction, one lemma per constructor. `Encoding`: an instruction's opcode and
fields name that instruction again (R54, R55), and an event has no words. -/

namespace Sys2Proof.Laws.Encoding

/-- The opcode and the fields that an instruction is encoded from give the instruction. -/
def Statement (i : Instr) : Prop :=
  match i.shape with
  | .base bop w => Instr.ofBop bop w = i
  | .ext opc x => Instr.ofOpc opc x = some i
  | .event => encode i = []

theorem nopBase (w : BaseWord) : Statement (.nopBase w) := rfl
theorem movB32Base (w : BaseWord) : Statement (.movB32Base w) := rfl
theorem movB64Base (w : BaseWord) : Statement (.movB64Base w) := rfl
theorem moviS32Base (w : BaseWord) : Statement (.moviS32Base w) := rfl
theorem drop1Base (w : BaseWord) : Statement (.drop1Base w) := rfl
theorem drop2Base (w : BaseWord) : Statement (.drop2Base w) := rfl
theorem drop3Base (w : BaseWord) : Statement (.drop3Base w) := rfl
theorem exhaustBase (w : BaseWord) : Statement (.exhaustBase w) := rfl
theorem addS32Base (w : BaseWord) : Statement (.addS32Base w) := rfl
theorem addS32ImmBase (w : BaseWord) : Statement (.addS32ImmBase w) := rfl
theorem subS32Base (w : BaseWord) : Statement (.subS32Base w) := rfl
theorem mulS32Base (w : BaseWord) : Statement (.mulS32Base w) := rfl
theorem mulhiS32Base (w : BaseWord) : Statement (.mulhiS32Base w) := rfl
theorem madS32Base (w : BaseWord) : Statement (.madS32Base w) := rfl
theorem negS32Base (w : BaseWord) : Statement (.negS32Base w) := rfl
theorem absS32Base (w : BaseWord) : Statement (.absS32Base w) := rfl
theorem minS32Base (w : BaseWord) : Statement (.minS32Base w) := rfl
theorem maxS32Base (w : BaseWord) : Statement (.maxS32Base w) := rfl
theorem minN32Base (w : BaseWord) : Statement (.minN32Base w) := rfl
theorem maxN32Base (w : BaseWord) : Statement (.maxN32Base w) := rfl
theorem andB32Base (w : BaseWord) : Statement (.andB32Base w) := rfl
theorem orB32Base (w : BaseWord) : Statement (.orB32Base w) := rfl
theorem xorB32Base (w : BaseWord) : Statement (.xorB32Base w) := rfl
theorem andnB32Base (w : BaseWord) : Statement (.andnB32Base w) := rfl
theorem notB32Base (w : BaseWord) : Statement (.notB32Base w) := rfl
theorem shlB32Base (w : BaseWord) : Statement (.shlB32Base w) := rfl
theorem shlB32ImmBase (w : BaseWord) : Statement (.shlB32ImmBase w) := rfl
theorem shrB32Base (w : BaseWord) : Statement (.shrB32Base w) := rfl
theorem shrB32ImmBase (w : BaseWord) : Statement (.shrB32ImmBase w) := rfl
theorem sarS32Base (w : BaseWord) : Statement (.sarS32Base w) := rfl
theorem sarS32ImmBase (w : BaseWord) : Statement (.sarS32ImmBase w) := rfl
theorem popcB32Base (w : BaseWord) : Statement (.popcB32Base w) := rfl
theorem clzB32Base (w : BaseWord) : Statement (.clzB32Base w) := rfl
theorem addS64Base (w : BaseWord) : Statement (.addS64Base w) := rfl
theorem addS64ImmBase (w : BaseWord) : Statement (.addS64ImmBase w) := rfl
theorem subS64Base (w : BaseWord) : Statement (.subS64Base w) := rfl
theorem mulS64Base (w : BaseWord) : Statement (.mulS64Base w) := rfl
theorem shlB64ImmBase (w : BaseWord) : Statement (.shlB64ImmBase w) := rfl
theorem shrB64ImmBase (w : BaseWord) : Statement (.shrB64ImmBase w) := rfl
theorem faddF32Base (w : BaseWord) : Statement (.faddF32Base w) := rfl
theorem fsubF32Base (w : BaseWord) : Statement (.fsubF32Base w) := rfl
theorem fmulF32Base (w : BaseWord) : Statement (.fmulF32Base w) := rfl
theorem fmaF32Base (w : BaseWord) : Statement (.fmaF32Base w) := rfl
theorem fminF32Base (w : BaseWord) : Statement (.fminF32Base w) := rfl
theorem fmaxF32Base (w : BaseWord) : Statement (.fmaxF32Base w) := rfl
theorem frcpF32Base (w : BaseWord) : Statement (.frcpF32Base w) := rfl
theorem frsqrtF32Base (w : BaseWord) : Statement (.frsqrtF32Base w) := rfl
theorem fsqrtF32Base (w : BaseWord) : Statement (.fsqrtF32Base w) := rfl
theorem fexp2F32Base (w : BaseWord) : Statement (.fexp2F32Base w) := rfl
theorem flog2F32Base (w : BaseWord) : Statement (.flog2F32Base w) := rfl
theorem faddF64Base (w : BaseWord) : Statement (.faddF64Base w) := rfl
theorem fmulF64Base (w : BaseWord) : Statement (.fmulF64Base w) := rfl
theorem fmaF64Base (w : BaseWord) : Statement (.fmaF64Base w) := rfl
theorem fdot2Bf16Base (w : BaseWord) : Statement (.fdot2Bf16Base w) := rfl
theorem ldB32Base (w : BaseWord) : Statement (.ldB32Base w) := rfl
theorem ldB64Base (w : BaseWord) : Statement (.ldB64Base w) := rfl
theorem stB32Base (w : BaseWord) : Statement (.stB32Base w) := rfl
theorem stB64Base (w : BaseWord) : Statement (.stB64Base w) := rfl
theorem retBase (w : BaseWord) : Statement (.retBase w) := rfl
theorem joinBase (w : BaseWord) : Statement (.joinBase w) := rfl
theorem exitBase (w : BaseWord) : Statement (.exitBase w) := rfl
theorem yieldBase (w : BaseWord) : Statement (.yieldBase w) := rfl
theorem fenceAcqBase (w : BaseWord) : Statement (.fenceAcqBase w) := rfl
theorem fenceRelBase (w : BaseWord) : Statement (.fenceRelBase w) := rfl
theorem mov (x : Ext) : Statement (.mov x) := rfl
theorem movi (x : Ext) : Statement (.movi x) := rfl
theorem drop (x : Ext) : Statement (.drop x) := rfl
theorem exhaust (x : Ext) : Statement (.exhaust x) := rfl
theorem hold (x : Ext) : Statement (.hold x) := rfl
theorem recount (x : Ext) : Statement (.recount x) := rfl
theorem rebind (x : Ext) : Statement (.rebind x) := rfl
theorem nstat (x : Ext) : Statement (.nstat x) := rfl
theorem sel (x : Ext) : Statement (.sel x) := rfl
theorem retag (x : Ext) : Statement (.retag x) := rfl
theorem reserve (x : Ext) : Statement (.reserve x) := rfl
theorem cvt (x : Ext) : Statement (.cvt x) := rfl
theorem cvtfi (x : Ext) : Statement (.cvtfi x) := rfl
theorem cvtif (x : Ext) : Statement (.cvtif x) := rfl
theorem pack2 (x : Ext) : Statement (.pack2 x) := rfl
theorem unpack (x : Ext) : Statement (.unpack x) := rfl
theorem bscale (x : Ext) : Statement (.bscale x) := rfl
theorem quant (x : Ext) : Statement (.quant x) := rfl
theorem dequant (x : Ext) : Statement (.dequant x) := rfl
theorem pbdec (x : Ext) : Statement (.pbdec x) := rfl
theorem pbenc (x : Ext) : Statement (.pbenc x) := rfl
theorem pbload (x : Ext) : Statement (.pbload x) := rfl
theorem add (x : Ext) : Statement (.add x) := rfl
theorem sub (x : Ext) : Statement (.sub x) := rfl
theorem mul (x : Ext) : Statement (.mul x) := rfl
theorem mulhi (x : Ext) : Statement (.mulhi x) := rfl
theorem mad (x : Ext) : Statement (.mad x) := rfl
theorem div (x : Ext) : Statement (.div x) := rfl
theorem rem (x : Ext) : Statement (.rem x) := rfl
theorem neg (x : Ext) : Statement (.neg x) := rfl
theorem abs (x : Ext) : Statement (.abs x) := rfl
theorem minI (x : Ext) : Statement (.minI x) := rfl
theorem maxI (x : Ext) : Statement (.maxI x) := rfl
theorem andB (x : Ext) : Statement (.andB x) := rfl
theorem orB (x : Ext) : Statement (.orB x) := rfl
theorem xorB (x : Ext) : Statement (.xorB x) := rfl
theorem notB (x : Ext) : Statement (.notB x) := rfl
theorem andn (x : Ext) : Statement (.andn x) := rfl
theorem shl (x : Ext) : Statement (.shl x) := rfl
theorem shr (x : Ext) : Statement (.shr x) := rfl
theorem sar (x : Ext) : Statement (.sar x) := rfl
theorem rotl (x : Ext) : Statement (.rotl x) := rfl
theorem popc (x : Ext) : Statement (.popc x) := rfl
theorem clz (x : Ext) : Statement (.clz x) := rfl
theorem ctz (x : Ext) : Statement (.ctz x) := rfl
theorem brev (x : Ext) : Statement (.brev x) := rfl
theorem bfx (x : Ext) : Statement (.bfx x) := rfl
theorem bfi (x : Ext) : Statement (.bfi x) := rfl
theorem cmp (x : Ext) : Statement (.cmp x) := rfl
theorem lea (x : Ext) : Statement (.lea x) := rfl
theorem dot4 (x : Ext) : Statement (.dot4 x) := rfl
theorem fadd (x : Ext) : Statement (.fadd x) := rfl
theorem fsub (x : Ext) : Statement (.fsub x) := rfl
theorem fmul (x : Ext) : Statement (.fmul x) := rfl
theorem fma (x : Ext) : Statement (.fma x) := rfl
theorem fmin (x : Ext) : Statement (.fmin x) := rfl
theorem fmax (x : Ext) : Statement (.fmax x) := rfl
theorem fcmp (x : Ext) : Statement (.fcmp x) := rfl
theorem fclass (x : Ext) : Statement (.fclass x) := rfl
theorem fdiv (x : Ext) : Statement (.fdiv x) := rfl
theorem fsqrt (x : Ext) : Statement (.fsqrt x) := rfl
theorem frsqrt (x : Ext) : Statement (.frsqrt x) := rfl
theorem frcp (x : Ext) : Statement (.frcp x) := rfl
theorem fexp2 (x : Ext) : Statement (.fexp2 x) := rfl
theorem flog2 (x : Ext) : Statement (.flog2 x) := rfl
theorem frnd (x : Ext) : Statement (.frnd x) := rfl
theorem fscale (x : Ext) : Statement (.fscale x) := rfl
theorem fdot2 (x : Ext) : Statement (.fdot2 x) := rfl
theorem shfl (x : Ext) : Statement (.shfl x) := rfl
theorem lbcast (x : Ext) : Statement (.lbcast x) := rfl
theorem vote (x : Ext) : Statement (.vote x) := rfl
theorem elect (x : Ext) : Statement (.elect x) := rfl
theorem scan (x : Ext) : Statement (.scan x) := rfl
theorem lred (x : Ext) : Statement (.lred x) := rfl
theorem kop (x : Ext) : Statement (.kop x) := rfl
theorem bra (x : Ext) : Statement (.bra x) := rfl
theorem brx (x : Ext) : Statement (.brx x) := rfl
theorem call (x : Ext) : Statement (.call x) := rfl
theorem callx (x : Ext) : Statement (.callx x) := rfl
theorem ret (x : Ext) : Statement (.ret x) := rfl
theorem fork (x : Ext) : Statement (.fork x) := rfl
theorem join (x : Ext) : Statement (.join x) := rfl
theorem exit (x : Ext) : Statement (.exit x) := rfl
theorem yield (x : Ext) : Statement (.yield x) := rfl
theorem loop (x : Ext) : Statement (.loop x) := rfl
theorem nop (x : Ext) : Statement (.nop x) := rfl
theorem brk (x : Ext) : Statement (.brk x) := rfl
theorem ld (x : Ext) : Statement (.ld x) := rfl
theorem st (x : Ext) : Statement (.st x) := rfl
theorem ldm (x : Ext) : Statement (.ldm x) := rfl
theorem stm (x : Ext) : Statement (.stm x) := rfl
theorem pf (x : Ext) : Statement (.pf x) := rfl
theorem cinv (x : Ext) : Statement (.cinv x) := rfl
theorem cwb (x : Ext) : Statement (.cwb x) := rfl
theorem aq (x : Ext) : Statement (.aq x) := rfl
theorem fence (x : Ext) : Statement (.fence x) := rfl
theorem fenceSc (x : Ext) : Statement (.fenceSc x) := rfl
theorem tick (x : Ext) : Statement (.tick x) := rfl
theorem isync (x : Ext) : Statement (.isync x) := rfl
theorem atom (x : Ext) : Statement (.atom x) := rfl
theorem cas (x : Ext) : Statement (.cas x) := rfl
theorem red (x : Ext) : Statement (.red x) := rfl
theorem txbegin (x : Ext) : Statement (.txbegin x) := rfl
theorem txend (x : Ext) : Statement (.txend x) := rfl
theorem txabort (x : Ext) : Statement (.txabort x) := rfl
theorem txstat (x : Ext) : Statement (.txstat x) := rfl
theorem tcopy (x : Ext) : Statement (.tcopy x) := rfl
theorem tmcast (x : Ext) : Statement (.tmcast x) := rfl
theorem kick (x : Ext) : Statement (.kick x) := rfl
theorem barinit (x : Ext) : Statement (.barinit x) := rfl
theorem arrive (x : Ext) : Statement (.arrive x) := rfl
theorem expect (x : Ext) : Statement (.expect x) := rfl
theorem waitB (x : Ext) : Statement (.waitB x) := rfl
theorem bartest (x : Ext) : Statement (.bartest x) := rfl
theorem claim (x : Ext) : Statement (.claim x) := rfl
theorem release (x : Ext) : Statement (.release x) := rfl
theorem mload (x : Ext) : Statement (.mload x) := rfl
theorem mma (x : Ext) : Statement (.mma x) := rfl
theorem mmac (x : Ext) : Statement (.mmac x) := rfl
theorem accrd (x : Ext) : Statement (.accrd x) := rfl
theorem accwr (x : Ext) : Statement (.accwr x) := rfl
theorem acczero (x : Ext) : Statement (.acczero x) := rfl
theorem accst (x : Ext) : Statement (.accst x) := rfl
theorem relocate (x : Ext) : Statement (.relocate x) := rfl
theorem unpick (x : Ext) : Statement (.unpick x) := rfl
theorem tackq (x : Ext) : Statement (.tackq x) := rfl
theorem pin (x : Ext) : Statement (.pin x) := rfl
theorem unpin (x : Ext) : Statement (.unpin x) := rfl
theorem coll (x : Ext) : Statement (.coll x) := rfl
theorem linkq (x : Ext) : Statement (.linkq x) := rfl
theorem treeq (x : Ext) : Statement (.treeq x) := rfl
theorem collq (x : Ext) : Statement (.collq x) := rfl
theorem svc (x : Ext) : Statement (.svc x) := rfl
theorem trapret (x : Ext) : Statement (.trapret x) := rfl
theorem getsp (x : Ext) : Statement (.getsp x) := rfl
theorem setsp (x : Ext) : Statement (.setsp x) := rfl
theorem ctxsave (x : Ext) : Statement (.ctxsave x) := rfl
theorem ctxload (x : Ext) : Statement (.ctxload x) := rfl
theorem cancel (x : Ext) : Statement (.cancel x) := rfl
theorem hcnt (x : Ext) : Statement (.hcnt x) := rfl
theorem errinj (x : Ext) : Statement (.errinj x) := rfl
theorem enter (x : Ext) : Statement (.enter x) := rfl
theorem leave (x : Ext) : Statement (.leave x) := rfl
theorem pmret (x : Ext) : Statement (.pmret x) := rfl
theorem stallrd (x : Ext) : Statement (.stallrd x) := rfl
theorem dens (x : Ext) : Statement (.dens x) := rfl
theorem heartbeatTick : Statement (.heartbeatTick) := rfl
theorem valueDelivery (id : Nat) : Statement (.valueDelivery id) := rfl
theorem allocationGrant (core shuttle : Nat) : Statement (.allocationGrant core shuttle) := rfl
theorem windOut (core slot : Nat) : Statement (.windOut core slot) := rfl
theorem windIn (core slot : Nat) : Statement (.windIn core slot) := rfl
theorem windInProtectionEnd (core slot : Nat) : Statement (.windInProtectionEnd core slot) := rfl
theorem oldestBoltSlot (core shuttle : Nat) : Statement (.oldestBoltSlot core shuttle) := rfl
theorem yieldTimeout (core slot ent : Nat) : Statement (.yieldTimeout core slot ent) := rfl
theorem pageWalkComplete (core slot ent : Nat) : Statement (.pageWalkComplete core slot ent) := rfl
theorem deferredFaultDelivery (core slot ent : Nat) : Statement (.deferredFaultDelivery core slot ent) := rfl
theorem faultReplay (core slot ent : Nat) : Statement (.faultReplay core slot ent) := rfl
theorem faultSkip (core slot ent : Nat) : Statement (.faultSkip core slot ent) := rfl
theorem faultDeliver (core slot ent : Nat) : Statement (.faultDeliver core slot ent) := rfl
theorem faultEnd (core slot ent : Nat) : Statement (.faultEnd core slot ent) := rfl
theorem svcResult (id : Nat) (result : Word) : Statement (.svcResult id result) := rfl
theorem trInvVpn (ten : BitVec 4) (vpn : BitVec 40) : Statement (.trInvVpn ten vpn) := rfl
theorem trInvTenancy (ten : BitVec 4) : Statement (.trInvTenancy ten) := rfl
theorem trInvAll : Statement (.trInvAll) := rfl
theorem trInvComplete : Statement (.trInvComplete) := rfl
theorem accessEvent (region : Nat) : Statement (.accessEvent region) := rfl
theorem ubBoundaryWrite (core : Nat) (which : Nat) (value : Word) : Statement (.ubBoundaryWrite core which value) := rfl
theorem cqQueueWrite (core : Nat) (which : Nat) (value : Word) : Statement (.cqQueueWrite core which value) := rfl
theorem storePerformed (core : Nat) : Statement (.storePerformed core) := rfl
theorem writebackAck (core : Nat) : Statement (.writebackAck core) := rfl
theorem txCommit (core slot lane : Nat) : Statement (.txCommit core slot lane) := rfl
theorem irrevocabilityTokenGrant : Statement (.irrevocabilityTokenGrant) := rfl
theorem copyStart (core id : Nat) : Statement (.copyStart core id) := rfl
theorem copyChunkLand (core : Nat) : Statement (.copyChunkLand core) := rfl
theorem copyCutOff (core id status : Nat) : Statement (.copyCutOff core id status) := rfl
theorem copyResume (core id : Nat) : Statement (.copyResume core id) := rfl
theorem multicastCommandArrival (core id receiver : Nat) : Statement (.multicastCommandArrival core id receiver) := rfl
theorem requestEnd (core : Nat) : Statement (.requestEnd core) := rfl
theorem requestLd (core : Nat) : Statement (.requestLd core) := rfl
theorem requestSt (core : Nat) : Statement (.requestSt core) := rfl
theorem requestLin (core : Nat) : Statement (.requestLin core) := rfl
theorem requestArrive (core : Nat) : Statement (.requestArrive core) := rfl
theorem requestContinue (core : Nat) : Statement (.requestContinue core) := rfl
theorem remoteArrival : Statement (.remoteArrival) := rfl
theorem matrixOpStart (core : Nat) : Statement (.matrixOpStart core) := rfl
theorem matrixKStep (core : Nat) : Statement (.matrixKStep core) := rfl
theorem accstRow (core : Nat) : Statement (.accstRow core) := rfl
theorem matrixRetire (core : Nat) : Statement (.matrixRetire core) := rfl
theorem matrixCutOff (core : Nat) : Statement (.matrixCutOff core) := rfl
theorem moveStart (id : Nat) : Statement (.moveStart id) := rfl
theorem moveLineCopy (id : Nat) : Statement (.moveLineCopy id) := rfl
theorem moveShootdownComplete (id : Nat) : Statement (.moveShootdownComplete id) := rfl
theorem moveCutOff (id status : Nat) : Statement (.moveCutOff id status) := rfl
theorem moveResume (id : Nat) : Statement (.moveResume id) := rfl
theorem unpickSweepWord (id : Nat) : Statement (.unpickSweepWord id) := rfl
theorem collStart (seq : Nat) : Statement (.collStart seq) := rfl
theorem linkTrainingLoss (link : Nat) : Statement (.linkTrainingLoss link) := rfl
theorem flitCrcError (flit : LinkFlit) : Statement (.flitCrcError flit) := rfl
theorem linkAckTimeout (link : Nat) : Statement (.linkAckTimeout link) := rfl
theorem linkDownNotice (link : Nat) : Statement (.linkDownNotice link) := rfl
theorem linkTableReceived (epoch : BitVec 16) (rows : List (Nat × List Word)) : Statement (.linkTableReceived epoch rows) := rfl
theorem settleExpiry : Statement (.settleExpiry) := rfl
theorem exchangeUp (hdr : CollHdr) (link : Nat) (failed : List (Nat × Nat)) (final : List Nat) : Statement (.exchangeUp hdr link failed final) := rfl
theorem exchangeDown (hdr : CollHdr) (failed : List (Nat × Nat)) (final : List Nat) : Statement (.exchangeDown hdr failed final) := rfl
theorem partialReceived (hdr : CollHdr) (chunk link : Nat) (bytes : List Byte) : Statement (.partialReceived hdr chunk link bytes) := rfl
theorem resultReceived (hdr : CollHdr) (chunk : Nat) (bytes : List Byte) : Statement (.resultReceived hdr chunk bytes) := rfl
theorem doneToken (hdr : CollHdr) (link : Nat) : Statement (.doneToken hdr link) := rfl
theorem completeMessage (hdr : CollHdr) : Statement (.completeMessage hdr) := rfl
theorem abortFlood (hdr : CollHdr) : Statement (.abortFlood hdr) := rfl
theorem clDomEnable (value : Word) : Statement (.clDomEnable value) := rfl
theorem clLinkWrite (link : Nat) (value : Word) : Statement (.clLinkWrite link value) := rfl
theorem peGo (core : Nat) (value : Word) : Statement (.peGo core value) := rfl
theorem saveWrite (core : Nat) : Statement (.saveWrite core) := rfl
theorem lqProdWrite (ten q : Nat) (prod : BitVec 32) : Statement (.lqProdWrite ten q prod) := rfl
theorem launchRecordConsume (ten q : Nat) : Statement (.launchRecordConsume ten q) := rfl
theorem panelGroupAdmit (ten q : Nat) : Statement (.panelGroupAdmit ten q) := rfl
theorem panelComplete (core panel : Nat) : Statement (.panelComplete core panel) := rfl
theorem patternStoreRegenDone (core : Nat) : Statement (.patternStoreRegenDone core) := rfl
theorem tenancyReset (ten : Nat) : Statement (.tenancyReset ten) := rfl
theorem tenancyResetComplete (ten : Nat) : Statement (.tenancyResetComplete ten) := rfl
theorem coldStart (stages : List (List Byte)) : Statement (.coldStart stages) := rfl
theorem warmStart (image : List Byte) (stages : List (List Byte)) : Statement (.warmStart image stages) := rfl
theorem warmStartRequest : Statement (.warmStartRequest) := rfl
theorem startFailureTimeout : Statement (.startFailureTimeout) := rfl
theorem hostWindowRead (offset size : Nat) : Statement (.hostWindowRead offset size) := rfl
theorem hostWindowWrite (offset : Nat) (bytes : List Byte) : Statement (.hostWindowWrite offset bytes) := rfl
theorem getVersion : Statement (.getVersion) := rfl
theorem getCapabilities : Statement (.getCapabilities) := rfl
theorem negotiateAlgorithms : Statement (.negotiateAlgorithms) := rfl
theorem getDigests : Statement (.getDigests) := rfl
theorem getCertificate (slot : Nat) : Statement (.getCertificate slot) := rfl
theorem challenge (slot : Nat) (nonce : Word) : Statement (.challenge slot nonce) := rfl
theorem getMeasurements (index : Nat) : Statement (.getMeasurements index) := rfl
theorem keyExchange (slot : Nat) : Statement (.keyExchange slot) := rfl
theorem finish : Statement (.finish) := rfl
theorem endSession : Statement (.endSession) := rfl
theorem powerCapStep (watts : Nat) : Statement (.powerCapStep watts) := rfl
theorem thermalTrip : Statement (.thermalTrip) := rfl
theorem l2Scrub (line : Nat) : Statement (.l2Scrub line) := rfl
theorem dbCoreStop (core slot : Nat) : Statement (.dbCoreStop core slot) := rfl
theorem dbCoreResume (core slot : Nat) : Statement (.dbCoreResume core slot) := rfl
theorem dbCoreStep (core slot ent : Nat) : Statement (.dbCoreStep core slot ent) := rfl
theorem dbClStop (cluster ten : Nat) : Statement (.dbClStop cluster ten) := rfl
theorem dbClResume (cluster ten : Nat) : Statement (.dbClResume cluster ten) := rfl
theorem stopCountExpiry (core slot : Nat) : Statement (.stopCountExpiry core slot) := rfl
theorem stopIdleExpiry (core slot : Nat) : Statement (.stopIdleExpiry core slot) := rfl
theorem probePointStop (core slot ent : Nat) : Statement (.probePointStop core slot ent) := rfl
theorem probePointHandler (core slot ent : Nat) : Statement (.probePointHandler core slot ent) := rfl
theorem densConfigWrite (cluster unit : Nat) (which : Nat) (value : Word) : Statement (.densConfigWrite cluster unit which value) := rfl
theorem registerWrite (reg : DevReg) (value : Word) : Statement (.registerWrite reg value) := rfl
theorem linkTrained (link : Nat) : Statement (.linkTrained link) := rfl
theorem collChunkResume (seq : Nat) : Statement (.collChunkResume seq) := rfl
theorem accstResume (core : Nat) : Statement (.accstResume core) := rfl
theorem unpickResume (id : Nat) : Statement (.unpickResume id) := rfl
theorem savePageResume (core : Nat) : Statement (.savePageResume core) := rfl
theorem stallClock (core shuttle : Nat) : Statement (.stallClock core shuttle) := rfl
theorem engineStallClock (engine : EngineId) : Statement (.engineStallClock engine) := rfl
theorem densitometerSample (cluster unit : Nat) : Statement (.densitometerSample cluster unit) := rfl
theorem graphCreate (level : Nat) (id parent : Word) : Statement (.graphCreate level id parent) := rfl
theorem graphSeal (level : Nat) (id : Word) : Statement (.graphSeal level id) := rfl
theorem storageBitError (target : BitTarget) (bit : Nat) : Statement (.storageBitError target bit) := rfl
theorem coreFenceOff (core : Nat) : Statement (.coreFenceOff core) := rfl
theorem nativeFormInstall (ten : Nat) (first last : Word) : Statement (.nativeFormInstall ten first last) := rfl
theorem nativeFormWithdraw (ten : Nat) (first last : Word) : Statement (.nativeFormWithdraw ten first last) := rfl
theorem instructionFetchFill (core slot ent : Nat) : Statement (.instructionFetchFill core slot ent) := rfl
theorem cinvAllComplete (core slot ent : Nat) : Statement (.cinvAllComplete core slot ent) := rfl

end Sys2Proof.Laws.Encoding
end

