-- ==== Sys2Proof/Laws/Prep.lean ====
section
/-! SUPPORT. What R6 up to step 5 gives when it gives a `Prep`. -/

namespace Sys2Proof.Machine

theorem Frame.modCell (s : State) (c : Code) (l : Nat) (n : Nat) :
    Frame s ((s.regCorrect c l).setCell c l (({ s.cell c l with ecc := 0, tecc := 0 } : Cell).take n)) := by
  refine Frame.trans ?_ (Frame.setCell ..)
  unfold State.regCorrect
  split
  · rfl
  · exact Frame.modCore _ _ _ rfl rfl

theorem Frame.consume (s : State) (ls : List Nat) (srcs : List Src) : Frame s (s.consume ls srcs) := by
  unfold State.consume
  split
  · rfl
  · exact Frame.foldl _ _ (fun s c => Frame.foldl _ _ (fun s l => Frame.modCell s c l _) s) s

theorem Frame.draw (s : State) (n : Need) : Frame s (s.modBolt (fun b => b.draw n)) :=
  Frame.modBolt s _ rfl (fun _ _ => rfl) rfl

/-- Steps 4 and 5 of R6: the state read, its lanes and sources, and what the reads and rows leave alone. -/
theorem takeUp_spec {s : State} {x : Ext} {ls : List Nat} {srcs : List Src} {dsts : List Code} {w64 : Bool} {p : Prep}
    (h : s.takeUp x ls srcs dsts w64 = .ok p) :
    p.pre = s ∧ p.lanes = ls ∧ p.srcs = srcs ∧ Frame s p.post := by
  unfold State.takeUp at h
  split at h
  · rename_i hl
    cases h
    exact ⟨rfl, (List.isEmpty_iff.mp hl).symm, rfl, Frame.refl s⟩
  · cases hn : s.needAll (s.consume ls srcs) x ls w64 {} dsts with
    | error e => simp [hn, bind, Except.bind] at h
    | ok n =>
      simp only [hn, bind, Except.bind] at h
      split at h
      · simp at h
      · cases h
        exact ⟨rfl, rfl, rfl, (Frame.consume s ls srcs).trans (Frame.draw _ n)⟩

/-- Steps 2 and 3 of R6 let the active lanes go on, all of them. -/
theorem ready_spec {s : State} {x : Ext} {srcs : List Src} {dsts : List Code} {w64 : Bool} {m : Mode} {ls : List Nat}
    (h : s.ready x srcs dsts w64 m = .ok ls) : ls = s.actLanes x := by
  unfold State.ready at h
  dsimp only at h
  split at h
  · rename_i hl
    cases h
    exact (List.isEmpty_iff.mp hl).symm
  · cases hc : s.checkSrcs x (s.actLanes x) (readsOf srcs) m.poisonOk srcs with
    | error e => simp [hc, bind, Except.bind] at h
    | ok u =>
    cases hd : s.checkDsts (s.consume (s.actLanes x) srcs) x (s.actLanes x) w64 dsts with
    | error e => simp [hc, hd, bind, Except.bind] at h
    | ok d =>
    simp only [hc, hd, bind, Except.bind] at h
    split at h
    · cases he : s.waitEmpty x m (s.actLanes x) (s.emptyLanes (s.actLanes x) srcs) srcs with
      | error e => simp [he] at h
      | ok v =>
        simp only [he] at h
        split at h
        · simp [retryAlloc] at h
        · cases h; rfl
    · split at h
      · simp [retryAlloc] at h
      · cases h; rfl

/-- Steps 2 to 5 of R6. -/
theorem prep_spec {s : State} {x : Ext} {srcs : List Src} {dsts : List Code} {w64 : Bool} {m : Mode} {p : Prep}
    (h : s.prep x srcs dsts w64 m = .ok p) :
    p.pre = s ∧ p.lanes = s.actLanes x ∧ p.srcs = srcs ∧ Frame s p.post := by
  unfold State.prep at h
  cases hr : s.ready x srcs dsts w64 m with
  | error e => simp [hr, bind, Except.bind] at h
  | ok ls =>
    simp only [hr, bind, Except.bind] at h
    have := takeUp_spec h
    rwa [ready_spec hr] at this

/-- Results written at once stay within a `Frame`. -/
theorem Frame.results (p : Prep) (x : Ext) (m : Mode) (f : LaneFn) : Frame p.post (p.results x m f) :=
  Frame.foldl _ _ (fun s l => (Frame.write s x.dst l _ _ _ _).trans (Frame.orFlags _ _)) _

end Sys2Proof.Machine
end

