-- ==== Sys2Proof/Tests/Slice0.lean ====
section
/-! SUPPORT. Tests: the checks of legality, words of the spec's encodings read and written, single steps with results
worked out from the rules, and for the statements states that meet their hypotheses. -/

namespace Sys2Proof.Tests

open Sys2Proof Sys2Proof.Machine

set_option Elab.async false

/-! ### Small states -/

/-- A register operand: v or g. -/
def rg (g : Bool) (n : Nat) : Code := BitVec.ofNat 10 (if g then 256 + n else n)

/-- What a position of a form may hold: nothing, or a register. -/
def pick (u : Use) (g : Bool) (n : Nat) : Code := match u with
  | .no => 0
  | .opt | .optReg => 0
  | .greg | .gOrInt | .uniform => rg true n
  | .vreg => rg false n
  | _ => rg g n

/-- An extended form of an opcode with registers 1 to 3 for its sources and 5 for its destination. -/
def mk (opc : Nat) (g : Bool := false) (fmt : Tag := .bits32) (md : BitVec 2 := 0) (imm : BitVec 22 := 0) : Ext :=
  let x : Ext := { g := g, cnt := 0, pred := 0, pneg := false, fmt := fmt, rnd := .rne, mod := md, ta := false, tb := false
                   tc := false, dst := 0, a := 0, b := 0, c := 0, imm := imm, lit := none }
  match formOf opc x with
  | none => x
  | some f => { x with cnt := if f.wr then 1 else 0, dst := if f.dstUsed then rg g 5 else 0
                       a := pick f.a.use g 1, b := pick f.b.use g 2, c := pick f.c.use g 3 }

/-- A code object of tenancy 1 from 0x1000 on, every word of which starts an instruction. -/
def code : CodeObj := { ten := 1, base := 0x1000, words := 64, starts := List.range 64 }

/-- A bolt of eight lanes of tenancy 1 with one swatch, of lanes 0 and 1, at 0x1000. -/
def bolt0 : Bolt :=
  { ten := 1, launch := 0x100000007, peak := 64, floor := 8, gpeak := 64, gfloor := 8
    sw := ⟨[(0, { mask := 3, pc := 0x1000 })]⟩ }

/-- The core of such a bolt, in its panel with 4 KiB of scratchpad from 8192 on. -/
def core0 (b : Bolt) : Core :=
  { bolts := ⟨[(0, b)]⟩, panels := ⟨[(0, { launch := 0x100000007, ten := 1, out := 1, scrOff := 8192, scrSize := 4096 })]⟩
    panelNext := 1, ageNext := 1 }

/-- The state of such a bolt on core 0, with its launch, in graph, phase and job 5, 4 and 3 of the tenancy. -/
def st0 (b : Bolt) (f : Core → Core := id) : State :=
  { cores := ⟨[(0, f (core0 b))]⟩, codes := [code], tens := ⟨[(1, { en := true, rootEn := true })]⟩
    launches := [{ id := 0x100000007, ten := 1, graph := 0x100000005, phase := 0x100000004, job := 0x100000003, out := 1
                   scratch := 4096, sent := 1 }]
    objs := [{ level := 2, id := 0x100000005, parent := 0x100000004, out := 2 },
             { level := 3, id := 0x100000004, parent := 0x100000003, out := 2 },
             { level := 4, id := 0x100000003, out := 2 }] }

/-- A FULL lane. -/
def full (t : Tag) (v : Word) (cnt : Nat := 14) : Cell := { st := .full, cnt := cnt, tag := t, val := v }

/-- A bolt whose names hold values in lanes 0 and 1, or once for a g name. -/
def holding (vs : List (Code × Cell)) : Bolt :=
  vs.foldl (fun b p => (b.setCell (regKey false p.1 0) p.2).setCell (regKey false p.1 1) p.2) bolt0

/-- A bolt that is ready for an instruction: each register that it reads holds `v` under the tag that its position takes. -/
def readyFor (o : Op) (v : Word := 0) : Bolt :=
  holding (o.srcs.flatMap (fun r => (srcRegs r).map (fun c => (c, full r.req.tag v))))

/-! ### Hypotheses as checks -/

def okB {α ε : Type} (r : Except ε α) : Bool := match r with
  | .ok _ => true
  | .error _ => false

def getD {α : Type} (d : α) (r : R α) : α := match r with
  | .ok a => a
  | .error _ => d

theorem ok_get {α : Type} {d : α} {r : R α} (h : okB r = true) : r = .ok (getD d r) := by
  cases r with
  | ok a => rfl
  | error e => cases h

/-- The answer is `a`. -/
def isOk {α ε : Type} [DecidableEq α] (a : α) (r : Except ε α) : Bool := match r with
  | .ok b => decide (b = a)
  | .error _ => false

theorem eq_ok {α : Type} [DecidableEq α] {a : α} {r : R α} (h : isOk a r = true) : r = .ok a := by
  cases r with
  | ok b => rw [of_decide_eq_true h]
  | error e => cases h

theorem eq_unit {r : R Unit} (h : okB r = true) : r = .ok () := by
  cases r with
  | ok b => rfl
  | error e => cases h

/-- What an issue is prepared with. -/
def prepOf (s : State) (o : Op) (dsts : List Code) (w64 : Bool) (m : Mode := {}) : Prep :=
  getD { pre := s, post := s, lanes := [], srcs := [] } (s.prep o.x o.srcs dsts w64 m)

def issuesB (s : State) (o : Op) (transfer : Bool) : Bool :=
  okB (safeCheck s o.opc o.x o.names) && (transfer || s.nextBit s.ten s.sw.pc (s.nextPc o.len))
    && (!txForbidden o.opc o.x || (s.concerned o.x).all (fun l => !(s.txAt l).act))

theorem issues_of {s : State} {o : Op} {tr : Bool} (h : issuesB s o tr = true) : Issues s o tr := by
  simp only [issuesB, Bool.and_eq_true, Bool.or_eq_true, List.all_eq_true, Bool.not_eq_true'] at h
  obtain ⟨⟨h1, h2⟩, h3⟩ := h
  refine ⟨?_, ?_, ?_⟩
  · exact eq_unit h1
  · intro e; subst e; simpa using h2
  · intro e; rcases h3 with h3 | h3
    · simp [h3] at e
    · exact h3

/-- An instruction is legal, issues, and passes steps 2 to 5 of R6. -/
def goodB (i : Instr) (o : Op) (s : State) (dsts : List Code) (w64 : Bool) (m : Mode := {}) (tr : Bool := false) : Bool :=
  (i.op == some o) && (i.check == none) && issuesB s o tr && okB (s.prep o.x o.srcs dsts w64 m)

/-- What a statement asks of an instruction and a state that are prepared. -/
def Good (i : Instr) (o : Op) (s : State) (dsts : List Code) (w64 : Bool) (m : Mode := {}) (tr : Bool := false) : Prop :=
  i.op = some o ∧ i.WellFormed ∧ Issues s o tr ∧ s.prep o.x o.srcs dsts w64 m = .ok (prepOf s o dsts w64 m)

theorem good_of {i : Instr} {o : Op} {s : State} {ds : List Code} {w : Bool} {m : Mode} {tr : Bool}
    (h : goodB i o s ds w m tr = true) : Good i o s ds w m tr := by
  simp only [goodB, Bool.and_eq_true, beq_iff_eq] at h
  exact ⟨h.1.1.1, h.1.1.2, issues_of h.1.2, ok_get h.2⟩

/-! ### Legality (R56): an ill-formed term for each condition, which the check refuses -/

/-- `add.s32 v5:1, v1, v2`, to be spoilt. -/
def add0 : Ext := mk 0x060 false .s32

theorem test_legal_add : (Instr.add add0).WellFormed := by show (Instr.add add0).check = none; decide
theorem test_legal_unassigned : (Instr.heartbeatTick).check = some .unassigned := by decide
theorem test_legal_side : (Instr.cancel { mk 0x1E6 true with g := false }).check = some .side := by decide
theorem test_legal_unused_field : (Instr.add { add0 with c := rg false 3 }).check = some .unusedField := by decide
theorem test_legal_count : (Instr.add { add0 with cnt := 0 }).check = some .count := by decide
theorem test_legal_predicate : (Instr.add { add0 with pneg := true }).check = some .predicate := by decide
theorem test_legal_rounding : (Instr.add { add0 with rnd := .rtz }).check = some .rounding := by decide
theorem test_legal_format : (Instr.add { add0 with fmt := .f32 }).check = some .format := by decide
theorem test_legal_trap_bit : (Instr.add { add0 with b := 0x2A0, tb := true }).check = some .trapBit := by decide
theorem test_legal_operand_code : (Instr.add { add0 with b := 0x300 }).check = some .operandCode := by decide
theorem test_legal_operand_side :
    (Instr.add { mk 0x060 true .s32 with b := rg false 2 }).check = some .operandSide := by decide
theorem test_legal_constant : (Instr.fadd { mk 0x0C0 false .bf16x2 with b := 0x281 }).check = some .constant := by decide
theorem test_legal_literal : (Instr.add { add0 with b := 0, lit := some 0x123456789 }).check = some .literal := by decide
theorem test_legal_class_field : (Instr.add { add0 with mod := 2 }).check = some .classField := by decide

/-- The error with which words are refused. -/
def refusedAs (ws : List W32) : Option DecodeErr := match decodeWords ws with
  | .ok _ => none
  | .error e => some e

theorem test_decode_truncated : refusedAs [0x40000000] = some .truncated := by decide
theorem test_decode_reserved_rounding : refusedAs [0x460100A0, 0x0180200C, 0] = some .rounding := by decide
theorem test_decode_word1_low_bits : refusedAs [0x46010200, 0x0180200D, 0] = some .unusedField := by decide
theorem test_decode_unassigned_opcode : refusedAs [0x40B00000, 0, 0] = some .unassigned := by decide

/-! ### Decoding: the spec's worked encodings, each with the fields that its line names -/

/-- The words decode to an instruction that has this property, with nothing left. -/
def reads (ws : List W32) (p : Instr → Bool) : Bool := match decodeWords ws with
  | .ok (i, []) => p i && encode i == ws
  | _ => false

/-- A base word of fields below BOP. -/
def bw (g : Bool) (cnt : BitVec 3) (d a b c : BitVec 5) : BaseWord := { g := g, cnt := cnt, d := d, a := a, b := b, c := c, lit := none }

/-- R81's encodings: `mov.b32 v6:3, v2`; `movi.s32 v3:2, -5`; `drop v4, v9`; `(k2) hold v7`; `sel.b32 v10:1, v3, v4, k5`. -/
theorem test_decode_registers :
    reads [0x00B30800] (· == .movB32Base (bw false 3 6 2 0 0)) = true ∧
    reads [0x01A1801B] (· == .moviS32Base (bw false 2 3 0 0 0x1B)) = true ∧
    reads [0x02801120] (· == .drop2Base (bw false 0 0 4 9 0)) = true ∧
    reads [0x40404000, 0x00007000, 0] (· == .hold { mk 0x004 with pred := 2, a := 7 }) = true ∧
    reads [0x40810000, 0x02803010, 5] (· == .sel { mk 0x008 with dst := 10, a := 3, b := 4, imm := 5 }) = true := by decide

/-- R106's and R122's: `pack2.bf16.f32.rto v7:1, v1, v2`; `add.s32.sat v6:1, v2, v3`; `fma.f32 v9:2, v1, v2, v3`;
`div.n32 v7:1, v5, v6`; `bfx.s32 v4:1, v2, 8, 4`. -/
theorem test_decode_arithmetic :
    reads [0x43310980, 0x01C01008, 6] (· == .pack2 { mk 0x033 false .bf16x2 0 6 with rnd := .rto, dst := 7, a := 1, b := 2 }) = true ∧
    reads [0x46010208, 0x0180200C, 0] (· == .add { mk 0x060 false .s32 1 with dst := 6, a := 2, b := 3 }) = true ∧
    reads [0x15248443] (· == .fmaF32Base (bw false 2 9 1 2 3)) = true ∧
    reads [0x46510300, 0x01C05018, 0] (· == .div { mk 0x065 false .n32 with dst := 7, a := 5, b := 6 }) = true ∧
    reads [0x47810200, 0x01002000, 0x108] (· == .bfx { mk 0x078 false .s32 0 0x108 with dst := 4, a := 2 }) = true := by decide

/-- R122's: `cmp.lt.s32 k2, v4, v5`; `shfl.xor.b32 v10:1, v7, 4, w=8`; `lred.fadd.f32 g40:1, v12`; `kop.and k3, k1, k2`. -/
theorem test_decode_predicates :
    reads [0x47A00200, 0x00004014, 0x12] (· == .cmp { mk 0x07A false .s32 0 0x12 with a := 4, b := 5 }) = true ∧
    reads [0x52010018, 0x02807A10, 3] (· == .shfl { mk 0x120 false .bits32 3 3 with dst := 10, a := 7, b := 0x284 }) = true ∧
    reads [0x52510600, 0x4A00C000, 0x60] (· == .lred { mk 0x125 false .f32 0 0x60 with dst := rg true 40, a := 12 }) = true ∧
    reads [0x52600000, 0, 0x108B] (· == .kop (mk 0x126 false .bits32 0 0x108B)) = true := by decide

/-- R159's: `(k3) bra` 6 words back; `fork k2` to +5 and +9; `callx v20!`; `(!k1) exit`; `loop.n64 g5:1, g5` 10 words back;
`brk 7`; `join`; `ret`. -/
theorem test_decode_control :
    reads [0x54006000, 0, 0x3FFFFA] (· == .bra { mk 0x140 false .bits32 0 0x3FFFFA with pred := 3 }) = true ∧
    reads [0x54504000, 0, 0x2809] (· == .fork { mk 0x145 false .bits32 0 0x2809 with pred := 2 }) = true ∧
    reads [0x54300004, 0x00014000, 0] (· == .callx { mk 0x143 with ta := true, a := 20 }) = true ∧
    reads [0x54703000, 0, 0] (· == .exit { mk 0x147 with pred := 1, pneg := true }) = true ∧
    reads [0x74910500, 0x41505000, 0x3FFFF6]
      (· == .loop { mk 0x149 true .n64 0 0x3FFFF6 with dst := rg true 5, a := rg true 5 }) = true ∧
    reads [0x54B00000, 0, 7] (· == .brk (mk 0x14B false .bits32 0 7)) = true ∧
    reads [0x1D800000] (· == .joinBase (bw false 0 0 0 0 0)) = true ∧ reads [0x1D000000] (· == .retBase (bw false 0 0 0 0 0)) = true := by
  decide

/-- R215's and R243's: `ld.b32 v6:1, [v2 + 8]`; `st.b64 [v4 - 16], v8`; `ldm.x4.f32 v64:1, [v10]`; `pf.l2 [v2 + 256]`;
`cinv.all`; `fence.acq`; `fence.ar`; `tick.next.n64 g12:1`; `isync`. -/
theorem test_decode_memory :
    reads [0x1B130802] (· == .ldB32Base (bw false 1 6 2 0 2)) = true ∧ reads [0x1C80111E] (· == .stB64Base (bw false 0 0 4 8 0x1E)) = true ∧
    reads [0x56210608, 0x1000A000, 0] (· == .ldm { mk 0x162 false .f32 1 with dst := 64, a := 10 }) = true ∧
    reads [0x56400008, 0x00002000, 0x100] (· == .pf { mk 0x164 false .bits32 1 0x100 with a := 2 }) = true ∧
    reads [0x76500008, 0, 0] (· == .cinv (mk 0x165 true .bits32 1)) = true ∧
    reads [0x1F000000] (· == .fenceAcqBase (bw false 0 0 0 0 0)) = true ∧ reads [0x58000010, 0, 0] (· == .fence (mk 0x180 false .bits32 2)) = true ∧
    reads [0x78210508, 0x43000000, 0] (· == .tick { mk 0x182 true .n64 1 with dst := rg true 12 }) = true ∧
    reads [0x58300000, 0, 0] (· == .isync (mk 0x183)) = true := by decide

/-- R252's: `atom.fadd.rel.f32 v9:1, [v4 + 16], v5`; `cas.acq.acq.b64 v10:1, [v2], v12, v14, ok=k3`; `red.add.n64 [g8], g9`;
`txend k2`; `txstat.n32 v7:1`. -/
theorem test_decode_atomics :
    reads [0x59010610, 0x02404014, 0x1001] (· == .atom { mk 0x190 false .f32 2 0x1001 with dst := 9, a := 4, b := 5 }) = true ∧
    reads [0x59110108, 0x02802030, 0x03800058]
      (· == .cas { mk 0x191 false .bits64 1 0x58 with dst := 10, a := 2, b := 12, c := 14 }) = true ∧
    reads [0x79200500, 0x00108424, 0] (· == .red { mk 0x192 true .n64 with a := rg true 8, b := rg true 9 }) = true ∧
    reads [0x59400000, 0, 2] (· == .txend (mk 0x194 false .bits32 0 2)) = true ∧
    reads [0x59610300, 0x01C00000, 0] (· == .txstat { mk 0x196 false .n32 with dst := 7 }) = true := by decide

/-- R277's, R292's and R313's: `tcopy.lin [g12], [g10], g13, b1`; `barinit b3, 2`; `expect b3, -1`; `wait b3, g20`;
`claim.a 4, 1`; `mload.bf16 tray=5, v12, off=512`; `accst.bf16 [g10], 256, acc=4, b6`. -/
theorem test_decode_engines :
    reads [0x7B000010, 0x0010A430, 0x43400011]
      (· == .tcopy { mk 0x1B0 true .bits32 2 0x11 with a := rg true 10, b := rg true 12, c := rg true 13 }) = true ∧
    reads [0x5B300000, 0, 0x23] (· == .barinit (mk 0x1B3 false .bits32 0 0x23)) = true ∧
    reads [0x5B500000, 0, 0x3FFF03] (· == .expect (mk 0x1B5 false .bits32 0 0x3FFF03)) = true ∧
    reads [0x5B600000, 0x00114000, 3] (· == .waitB { mk 0x1B6 false .bits32 0 3 with a := rg true 20 }) = true ∧
    reads [0x5C000008, 0, 0x100] (· == .claim (mk 0x1C0 false .bits32 1 0x100)) = true ∧
    reads [0x5C200900, 0x0000C000, 0x50200] (· == .mload { mk 0x1C2 false .bf16x2 0 0x50200 with a := 12 }) = true ∧
    reads [0x7C800900, 0x0010AAEC, 0x40016]
      (· == .accst { mk 0x1C8 true .bf16x2 0 0x40016 with a := rg true 10, b := 0x2BB }) = true := by decide

/-- R341's, R366's, R395's, R423's and R446's: `relocate [g2], [g1], b3, holders=1`; `pin.n64 v5:1, [v2 + 64]`;
`linkq.n64 g20:1, dev=1, link=3`; `svc.n64 g40:1, g2, 1`; `setsp TRAP.VEC, g30`; `errinj.mem.det [g3], bit=5`; `cancel.job`;
`hcnt.n64 v3:1, launch`; `leave 0x0042`; `dens.put 3, g21`. -/
theorem test_decode_system :
    reads [0x7D000000, 0x00101408, 0x113] (· == .relocate { mk 0x1D0 true .bits32 0 0x113 with a := rg true 1, b := rg true 2 }) = true ∧
    reads [0x5D310500, 0x01402000, 0x40] (· == .pin { mk 0x1D3 false .n64 0 0x40 with cnt := 1, dst := 5, a := 2 }) = true ∧
    reads [0x7D910500, 0x45000000, 0x23] (· == .linkq { mk 0x1D9 true .n64 0 0x23 with dst := rg true 20 }) = true ∧
    reads [0x7E010500, 0x4A102000, 1] (· == .svc { mk 0x1E0 true .n64 0 1 with dst := rg true 40, a := rg true 2 }) = true ∧
    reads [0x7E300000, 0x0011E000, 0x10] (· == .setsp { mk 0x1E3 true .bits32 0 0x10 with a := rg true 30 }) = true ∧
    reads [0x7E800010, 0x00103000, 0x200005] (· == .errinj { mk 0x1E8 true .bits32 2 0x200005 with a := rg true 3 }) = true ∧
    reads [0x7E600000, 0, 4] (· == .cancel (mk 0x1E6 true .bits32 0 4)) = true ∧
    reads [0x5E710500, 0x00C00000, 1] (· == .hcnt { mk 0x1E7 false .n64 0 1 with dst := 3 }) = true ∧
    reads [0x7F100008, 0, 0x42] (· == .leave (mk 0x1F1 true .bits32 1 0x42)) = true ∧
    reads [0x7F400008, 0x00115000, 3] (· == .dens { mk 0x1F4 true .bits32 1 3 with a := rg true 21 }) = true := by decide

/-- A literal stands low word first (R45): `movi.n64 g1:1, 0x40_0020_0000`. -/
theorem test_decode_literal :
    reads [0xE0110500, 0x40400000, 0, 0x00200000, 0x40]
      (· == .movi { mk 0x001 true .n64 with dst := rg true 1, lit := some 0x4000200000 }) = true := by decide

/-! ### States that meet the hypotheses of the statements: computing forms -/

/-- A base word of a row of the base map, with registers 1 to 3 for its sources and 5 for its destination. -/
def mkB (bop : Nat) (g : Bool := false) : BaseWord :=
  let r := baseRow bop
  let f := form r.opc (({ g := g, cnt := 0, d := 0, a := 0, b := 0, c := 0, lit := none } : BaseWord).toExt bop)
  { g := g, cnt := if f.wr then 1 else 0, d := if r.d then 5 else 0, a := if r.a then 1 else 0, b := if r.b then 2 else 0
    c := if r.c then 3 else 0, lit := none }

/-- An instruction issues in a bolt whose names are ready for it, and passes R6. -/
def ready (i : Instr) (dsts : Op → List Code) (w64 : Op → Bool) (m : Op → Mode) : Bool := match i.op with
  | none => false
  | some o => goodB i o (st0 (readyFor o)) (dsts o) (w64 o) (m o)

/-- The same of a computing form. -/
def readyC (i : Instr) : Bool := match i.op with
  | none => false
  | some o => (match computing o.opc, computingLong o.opc with
    | some c, _ => ready i (fun o => [o.x.dst]) (fun o => c.w64 o.x) (fun _ => c.mode)
    | none, some _ => ready i (fun o => [o.x.dst]) (fun o => o.x.fmt.is64) (fun _ => {})
    | none, none => false)

/-- An extended form of every opcode, with the formats and immediates that it admits. -/
def ex (opc : Nat) (g : Bool := false) : Ext := match opc with
  | 0x030 => mk opc g .f64 0 6
  | 0x031 => mk opc g .s32 0 6
  | 0x032 => mk opc g .f32 0 2
  | 0x033 => mk opc g .f16x2 0 6
  | 0x034 => mk opc g .f16x2 0 0xB
  | 0x035 | 0x036 => mk opc g .s8x4 0 8
  | 0x037 => mk opc g .f16x2 0 0xA
  | 0x038 => mk opc g .f16x2 0 0xE
  | 0x039 => mk opc g .n32 0 0xB
  | 0x060 | 0x061 | 0x062 | 0x063 | 0x064 | 0x065 | 0x066 | 0x067 | 0x068 | 0x069 | 0x06A | 0x072 | 0x078
  | 0x07B | 0x07C | 0x124 | 0x125 => mk opc g .s32
  | 0x07A => mk opc g .s32 0 1
  | 0x0C6 => mk opc g .f32 0 1
  | 0x0C0 | 0x0C1 | 0x0C2 | 0x0C3 | 0x0C4 | 0x0C5 | 0x0C7 | 0x0C8 | 0x0C9 | 0x0CA | 0x0CB | 0x0CC | 0x0CD | 0x0CE
  | 0x0CF => mk opc g .f32
  | 0x0D0 => mk opc g .f16x2
  | 0x123 => mk opc g .bits32 0 0x10
  | 0x122 | 0x1B3 => mk opc g .bits32 0 0x3B
  | 0x126 | 0x194 => mk opc g .bits32 0 1
  | 0x149 | 0x1D8 => mk opc true .s32
  | 0x167 | 0x182 | 0x1D2 | 0x1E7 | 0x1F4 => mk opc g .n64
  | 0x190 | 0x192 => mk opc g .bits32 0 6
  | 0x196 | 0x1F3 => mk opc g .n32
  | 0x1E2 => mk opc g .bits64
  | 0x1B1 => mk opc g .bits32 0 0x100
  | 0x1B5 => mk opc g .bits32 0 0x80000
  | 0x1B7 => mk opc g .n64 1
  | 0x1C3 | 0x1C4 => mk opc g .f16x2
  | 0x1C5 | 0x1C6 | 0x1C7 | 0x1C8 => mk opc g .s32
  | 0x1D1 => mk opc true .n32
  | 0x1D9 | 0x1DA | 0x1DB | 0x1E0 | 0x1E5 => mk opc true .n64
  | 0x1F0 => mk opc true .bits32 0 1
  | 0x03A | 0x1B2 | 0x1E3 | 0x1E4 | 0x1E6 | 0x1F1 => mk opc true
  | _ => mk opc g

/-- The instruction of an extended opcode, and of a base opcode. -/
def inst (opc : Nat) (g : Bool := false) : Instr := (Instr.ofOpc (BitVec.ofNat 9 opc) (ex opc g)).getD .heartbeatTick
def instB (bop : Nat) (g : Bool := false) : Instr := Instr.ofBop (BitVec.ofNat 6 bop) (mkB bop g)

/-- The base opcodes whose form is of these. -/
def bopsOf (opcs : List Nat) : List Nat := (List.range 64).filter (fun b => opcs.contains (baseRow b).opc)

def computingOpcs : List Nat := (List.range 0x100).filter (fun n => (computing n).isSome || (computingLong n).isSome)

/-- ComputingFormsComplete: every form of it, base and extended, on the lane side. -/
theorem test_witness_computing_forms :
    (computingOpcs.all (fun n => readyC (inst n)) && (bopsOf computingOpcs).all (fun n => readyC (instB n))) = true := by
  decide +kernel

/-! ### OperandChecks, PrepCompletes -/

/-- `add.s32 v5:1, v1, v2` as it issues, under its trap bit on A, and `add.s32 v5:1, v1, v1`. -/
def addOp : Op := ⟨0x060, 3, add0⟩
def addTrap : Ext := { add0 with ta := true }
def addSame : Ext := { add0 with b := 1 }

/-- `a` in lane 0 of a name and `b` in lane 1. -/
def cells (b : Bolt) (c : Code) (x y : Cell) : Bolt := (b.setCell (regKey false c 0) x).setCell (regKey false c 1) y
def empty (t : Tag) (pend : Nat := 0) : Cell := { st := .empty, cnt := 1, tag := t, pend := pend }

theorem test_witness_next_word_must_start : let s := { st0 (readyFor addOp) with codes := [{ code with starts := [0, 64] }] }
    (Instr.add add0).op = some addOp ∧ (computing 0x060).isSome ∧ safeCheck s 0x060 add0 addOp.names = .ok () ∧
      s.startBit s.ten (s.nextPc 3) = false := by
  exact ⟨by decide +kernel, by decide +kernel, eq_unit (by decide +kernel), by decide +kernel⟩

theorem test_witness_source_state_exhausted : let s := st0 (holding [(2, full .s32 0)])
    Issues s addOp false ∧ addOp.srcs.map srcRegs = [[1], [2]] ∧
      (s.actLanes add0).filter (fun j => (s.cell 1 j).dead || ((s.cell 1 j).st == .empty && false)) = [0, 1] :=
  ⟨issues_of (by decide +kernel), by decide +kernel, by decide +kernel⟩

theorem test_witness_source_state_trap : let s := st0 (cells (holding [(2, full .s32 0)]) 1 (empty .s32) (full .s32 0))
    let o : Op := ⟨0x060, 3, addTrap⟩
    Issues s o false ∧ (Instr.add addTrap).op = some o ∧ o.srcs.map (fun r => (srcRegs r, r.trap)) = [([1], true), ([2], false)] ∧
      (s.actLanes addTrap).filter (fun j => (s.cell 1 j).dead || ((s.cell 1 j).st == .empty && true)) = [0] :=
  ⟨issues_of (by decide +kernel), by decide +kernel, by decide +kernel, by decide +kernel⟩

theorem test_witness_source_count : let s := st0 (holding [(1, full .s32 0 1)])
    let o : Op := ⟨0x060, 3, addSame⟩
    Issues s o false ∧ (Instr.add addSame).op = some o ∧ o.srcs.map srcRegs = [[1], [1]] ∧
      (∀ j ∈ s.actLanes addSame, (s.cell 1 j).st = .full) ∧
      (s.actLanes addSame).filter (fun j => (s.cell 1 j).cnt != 15 && decide ((s.cell 1 j).cnt < readsOf o.srcs 1)) = [0, 1] :=
  ⟨issues_of (by decide +kernel), by decide +kernel, by decide +kernel, by decide +kernel, by decide +kernel⟩

theorem test_witness_source_tag : let s := st0 (holding [(1, full .f32 0), (2, full .s32 0)])
    Issues s addOp false ∧
      (∀ j ∈ s.actLanes add0, (s.cell 1 j).st = .full ∧ ((s.cell 1 j).cnt = 15 ∨ readsOf addOp.srcs 1 ≤ (s.cell 1 j).cnt)) ∧
      (s.actLanes add0).filter (fun j => !(Req.exact .s32).accepts (s.cell 1 j).tag) = [0, 1] :=
  ⟨issues_of (by decide +kernel), by decide +kernel, by decide +kernel⟩

theorem test_witness_destination_full : let s := st0 (holding [(1, full .s32 0), (2, full .s32 0), (5, full .s32 0)])
    Issues s addOp false ∧ 1 ∈ s.actLanes add0 ∧
      s.checkSrcs add0 (s.actLanes add0) (readsOf addOp.srcs) false addOp.srcs = .ok () ∧
      ((s.consume (s.actLanes add0) addOp.srcs).cell 5 1).st = .full :=
  ⟨issues_of (by decide +kernel), by decide +kernel, eq_unit (by decide +kernel), by decide +kernel⟩

theorem test_witness_empty_source : let s := st0 (cells (holding [(2, full .s32 0)]) 1 (empty .s32) (full .s32 0))
    Issues s addOp false ∧ s.bolt.splitEmpty = false ∧
      s.checkSrcs add0 (s.actLanes add0) (readsOf addOp.srcs) false addOp.srcs = .ok () ∧
      s.checkDsts (s.consume (s.actLanes add0) addOp.srcs) add0 (s.actLanes add0) false [5] = .ok false ∧
      s.emptyLanes (s.actLanes add0) addOp.srcs ≠ [] :=
  ⟨issues_of (by decide +kernel), by decide +kernel, eq_unit (by decide +kernel), eq_ok (by decide +kernel),
    by decide +kernel⟩

/-- A source read for its last time, and a destination that is written again. -/
theorem test_witness_prep : let s := st0 (holding [(5, full .s32 7 1), (2, full .s32 0 15)])
    let x := { add0 with a := 5 }
    let o : Op := ⟨0x060, 3, x⟩
    (∀ r ∈ o.srcs, ∀ c ∈ srcRegs r, ∀ l ∈ s.actLanes x, (s.cell c l).st = .full ∧
      ((s.cell c l).cnt = 15 ∨ readsOf o.srcs c ≤ (s.cell c l).cnt) ∧ r.req.accepts (s.cell c l).tag = true ∧
      (s.cell c l).poison = false) ∧
    (∀ l ∈ s.actLanes x, ((s.consume (s.actLanes x) o.srcs).cell 5 l).st = .exhausted) ∧
    (∀ l ∈ s.actLanes x, ((s.consume (s.actLanes x) o.srcs).rowOf 5 (l / 8)).isNone) ∧
    okB (s.needAll (s.consume (s.actLanes x) o.srcs) x (s.actLanes x) false {} [5]) = true ∧
    s.canTake (getD {} (s.needAll (s.consume (s.actLanes x) o.srcs) x (s.actLanes x) false {} [5])) = true := by
  decide +kernel

/-! ### FaultsPark, FaultToHandler, NeverDelegated, TrapReturns -/

/-- A bolt with a vector at 0x1080 to which its causes go, and one whose handler runs in its swatch. -/
def handled : Bolt := { bolt0 with trap := { vec := 0x1080, deleg := BitVec.ofNat 64 (2 ^ 0x29 + 2 ^ 0x03) } }
def inHandler (pc : Word := 0x1004) : Bolt := { bolt0 with
  trap := { handled.trap with act := true, cause := 0x29, pc := pc, lanes := 3 }, sw := ⟨[(0, { mask := 3, pc := 0x1080, hand := true })]⟩ }

theorem test_witness_fault_to_goloc : let s := st0 bolt0
    delegable 0x0B = true ∧ s.bolt.trap.deleg.getLsbD 0x0B = false ∧ delegable 0x09 = false := by decide +kernel
theorem test_witness_fault_deferred : let s := st0 { inHandler with sw := ⟨[(0, { mask := 3, pc := 0x1000 })]⟩ }
    delegable 0x03 = true ∧ s.bolt.trap.deleg.getLsbD 0x03 = true ∧ s.bolt.trap.vec ≠ 0 ∧ s.inSafe = false ∧
      s.bolt.trap.act = true ∧ s.sw.hand = false := by decide +kernel
theorem test_witness_fault_to_handler : let s := st0 handled
    delegable 0x29 = true ∧ s.bolt.trap.deleg.getLsbD 0x29 = true ∧ s.bolt.trap.vec ≠ 0 ∧ s.inSafe = false ∧
      s.bolt.trap.act = false ∧ s.startBit s.ten s.bolt.trap.vec = true ∧
      ({ s with codes := [] } : State).startBit s.ten s.bolt.trap.vec = false := by decide +kernel

/-- A return to TRAP.PC, one with another mask, one to a word that starts nothing, one with no handler. -/
theorem test_witness_trap_returns : let x := ex 0x1E1
    let s := st0 inHandler
    let u := st0 { inHandler with sw := ⟨[(0, { mask := 7, pc := 0x1080, hand := true })]⟩ }
    let v := st0 handled
    Issues s ⟨0x1E1, 3, x⟩ true ∧ Issues u ⟨0x1E1, 3, x⟩ true ∧ Issues v ⟨0x1E1, 3, x⟩ true ∧
      s.bolt.sw.has 0 = true ∧ s.actLanes x ≠ [] ∧ s.bolt.trap.act = true ∧
      (s.sw.jtop = s.bolt.trap.jtop ∧ s.sw.depth = s.bolt.trap.depth ∧ s.sw.rtop = s.bolt.trap.rtop ∧
        s.sw.mask &&& ~~~s.bolt.trap.lanes = 0) ∧ s.startBit s.ten s.bolt.trap.pc = true ∧
      (st0 (inHandler 0x1002)).startBit 1 0x1002 = false ∧ u.sw.mask &&& ~~~u.bolt.trap.lanes ≠ 0 ∧ v.bolt.trap.act = false :=
  ⟨issues_of (by decide +kernel), issues_of (by decide +kernel), issues_of (by decide +kernel), by decide +kernel⟩

/-! ### StepRunsDecodedInstruction, IllegalEncodingFaults -/

/-- A machine whose next step fetches `add.s32 v3:1, v1, v2`, and one whose word is no instruction's. -/
def stepState (w : Nat := 0x04118440) : State := State.reset.withFetchWord 32 w
def atHand (w : Nat) : State := { stepState w with cur := { core := 0, slot := 0, ent := 0 } }

theorem test_witness_step : let s := stepState
    let u : State := wakeAll { s with spun := s.spun + 1 }
    let n := (u.nextPick.getD (9, 9, 9, 9)).1
    let t := readSplit (select (({ u with turn := n + 1 } : State).passClocks 0 (n % 6) 1 (some 0)) 0 0 0)
    s.agenda = [] ∧ (urgent u).isNone ∧ s.spun % 8 < 6 ∧ u.nextPick = some (n, 0, 0, 0) ∧ t.probeOf 0 0 0 = none ∧ t.sw.ecc = 0 ∧
      reads [0x04118440] (· == .addS32Base (bw false 1 3 1 2 0)) = true ∧
      isOk 0x04118440 (fetchWord t (t.sw.pc + BitVec.ofNat 64 (4 * 0))) = true := by decide +kernel

/-- `0x40B0 0000` begins three words of an unassigned opcode. -/
theorem test_witness_illegal_encoding : let s := { stepState 0x40B00000 with cur := { core := 0, slot := 0, ent := 0 } }
    ([0x40B00000, 0, 0] : List W32).length = wordLen 0x40B00000 ∧ refusedAs [0x40B00000, 0, 0] = some .unassigned ∧
      isOk 0x40B00000 (fetchWord s (s.sw.pc + BitVec.ofNat 64 (4 * 0))) = true := by decide +kernel

theorem test_witness_canonical_memory : let s := st0 bolt0
    s.memWf = true ∧ (match step { s with agenda := [.heartbeatTick] } with | .next t => t.memWf | _ => false) = true := by
  decide +kernel

/-! ### Names, predicates, lanes -/

/-- An instruction issues in a state and passes R6 with these sources and destinations; `tr`: it transfers control. -/
def passes (i : Instr) (s : Op → State) (srcs : Op → List Src) (dsts : Op → List Code) (w64 : Op → Bool) (m : Mode := {})
    (tr : Bool := false) : Bool := match i.op with
  | none => false
  | some o => (i.check == none) && issuesB (s o) o tr && okB ((s o).prep o.x (srcs o) (dsts o) (w64 o) m)

/-- The same where its names are ready for it. -/
def passesR (i : Instr) (dsts : Op → List Code) (w64 : Op → Bool) (m : Mode := {}) (v : Word := 0) : Bool :=
  passes i (fun o => st0 (readyFor o v)) (fun o => o.srcs) dsts w64 m

/-- An instruction issues in a state. -/
def starts (i : Instr) (s : Op → State) (tr : Bool := false) : Bool := match i.op with
  | none => false
  | some o => (i.check == none) && issuesB (s o) o tr

def toDst (o : Op) : List Code := [o.x.dst]
def noDst (_ : Op) : List Code := []
def noSrc (_ : Op) : List Src := []
def w64F (o : Op) : Bool := o.x.fmt.is64
def narrow (_ : Op) : Bool := false
def wide (_ : Op) : Bool := true

/-- Registers 1 to 3 hold values with a count of 14, in lanes 0 and 1, or once. -/
def three (g : Bool := false) (n : Nat := 14) : State := st0 (holding [(rg g 1, full .s32 0 n), (rg g 2, full .s32 0 n), (rg g 3, full .s32 0 n)])

theorem test_witness_name_forms : let cs (x : Ext) : List Code := [x.a, x.b, x.c].take (x.modN + 1)
    ((inst 0x002 :: (bopsOf [0x002]).map (fun b => instB b)).all (fun i => starts i (fun _ => three) && (match i.op with
      | some o => (cs o.x).all (fun c => ((three).actLanes o.x).all (fun l =>
          !((three).cell c l).dead && decide ((cs o.x).count c ≤ ((three).cell c l).cnt)))
      | none => false)) &&
    (inst 0x003 :: (bopsOf [0x003]).map (fun b => instB b)).all (fun i => starts i (fun _ => three)) &&
    starts (inst 0x004) (fun _ => three) && ((three).actLanes (ex 0x004)).all (fun l => !((three).cell 1 l).dead) &&
    starts (.recount { ex 0x005 with mod := 1, dst := 1 }) (fun _ => three false 13)
      && ((three false 13).actLanes (ex 0x005)).all (fun l => decide (((three false 13).cell 1 l).cnt + 1 ≤ 14))) = true := by
  decide +kernel

theorem test_witness_sel_nstat_reserve :
    (passesR (inst 0x008) toDst w64F && passesR (inst 0x008 true) toDst w64F &&
      passes (inst 0x007) (fun _ => three) noSrc toDst narrow && starts (inst 0x00A) (fun _ => three) &&
      starts (inst 0x00A true) (fun _ => three)) = true ∧
    ((three).actLanes (ex 0x00A) ≠ [] ∧ (∀ st < (three).bolt.stitches, (three).bolt.rowsIn st + 60 ≤ (three).bolt.peak) ∧
      (List.range (three).bolt.stitches).foldl (fun a st => a + (60 - (three).bolt.resv.getD st 0)) 0
        ≤ (three).cc.freeRows (three).bolt.shuttle ∧
      (three).bolt.gents - (three).bolt.gresv + 60 ≤ (three).bolt.gpeak ∧ 60 - (three).bolt.gresv ≤ (three).cc.freeGroup) := by
  decide +kernel

/-- `rebind v5, v1` whose whole row goes over, and one of lane 0 alone, whose row is moved. -/
theorem test_witness_rebind : let x := { ex 0x006 with a := 1, dst := 5 }
    let s := three
    let u := st0 ((three).bolt.setCell (regKey false 1 2) (full .s32 0))
    starts (.rebind x) (fun _ => s) = true ∧ starts (.rebind x) (fun _ => u) = true ∧
    (∀ l ∈ s.actLanes x, (s.cell 1 l).dead = false ∧ (s.cell 5 l).st = .exhausted ∧ (s.rowOf 5 (l / 8)).isNone) ∧
    (let mv := (s.actLanes x).filter (fun l => !relabels s x (s.actLanes x) (l / 8));
      okB (rebindNeed s x mv []) = true ∧ s.canTake (getD {} (rebindNeed s x mv [])) = true) ∧
    (let mv := (u.actLanes x).filter (fun l => !relabels u x (u.actLanes x) (l / 8));
      mv ≠ [] ∧ okB (rebindNeed u x mv []) = true ∧ u.canTake (getD {} (rebindNeed u x mv [])) = true) := by
  decide +kernel

theorem test_witness_compares_and_votes :
    (passesR (inst 0x07A) noDst narrow && passesR (inst 0x07A true) noDst narrow && passesR (inst 0x0C6) noDst narrow &&
      starts (inst 0x122) (fun _ => three) &&
      passes (.vote { mk 0x122 with mod := 3, cnt := 1, dst := 5 }) (fun _ => three) noSrc toDst narrow swapLanes &&
      starts (inst 0x123) (fun _ => three) && starts (inst 0x126) (fun _ => three) && starts (inst 0x126 true) (fun _ => three)
      && (three).gActive (ex 0x126 true)) = true ∧
    (let o : Op := ⟨0x0C6, 3, ex 0x0C6⟩
      let num (v : Word) : Fp.Num := (Fp.ofTag .f32).decode (Fp.elemRaw .f32 ((prepOf (st0 (readyFor o v)) o [] false).opnd 1 0).val 0)
      (num 0x7F800001).isSnan = true ∧ (num 0x7FC00000).isSnan = false ∧ (num 0x7FC00000).isNan = true ∧ (num 0).isSnan = false) := by
  decide +kernel

/-- Lane exchange over segments of one lane and of two, each lane reading itself. -/
theorem test_witness_lane_exchange :
    ([0x120, 0x121, 0x124, 0x125].all (fun n => passesR (inst n) toDst w64F swapLanes)) = true ∧
    (∀ l ∈ (st0 (readyFor ⟨0x121, 3, ex 0x121⟩)).actLanes (ex 0x121), l - l % 1 + 0 % 1 = l) := by decide +kernel

theorem test_witness_block_forms : let s (o : Op) : State := st0 (readyFor o)
    (passesR (inst 0x035) toDst narrow { split := false } && [(0x038, false), (0x039, false), (0x039, true)].all (fun n =>
      starts (inst n.1 n.2) s && okB (psPrep n.1 (ex n.1 n.2) (s ⟨n.1, 3, ex n.1 n.2⟩)))) = true := by decide +kernel

/-! ### Control flow -/

/-- k1 is true in lane 0 alone. -/
def split0 : Bolt := { bolt0 with k := ⟨[(1, 1)]⟩ }

theorem test_witness_branches : let x := { ex 0x140 with pred := 1, imm := 8 }
    let s := st0 split0
    let b := st0 (cells bolt0 1 (full .n64 0x1010) (full .n64 0x1020))
    let y := ex 0x141
    (starts (.bra x) (fun _ => s) true && starts (.bra { x with g := true, pred := 0 }) (fun _ => s) true &&
      passes (.brx y) (fun _ => b) (fun o => o.srcs) noDst narrow {} true) = true ∧
    (s.bolt.sw.has 0 = true ∧ s.sw.st = .ready ∧ s.active x = 1 ∧ s.swLanes &&& ~~~(s.active x) = 2 ∧
      s.startBit s.ten (target s x) = true ∧ s.startBit s.ten (s.nextPc 3) = true ∧ s.canSplit 1 = true ∧ s.inSafe = false) ∧
    (b.swLanes &&& ~~~(maskOf (b.actLanes y)) = 0 ∧ ∀ l ∈ b.actLanes y, let t := (prepOf b ⟨0x141, 3, y⟩ [] false).opnd 1 l
      winOf t.val = 0 ∧ b.startBit b.ten t.val = true) := by decide +kernel

/-- `loop` with a counter of 3, and of 1. -/
theorem test_witness_loops : let s (v : Word) : State := st0 (holding [(rg true 1, full .s32 v)])
    let x := ex 0x149
    (passes (.loop x) (fun _ => s 3) (fun o => o.srcs) toDst narrow {} true &&
      passes (.loop x) (fun _ => s 1) (fun o => o.srcs) noDst narrow {} true) = true ∧ x.g = true ∧ (s 3).gActive x = true ∧
    Fp.narrow .s32 (Fp.valT .s32 3 - 1) ≠ 0 ∧ Fp.narrow .s32 (Fp.valT .s32 1 - 1) = 0 ∧
    (s 3).startBit 1 (target (s 3) x) = true ∧ (s 1).startBit 1 ((s 1).nextPc 3) = true := by decide +kernel

theorem test_witness_calls : let x := { ex 0x142 with pred := 1, imm := 8 }
    let s := st0 split0
    let b := st0 (cells bolt0 1 (full .n64 0x1020) (full .n64 0x1020))
    let c := st0 (cells bolt0 1 (full .n64 0x1020) (full .n64 0x1010))
    let y := ex 0x143
    (starts (.call x) (fun _ => s) true && passes (.callx y) (fun _ => b) (fun o => o.srcs) noDst narrow {} true &&
      passes (.callx y) (fun _ => c) (fun o => o.srcs) noDst narrow {} true) = true ∧
    (s.active x = 1 ∧ s.startBit s.ten (target s x) = true ∧ s.startBit s.ten (s.nextPc 3) = true ∧ s.canSplit 1 = true ∧
      s.bolt.rets.has 0 = false ∧ okB (makeRoom s) = true) ∧
    (b.sw.jtop = none ∧ ∀ l ∈ b.actLanes y, ((prepOf b ⟨0x143, 3, y⟩ [] false).opnd 1 l).val = 0x1020) ∧
    (c.bolt.freeJoin = some 0 ∧ c.sw.depth < 32 ∧ okB (makeRoom (prepOf c ⟨0x143, 3, y⟩ [] false).post) = true ∧
      c.swLanes &&& ~~~(maskOf (c.actLanes y)) = 0 ∧ ((prepOf c ⟨0x143, 3, y⟩ [] false).opnd 1 1).val.toNat
        < ((prepOf c ⟨0x143, 3, y⟩ [] false).opnd 1 0).val.toNat) := by decide +kernel

theorem test_witness_returns : let s := st0 { bolt0 with rets := ⟨[(0, { addr := 0x1040 })]⟩, sw := ⟨[(0, { mask := 3, pc := 0x1000, rtop := some 0 })]⟩ }
    ((inst 0x144 :: (bopsOf [0x144]).map (fun b => instB b)).all (fun i => starts i (fun _ => s) true && starts i (fun _ => st0 bolt0) true))
      = true ∧ (s.bolt.rets.getD 0 {}).serial = none ∧ (s.bolt.rets.getD 0 {}).spilled = false ∧ s.startBit s.ten 0x1040 = true ∧
    (st0 bolt0).sw.rtop = none := by decide +kernel

/-- An entry that has been spilled to the stack at 0x20000, and is read back. -/
theorem test_witness_spilled_return : let b : Bolt := { bolt0 with
      rets := ⟨[(0, { addr := 0x1040, spilled := true })]⟩, sw := ⟨[(0, { mask := 3, pc := 0x1000, rtop := some 0 })]⟩ }
    let s : State := let s := st0 b (fun c => { c with tlb := [{ ten := 1, base := 0x20000, leaf :=
        { pa := 0x40000, log := 16, acc := false, tck := false, mov := false, x := false, w := true, rd := true } }] })
      { s with launches := s.launches.map (fun l => { l with stack := 0x20000 }) }
    starts (inst 0x144) (fun _ => s) true = true ∧ (s.bolt.rets.getD 0 {}).spilled = true ∧ (s.bolt.rets.getD 0 {}).serial = none ∧
      (s.bolt.rets.getD 0 {}).ecc = 0 ∧ s.startBit s.ten 0x1040 = true ∧ okB (refill s 0) = true := by decide +kernel

/-- A swatch under a join record at its own pc: the record expects another lane, or lane 2 has arrived before. -/
def joining (e a : Mask) (ljoin : Word) : State := st0 { bolt0 with
  joins := ⟨[(0, { ljoin := ljoin, e := e, a := a })]⟩
  sw := ⟨[(0, { mask := 3, pc := 0x1000, depth := 1, jtop := some 0 })] ++
    (if a = 0 then [] else [(1, { mask := 4, pc := 0x1000, depth := 1, jtop := some 0, st := .join 0, hold := 0x100C })])⟩ }

theorem test_witness_forks_and_joins : let x := { ex 0x145 with pred := 1, imm := 8 * 2 ^ 11 + 16 }
    let s := st0 split0
    (starts (.fork x) (fun _ => s) true && starts (.join (ex 0x146)) (fun _ => joining 7 0 0x1000) true &&
      starts (.join (ex 0x146)) (fun _ => joining 7 4 0x1000) true && starts (.join (ex 0x146)) (fun _ => joining 7 4 0x1010) true)
      = true ∧
    (s.bolt.sw.has 0 = true ∧ s.sw.unfin = none ∧ s.startBit s.ten (forkTargets s x).1 = true ∧ s.bolt.freeJoin = some 0 ∧
      s.sw.depth < 32 ∧ s.canSplit 1 = true) ∧
    ((joining 7 0 0x1000).sw.mask ||| 0 ≠ 7 ∧ (joining 7 4 0x1000).sw.mask ||| 4 = 7 ∧
      (joining 7 4 0x1000).nextPc 3 = 0x100C ∧ (joining 7 4 0x1000).sw.jtop = some 0) ∧
    (starts (.join (ex 0x146)) (fun _ => s) true = true ∧ s.nextBit s.ten s.sw.pc (s.nextPc 3) = true ∧
      s.sw.jtop.bind (fun r => s.bolt.joins.get? r) = none) := by decide +kernel

/-- One lane of two leaves; both leave, and the bolt with them. -/
theorem test_witness_exits : let x := { ex 0x147 with pred := 1 }
    ((inst 0x147 :: (bopsOf [0x147]).map (fun b => instB b)).all (fun i => starts i (fun _ => st0 bolt0) true) &&
      starts (.exit x) (fun _ => st0 split0) true) = true ∧
    (st0 split0).sw.jtop = none ∧ (st0 split0).active x = 1 ∧ (st0 split0).startBit 1 ((st0 split0).nextPc 3) = true ∧
    (st0 bolt0).active (ex 0x147) = 3 ∧ (st0 bolt0).sw.mask = (st0 bolt0).swLanes ∧ (st0 bolt0).bolt.sw.keys = [0] := by
  decide +kernel

theorem test_witness_nop_yield_brk :
    ((inst 0x14A :: inst 0x148 :: (bopsOf [0x14A, 0x148]).map (fun b => instB b)).all (fun i => starts i (fun _ => st0 bolt0)) &&
      starts (inst 0x14B) (fun _ => st0 bolt0) true) = true ∧ (st0 bolt0).bolt.sw.has 0 = true := by decide +kernel

/-! ### Memory -/

/-- Pages of 64 KiB at 0x20000 and 0x30000 of tenancy 1, at physical 0x40000 and 0x50000, in the core's TLB. -/
def page (base : Nat) (mov : Bool := false) : TlbEnt :=
  { ten := 1, base := base, leaf := { pa := base + 0x20000, log := 16, acc := false, tck := false, mov := mov, x := true, w := true, rd := true } }
def stM (b : Bolt) : State := st0 b (fun c => { c with tlb := [page 0x20000, page 0x30000] })

/-- The names are ready for the instruction, and the address in `v1` is a global one in lane 0 and one of the panel's scratchpad
in lane 1. -/
def addressed (o : Op) (v : Word := 0) : Bolt :=
  cells (readyFor o v) 1 (full (if o.opc = 0x1D1 then .n64 else .n64) 0x20000) (full .n64 0xFF00000000000010)

/-- The access passes R197 and its translation; the address that it reaches. -/
def reachedAt (s : State) (lane : Nat) (va : Word) (size : Nat) (perm : Perm) : Option Nat :=
  match s.place lane va size with
  | .ok (.glob g) => match s.translate s.cur.core s.ten g.toNat perm s.sw with
    | .ok pa _ _ _ => if pa + size ≤ Config.hbmBytes then some pa else none
    | _ => none
  | _ => none

theorem reaches_of {s : State} {lane size pa : Nat} {va : Word} {perm : Perm} (h : reachedAt s lane va size perm = some pa) :
    ∃ acc hops, Reaches s lane va size perm pa acc hops := by
  unfold reachedAt at h
  split at h
  · rename_i g hp
    split at h
    · rename_i q acc za hops ht
      split at h
      · rename_i hb; cases h; exact ⟨acc, hops, g, za, hp, ht, hb⟩
      · cases h
    · cases h
  · cases h

def banked (s : State) (lane : Nat) (va : Word) (size : Nat) : Option (Nat × Nat) := match s.place lane va size with
  | .ok (.scr c off) => some (c, off)
  | _ => none

theorem banks_of {s : State} {lane size c off : Nat} {va : Word} (h : banked s lane va size = some (c, off)) :
    Banks s lane va size c off := by
  unfold banked at h
  split at h
  · rename_i hp; cases h; exact hp
  · cases h

def landsB (s : State) (lane : Nat) (va : Word) (size : Nat) (perm : Perm) (k : Kind) : Bool :=
  ((banked s lane va size).isSome || (reachedAt s lane va size perm).isSome) && (match s.place lane va size with
    | .ok p => (s.watchHit k p).isNone
    | .error _ => true)

theorem lands_of {s : State} {lane size : Nat} {va : Word} {perm : Perm} {k : Kind} (h : landsB s lane va size perm k = true) :
    Lands s lane va size perm ∧ Unwatched s lane va size k := by
  simp only [landsB, Bool.and_eq_true, Bool.or_eq_true, Option.isSome_iff_exists] at h
  refine ⟨?_, .inr (.inr ?_)⟩
  · rcases h.1 with ⟨⟨c, off⟩, hc⟩ | ⟨pa, hp⟩
    · exact .inl ⟨c, off, banks_of hc⟩
    · exact .inr ⟨pa, reaches_of hp⟩
  · intro p hp
    have h2 := h.2
    rw [hp] at h2
    exact Option.isNone_iff_eq_none.mp h2

/-- A load, or a store, as LoadsComplete and StoresComplete ask: it passes R6, and every access of every lane lands. -/
def accesses (i : Instr) (store : Bool) : Bool := match i.op with
  | none => false
  | some o =>
    let s := stM (addressed o)
    let ranged := o.opc == 0x162 || o.opc == 0x163
    let n := if ranged then rangeLen o.x.modN else 1
    let size := if ranged || o.x.modN == 0 then (if o.x.fmt.is64 then 8 else 4) else o.x.modN
    let dsts := if store then [] else codesFrom o.x.dst n
    let p := prepOf s o dsts (!store && o.x.fmt.is64)
    (i.check == none) && issuesB s o false && okB (s.prep o.x o.srcs dsts (!store && o.x.fmt.is64)) &&
      (s.actLanes o.x).all (fun l => !(s.txAt l).act && (List.range n).all (fun k =>
        landsB s l ((p.opnd 1 l).val + memOff o.opc o.x + BitVec.ofNat 64 (k * size)) size (if store then .w else .r)
          (if store then .wr else .rd)))

theorem test_witness_loads : (inst 0x160 :: .ld { ex 0x160 with fmt := .s32, mod := 1, imm := 3 } :: inst 0x162 ::
    (bopsOf [0x160]).map (fun b => instB b)).all (fun i => accesses i false) = true := by decide +kernel
theorem test_witness_stores : (inst 0x161 :: .st { ex 0x161 with mod := 2, imm := 2 } :: inst 0x163 ::
    (bopsOf [0x161]).map (fun b => instB b)).all (fun i => accesses i true) = true := by decide +kernel

/-- Lane 0 is misaligned, lane 1 beyond the panel's scratchpad: the lower cause is reported; then lane 1 alone, 0x0D. -/
theorem test_witness_address_faults : let x := ex 0x160
    let o : Op := ⟨0x160, 3, x⟩
    let s := stM (cells bolt0 1 (full .n64 0x20002) (full .n64 0xFF00000000001000))
    let u := stM (cells bolt0 1 (full .n64 0x20000) (full .n64 0xFF00000000001000))
    let va (s : State) (l : Nat) : Word := (s.opnd (o.srcs.headD { pos := 1 }) l).val + memOff 0x160 x
    let fails (s : State) (c : Nat) : List Nat := (s.actLanes x).filter (fun j => match s.place j (va s j) 4 with
      | .error e => e == c
      | .ok _ => false)
    Issues s o false ∧ s.ready x o.srcs [5] false = .ok (s.actLanes x) ∧ fails s 0x0A = [0] ∧ fails s 0x0D = [1] ∧
      Issues u o false ∧ u.ready x o.srcs [5] false = .ok (u.actLanes x) ∧ fails u 0x0A = [] ∧ fails u 0x0D = [1] :=
  ⟨issues_of (by decide +kernel), eq_ok (by decide +kernel), by decide +kernel, by decide +kernel,
    issues_of (by decide +kernel), eq_ok (by decide +kernel), by decide +kernel, by decide +kernel⟩

/-- Where lanes 0 and 1 of a one-address form go. -/
def va1 (s : State) (o : Op) (l : Nat) : Word := (s.opnd (o.srcs.headD { pos := 1 }) l).val + memOff o.opc o.x

theorem test_witness_cache_forms : let s (o : Op) : State := stM (cells (readyFor o) 1 (full .n64 0x20000) (full .n64 0x20080))
    let w (n : Nat) (f : Swatch → Swatch) : State := (s ⟨n, 3, ex n⟩).modSw f
    (passes (inst 0x164) s (fun o => o.srcs) noDst narrow && passes (inst 0x165) s (fun o => o.srcs) noDst narrow &&
      starts (.cinv (mk 0x165 true .bits32 1)) (fun _ => w 0x165 (fun v => { v with phase := 7 })) &&
      starts (inst 0x166) (fun _ => w 0x166 (fun v => { v with phase := 9 })) &&
      passes (inst 0x166) s (fun o => o.srcs) noDst narrow && passes (inst 0x167) s (fun o => o.srcs) toDst wide) = true ∧
    (∀ n ∈ [0x165, 0x166], ∀ l ∈ [0, 1],
      (reachedAt (s ⟨n, 3, ex n⟩) l (va1 (s ⟨n, 3, ex n⟩) ⟨n, 3, ex n⟩ l) 1 (if n = 0x165 then .none else .r)).isSome ∧
      (s ⟨n, 3, ex n⟩).lineBusy 0x40000 (some 0) = false) ∧
    (s ⟨0x166, 3, ex 0x166⟩).sw.st = .ready ∧ (s ⟨0x166, 3, ex 0x166⟩).sw.phase = 0 ∧
    (s ⟨0x166, 3, ex 0x166⟩).actLanes (ex 0x166) = [0, 1] ∧ (∀ l < 4, ((s ⟨0x166, 3, ex 0x166⟩).txAt l).act = false) ∧
    (s ⟨0x166, 3, ex 0x166⟩).cc.acks.contains ((s ⟨0x166, 3, ex 0x166⟩).swKey) = false ∧
    (s ⟨0x166, 3, ex 0x166⟩).cc.stq = [] := by decide +kernel

/-- `pbload` of the leaders 510 and 511, the last two. -/
theorem test_witness_pattern_load : let x := { ex 0x03A with imm := 1 * 2 ^ 12 + 510 }
    let s := stM (holding [(rg true 1, full .n64 0x20000)])
    passes (.pbload x) (fun _ => s) (fun o => o.srcs) noDst narrow = true ∧ s.cc.psOwner = none ∧ s.cc.psRegen = false ∧
      s.cc.mxq = [] ∧ s.ecc = {} ∧ s.bolt.staged = false ∧ s.cc.stq = [] ∧ s.actLanes x ≠ [] ∧ s.cc.l1.ents = [] ∧ s.dlv = [] ∧
      (∀ l ∈ s.actLanes x, (s.txAt l).act = false) ∧
      ∀ j < 2, (reachedAt s 0 (0x20000 + BitVec.ofNat 64 (j * 4)) 4 .r).isSome ∧ s.lineBusy (0x40000 + 4 * j) (some 0) = false ∧
        s.earlierLoad 0 s.serial (0x40000 + 4 * j) = false := by
  decide +kernel

theorem test_witness_fences : let s := st0 bolt0
    let e := s.modSw (fun w => { w with edge := some 7 })
    (starts (.fence { ex 0x180 with mod := 1 }) (fun _ => s) && starts (inst 0x180) (fun _ => s) && starts (inst 0x181) (fun _ => e) &&
      passes (inst 0x182) (fun _ => s) noSrc toDst wide && passes (.tick { ex 0x182 with mod := 1 }) (fun _ => e) noSrc toDst wide &&
      starts (inst 0x183) (fun _ => s)) = true ∧ s.loadsDue 0 = false ∧ s.cc.stq = [] ∧ s.dry (ex 0x180) = false ∧
    e.sw.edge = some 7 ∧ e.hb ≠ 7 := by decide +kernel

/-! ### Atomics and transactions -/

/-- Lane 0 at a global word, lane 1 at a bank word; then a swatch that waits for an acquire. -/
theorem test_witness_atomics : ([0x190, 0x191, 0x192].all (fun n =>
    let o : Op := ⟨n, 3, ex n⟩
    let s := stM (addressed o)
    let va (l : Nat) : Word := (s.opnd (o.srcs.headD { pos := 1 }) l).val + (o.x.imm.extractLsb' 8 14).signExtend 64
    passes (inst n) (fun _ => s) (fun o => o.srcs) (if n = 0x192 then noDst else toDst) w64F && !o.x.mod.getLsbD 0 &&
      !o.x.imm.getLsbD 6 && !s.loadsDue 0 && s.cc.stq.isEmpty && s.sw.phase == 0 && reachedAt s 0 (va 0) 4 .w == some 0x40000 &&
      reachedAt s 0 (va 0) 4 .r == some 0x40000 && banked s 1 (va 1) 4 == some (0, 8192 + 16) && !s.lineBusy 0x40000 (some 0) && s.ecc == {} && s.cc.scrEcc == {} &&
      !s.earlierLoad 0 s.serial 0x40000 && [0, 1].all (fun l => landsB s l (va l) 4 .w .at_) &&
      starts (inst n) (fun _ => s.modSw (fun w => { w with phase := 5 })))) = true := by decide +kernel

/-- Bolts whose lanes 0 and 1 are in transactions of this state. -/
def inTx (t : Tx) : State := st0 { bolt0 with tx := ⟨[(0, { t with act := true }), (1, { t with act := true })]⟩ }

theorem test_witness_transactions : let s := st0 bolt0
    let d := (inTx { dec := 2 }).modSw (fun w => { w with phase := 10 })
    (starts (inst 0x193) (fun _ => s) && starts (inst 0x193) (fun _ => inTx {}) && starts (inst 0x194) (fun _ => d) &&
      starts (inst 0x194) (fun _ => s) && starts (inst 0x195) (fun _ => inTx {}) &&
      passes (inst 0x196) (fun _ => inTx {}) noSrc toDst narrow) = true ∧
    (∀ l ∈ s.actLanes (ex 0x193), (s.txAt l).act = false) ∧ (s.dueLane (s.actLanes (ex 0x193))).isNone ∧
    ((inTx {}).actLanes (ex 0x193)).filter (fun l => ((inTx {}).txAt l).act) = [0, 1] ∧
    (∀ l ∈ d.actLanes (ex 0x194), (d.txAt l).act = true ∧ (d.txAt l).dec ≠ 1) ∧ (ex 0x194).immF 0 3 ≠ 0 ∧
    (s.actLanes (ex 0x194)).filter (fun l => !(s.txAt l).act) = [0, 1] ∧
    (∀ l ∈ (inTx {}).actLanes (ex 0x195), ((inTx {}).txAt l).act = true ∧ ((inTx {}).txAt l).irr = false ∧
      ((inTx {}).txAt l).begun = false ∧ ((inTx {}).txAt l).dec = 0) := by decide +kernel

/-- A lane at its `txend` that has read a word and written another in line 0x40000, beside lane 1 in some transaction. -/
def ended (v : Word := 0) : Tx := { act := true, dec := 1, rd := [(0x40000, v)], wr := ⟨[(0x40008, 9)]⟩, wrw := [0x40008] }
def lockedTx (age : Word := 0) : Tx := { ended with lines := [0x40000], age := age }
def twoTx (a b : Tx) : State := st0 { bolt0 with tx := ⟨[(0, a), (1, b)]⟩ }

/-- Its line is free, or locked by lane 1's commit, which is older or younger. -/
theorem test_witness_commit_locks : let s := twoTx ended {}
    (s.cores.has 0 && (s.core 0).bolts.has 0 && decide ((s.boltAt 0 0).tx.getD 0 {} = ended) &&
      ended.setLines.find? (fun n => !ended.lines.contains n) == some 0x40000 && s.holds.isEmpty &&
      (s.txLines (fun _ _ _ u => u.holds)).isEmpty && (s.locker 0x40000).isNone) = true := by decide +kernel
theorem test_witness_commit_lock_ages : ([(0 : Word), 9].all (fun v => match (twoTx { ended with age := 5 } (lockedTx v)).locker 0x40000 with
      | some g => g.2 == (0, 0, 1) && olderThan g.1 (txAge 0 0 0 0 { ended with age := 5 }) == (v == 0)
      | none => false)) = true := by decide +kernel

/-- It has every line locked, with what it has read as it stands, or otherwise; and a lane waits for the token. -/
theorem test_witness_commits : let q := twoTx (lockedTx) {}
    let w := st0 { bolt0 with tx := ⟨[(0, { att := 8, pc := some 0x1000 })]⟩, sw := ⟨[(0, { mask := 3, pc := 0x1000, st := .retry 13, phase := 3 })]⟩ }
    lockedTx.setLines.find? (fun n => !lockedTx.lines.contains n) = none ∧ (q.core 0).stq = [] ∧ (q.boltAt 0 0).staged = false ∧
    (∀ r ∈ lockedTx.rd, BitVec.ofNat 64 (q.mem.readN r.1 8) = r.2) ∧
    (∃ r ∈ (ended 1).rd, BitVec.ofNat 64 (q.mem.readN r.1 8) ≠ r.2) ∧ w.token = none ∧ w.tokenWaiters ≠ [] := by decide +kernel

/-! ### Deliveries, stores, translation -/

/-- Lane 0 of `v1` waits for delivery 9. -/
def waiting (st : CellSt) : Bolt := cells bolt0 1 { st := st, cnt := 2, tag := .n32, pend := 9 } (full .n32 0)
def dlv9 (b : Bring) : Delivery := { id := 9, core := 0, slot := 0, key := 1024, lane := some 0, mem := true, bring := b }

theorem test_witness_deliveries : let s (st : CellSt) (b : Bring) : State := { st0 (waiting st) with dlv := [dlv9 b], serial := 10 }
    (∀ b ∈ [Bring.value 5 .n32 1 false, .load 0x40000 0x20000 4 .n32 false false],
      (s .empty b).dlv.find? (fun d => d.id == 9) = some (dlv9 b) ∧ (((s .empty b).boltAt 0 0).regs.getD 1024 {}).pend = 9 ∧
      (((s .empty b).boltAt 0 0).regs.getD 1024 {}).st = .empty ∧ (((s .discarding b).boltAt 0 0).regs.getD 1024 {}).st = .discarding) ∧
    (s .empty (.load 0x40000 0x20000 4 .n32 false false)).canTakeLoad (dlv9 (.load 0x40000 0x20000 4 .n32 false false)) 0x40000 = true ∧
    ({ s .empty (.load 0x40000 0x20000 4 .n32 false false) with holds := [(0x40000, 1)] } : State).canTakeLoad
      (dlv9 (.load 0x40000 0x20000 4 .n32 false false)) 0x40000 = false := by decide +kernel

/-- A store that may be performed, and one whose line is held. -/
theorem test_witness_performed_store : let q : PStore := { id := 1, pa := 0x40002, va := 0x20002, bytes := [1, 2], ten := 1 }
    let s := st0 bolt0 (fun c => { c with stq := [q] })
    (s.core 0).stq.find? (fun q => s.canPerform 0 q) = some q ∧ q.stg = none ∧
      (({ s with holds := [(0x40000, 1)] } : State).core 0).stq.find? (fun q => ({ s with holds := [(0x40000, 1)] } : State).canPerform 0 q)
        = none := by decide +kernel

theorem test_witness_memory_events : let w (st : Wait) (ph : Nat) : State := st0 { bolt0 with sw := ⟨[(0, { mask := 3, pc := 0x1000, st := st, phase := ph })]⟩ }
    (((w (.retry 12) 6).boltAt 0 0).sw.getD 0 {}).st = .retry 12 ∧ (((w (.retry 12) 6).boltAt 0 0).sw.getD 0 {}).phase = 6 ∧
    ((w (.retry 12) 6).core 0).acks = [] ∧
    (((w (.walk 0x20000) 0).boltAt 0 0).sw.getD 0 {}).st = .walk 0x20000 ∧ (st0 bolt0).fill 1 0x20000 = none ∧ (st0 bolt0).ctlbGet 0 1 0x20000 = none ∧
    (({ st0 bolt0 with ctlb := ⟨[(0, [page 0x20000])]⟩ } : State).ctlbGet 0 1 0x20000).isSome ∧
    (st0 bolt0).trBusy = false ∧ (∀ e ∈ (st0 bolt0).cores.ents, e.2.stq = []) ∧ (∀ c ∈ (st0 bolt0).cores.vals, ∀ b ∈ c.bolts.vals, b.tx.ents = []) ∧ (st0 bolt0).dlv = [] ∧
    (let s (n : Nat) : State := { st0 bolt0 with access := ⟨[(3, n)]⟩, accDue := ⟨[(3, 1)]⟩ };
      (s 0xFFFF).accThr ≠ 0 ∧ (s 0xFFFF).accThr ≤ (s 0xFFFF).access.getD (0x600000 / 2 ^ 21) 0 + 1 ∧
      (s 0xFFFE).access.getD (0x600000 / 2 ^ 21) 0 + 1 < (s 0xFFFE).accThr ∧ (s 0).accDue.getD 3 0 ≠ 0 ∧ (s 0).accDue.getD 4 0 = 0) := by
  decide +kernel

/-! ### Barriers -/

/-- The panel has a barrier 3 with this state, and owns trays 0 to 2 and region 0. -/
def stB (b : Bolt) (bar : Bar := { exp := 4 }) (f : Core → Core := id) : State := st0 b (fun c => f { c with
  panels := ⟨[(0, { launch := 0x100000007, ten := 1, out := 1, scrOff := 8192, scrSize := 4096, bars := ⟨[(3, bar)]⟩ })]⟩
  trayOwn := ⟨[(0, 0), (1, 0), (2, 0)]⟩, regOwn := ⟨[(0, 0)]⟩ })

/-- Barrier 3 in the forms of the barriers' class. -/
def bx (opc : Nat) (md : BitVec 2 := 0) (hi : BitVec 22 := 0) : Ext := mk opc false (if opc = 0x1B7 then .n64 else .bits32) md (3 + 16 * hi)

theorem test_witness_barriers : let s := stB bolt0
    let v := stB bolt0 { exp := 4, arr := 3 }
    let ini : Ext := bx 0x1B3 0 3
    let exq : Ext := mk 0x1B5 false .bits32 0 (3 + 256 * 16383)
    let arr : Ext := bx 0x1B4
    (starts (.barinit ini) (fun _ => s) && starts (.barinit ini) (fun _ => stB bolt0 { exp := 4, eng := 1 }) &&
      starts (.expect exq) (fun _ => v) && starts (.expect { exq with imm := 3 + 256 * 12288 }) (fun _ => v) &&
      passes (.arrive arr) (fun _ => v) noSrc noDst narrow &&
      passes (.arrive { arr with cnt := 1, dst := 5, fmt := .n32 }) (fun _ => s) noSrc toDst narrow && starts (.arrive arr) (fun _ => stB bolt0 {}) &&
      passes (.arrive { arr with mod := 2 }) (fun _ => s) noSrc noDst narrow &&
      passes (.waitB (bx 0x1B6 0 1)) (fun _ => s) (fun o => o.srcs) noDst narrow &&
      passes (.bartest { bx 0x1B7 with fmt := .bits32, imm := 3 + 64 }) (fun _ => s) (fun o => o.srcs) noDst narrow &&
      passes (.bartest (bx 0x1B7 1)) (fun _ => s) noSrc toDst wide) = true := by decide +kernel

theorem test_witness_barrier_states : let s := stB bolt0
    let v := stB bolt0 { exp := 4, arr := 3 }
    s.liveLanes (bx 0x1B4) (s.actLanes (bx 0x1B4)) ≠ [] ∧ s.sw.phase = 0 ∧ s.loadsDue 0 = false ∧ s.cc.stq = [] ∧
    (s.panel.bar 3).exp ≠ 0 ∧ (v.panel.bar 3).arr + 1 = (v.panel.bar 3).exp ∧ (s.panel.bar 3).gen % 4 ≠ 1 ∧ (s.panel.bar 3).gen % 4 = 0 ∧
    s.groupPanel 0 0 0 = some (0, 0) ∧ (s.core 0).panels.has 0 = true ∧ s.ready (bx 0x1B4) [] [] false = .ok [0, 1] := by
  refine ⟨?_, ?_, ?_, ?_, ?_, ?_, ?_, ?_, ?_, ?_, eq_ok ?_⟩ <;> decide +kernel

/-! ### Copies -/

/-- A list whose request has these bytes first; the list stands at the head of the kick register. -/
def listed0 (r : List Byte) : State := stB bolt0 { exp := 4 } (fun c => { c with
  kicks := [{ id := 5, panel := 0, addr := 0xFF00000000000040, after := 0 }], scr := Mem.writeBytes [] (8192 + 64) r })

theorem test_witness_copies : let lin := mk 0x1B0 false .bits32 2 0x13
    let s (_ : Op) : State := stB (cells (cells (cells bolt0 1 (full .n64 0x20000) (full .n64 0x20010)) 2 (full .n64 0xFF00000000000010) (full .n64 0x30000))
      3 (full .n32 16) (full .n32 0x1000000))
    let cast := mk 0x1B1 false .bits32 2 0x100
    let t (_ : Op) : State := stB (cells (cells (cells bolt0 1 (full .n64 0x20000) (full .n64 0x20010)) 2 (full .n64 0xFF00000000000010) (full .n64 0xFF00000000000020))
      3 (full .n32 16) (full .n32 32))
    let o : Op := ⟨0x1B0, 3, lin⟩
    let q : Op := ⟨0x1B1, 3, cast⟩
    (passes (.tcopy lin) s (fun o => o.srcs) noDst narrow && passes (.tmcast cast) t (fun o => o.srcs) noDst narrow &&
      passes (inst 0x1B2) (fun _ => stB (holding [(rg true 1, full .n64 0xFF00000000000040)])) (fun o => o.srcs) noDst narrow) = true ∧
    (∀ l ∈ (s o).actLanes lin, copyFaults 0x1B0 lin (s o) (fun pos => (prepOf (s o) o [] false).opnd pos l) l = []) ∧
    (∀ l ∈ (t q).actLanes cast, copyFaults 0x1B1 cast (t q) (fun pos => (prepOf (t q) q [] false).opnd pos l) l = []) ∧
    (s o).cc.canEnter (s o).bolt.prio 2 = true ∧ ((s o).panel.bar 3).issue 2 ≠ none ∧ (s o).cc.kicks.length < 8 := by decide +kernel

/-- Requests of each OP, well formed and taken or cut off, and a malformed one. -/
theorem test_witness_requests : let bytes (op : Byte) (fl : Byte) : List Byte :=
      [op, fl, 0, 0, 0, 0, 0, 0] ++ toLE 0x20000 8 ++ toLE 0xFF00000000000100 8 ++ toLE 0 16 ++ toLE 16 4 ++ toLE 0 20
    let l : ReqList := { id := 5, panel := 0, addr := 0xFF00000000000040, after := 0 }
    (∀ op ∈ [0, 1, 2, 3, 4, 5], ∀ fl ∈ [0x00, 0x13],
      (match headRequest (listed0 (bytes op fl)) 0 l with
        | .ok (r, t) => decide (r = bytes op fl) && !badRequest r && decide (layN r 0 1 = op.toNat) && decide (t = listed0 (bytes op fl))
        | .error _ => false) = true) ∧
    badRequest (bytes 6 0) = true ∧ badRequest (bytes 1 0x80) = true ∧ (listed0 (bytes 1 0)).storesDue 0 0 = false ∧
    ((listed0 (bytes 1 0)).core 0).canEnter 0 1 = true ∧ requestFails (listed0 (bytes 3 0)) 0 l 3 (bytes 3 0) = false ∧
    requestFails (listed0 (bytes 2 0x40)) 0 l 2 (bytes 2 0x40) = true ∧ (∀ k ∈ ((listed0 (bytes 4 3)).core 0).copies, k.list ≠ some 5) ∧
    ((listed0 (bytes 4 3)).barAt 0 0 3).exp ≠ 0 ∧ ((listed0 (bytes 4 3)).barAt 0 0 3).arr + 1 < ((listed0 (bytes 4 3)).barAt 0 0 3).exp := by
  decide +kernel

/-- A linear copy of 2064 bytes within the panel's scratchpad, started or not, and one to a global address. -/
def copy0 (k : Copy → Copy) : State := stB bolt0 { exp := 4, eng := 1 } (fun c => { c with copies := [k
  { id := 5, kind := .lin, type := 1, src := .scr 0 8192, dst := [.scr 0 (8192 + 2064)], bar := some 3, panel := 0, launch := 0x100000007, ten := 1
    queue := 0, after := 0, len := 2032, total := 2032 }] })

theorem test_witness_copy_engine : let s := copy0 (fun k => { k with started := true })
    let big := copy0 (fun k => { k with started := true, total := 4096, dst := [.scr 0 8192] })
    let g := copy0 (fun k => { k with dst := [.glob 0x20000] })
    (∀ j < 4, (s.core 0).cqMinOf j ≤ (s.core 0).cqCapOf j ∧ (s.core 0).cqCapOf j ≤ 128 ∧ 2048 ≤ (s.core 0).cqQuantOf j) ∧
    (s.core 0).cqMinOf 0 + (s.core 0).cqMinOf 1 + (s.core 0).cqMinOf 2 + (s.core 0).cqMinOf 3 ≤ 128 ∧
    (match g.copyAt 0 5 with
      | some k => !k.started && k.page.isNone && !g.storesDue 0 k.after && k.recv.isEmpty && k.stg.isNone && !g.inMove k.ten 0x20000 k.total
        && k.kind == .lin && g.holds.isEmpty
        && !g.engWaits (engLines g (k.who 0) [(0x20000, k.total)]) && g.canHold (opKey 0 0 5) (engLines g (k.who 0) [(0x20000, k.total)])
      | none => false) = true ∧
    (∀ t ∈ [s, big], (match (t.core 0).chunkNext with
      | some (k, _) => decide (t.copyAt 0 k.id = some k) && k.kind == .lin && k.tray.isNone && k.type != 2 && copyFits t k (min k.total 2048)
      | none => false) = true) ∧
    (g.core 0).chunkNext.isNone ∧ (s.core 0).scrEcc = {} ∧
    (match (copy0 (fun k => { k with type := 2, recv := [{ core := 0, panel := 0 }] })).copyAt 0 5 with
      | some k => k.recv.all (fun r => !r.reached)
      | none => false) = true := by decide +kernel

/-! ### The matrix engine -/

/-- As `stB`, with what else a form asks of the core. -/
def stX (v : Word) (o : Op) (f : Core → Core := id) : State := stB (readyFor o v) { exp := 4 } f

/-- A descriptor of one step with B in tray 1, format F16. -/
def desc0 : Word := 0x8001

/-- Core 1 holds the other panel of the group, with trays 0 to 2 and region 0. -/
def paired (s : State) : State := { s.setCore 1 { panels := ⟨[(0, { launch := 0x100000007, ten := 1, group := 0, member := 1 })]⟩
                                                  trayOwn := ⟨[(0, 0), (1, 0), (2, 0)]⟩, regOwn := ⟨[(0, 0)]⟩ } with
  launches := s.launches.map (fun l => { l with group := 2 }) }

theorem test_witness_matrix_forms : let mm (md : BitVec 2 := 0) := mk 0x1C3 false .f16x2 md 0x13
    let s (o : Op) : State := stX desc0 o
    let f (o : Op) : State := stX desc0 o (fun c => { c with regS32 := ⟨[(0, true)]⟩ })
    let a (o : Op) : State := stB (cells (cells (readyFor o) 1 (full .n64 0x20000) (full .n64 0)) 2 (full .n64 128) (full .n64 0))
      { exp := 4 } (fun c => { c with regS32 := ⟨[(0, true)]⟩ })
    (starts (.claim { ex 0x1C0 with imm := 3 + 64 }) s && starts (.claim { ex 0x1C0 with imm := 3 + 64 * 60, mod := 1 }) s &&
      starts (.release { ex 0x1C1 with imm := 2 }) s && starts (.release { ex 0x1C1 with mod := 1 }) s &&
      starts (.release { ex 0x1C1 with imm := 64 * 63 }) s && starts (inst 0x1C7) s &&
      passes (inst 0x1C2) s (fun o => o.srcs) noDst narrow && passes (.accrd { ex 0x1C5 with a := 0 }) f (fun o => o.srcs) toDst narrow &&
      passes (inst 0x1C6) f (fun o => o.srcs) noDst narrow && passes (.mma (mm)) s (fun o => o.srcs) noDst narrow &&
      passes (.mma (mm 1)) (fun o => paired (s o)) (fun o => o.srcs) noDst narrow && passes (inst 0x1C4) s (fun o => o.srcs) noDst narrow &&
      passes (inst 0x1C8) a (fun o => o.srcs) noDst narrow) = true ∧
    descBad desc0 .f16x2 false false = false ∧ descBad desc0 .f16x2 true false = false ∧ descBad (desc0 + 2 ^ 34) .f16x2 false false = true := by
  decide +kernel

theorem test_witness_matrix_states : let s := stX desc0 ⟨0x1C3, 3, mk 0x1C3 false .f16x2 0 0x13⟩
    (∀ t ∈ [0, 1, 2], s.cc.trayOwn.get? t = some 0 ∧ s.trayBusy 0 t = false) ∧ s.cc.regOwn.get? 0 = some 0 ∧
    s.regInUse 0 0 = false ∧ s.cc.regTag 0 = .f32 ∧ s.cc.accEcc = {} ∧ s.cc.trayOwn.get? 3 = none ∧ s.cc.trayOwn.get? 63 = none ∧
    (∀ t ∈ [60, 61, 62, 63], s.cc.regOwn.get? t = none) ∧ (s.panel.bar 3).issue 1 ≠ none ∧ s.cc.mxq.length < 8 ∧ s.slaving 0 = [] ∧
    s.cc.psOwner = none ∧ (∀ l ∈ [0, 1], 0 + 4 * l + 4 ≤ 4096) ∧ (paired s).farPanel = some (1, 0) ∧ (paired s).cur.core % 2 = 0 ∧
    ((paired s).core 1).regTag 0 = .f32 := by decide +kernel

/-- A queue of one operation: an `mma` of one step, or an `accst` to scratchpad. -/
def engine (o : MxOp → MxOp) (f : Core → Core := id) : State := stB bolt0 { exp := 4 } (fun c => f { c with mxq := [o
  { id := 5, kind := 0, afmt := .f16x2, desc := desc0, ta := 0, region := 0, panel := 0, launch := 0x100000007, ten := 1, after := 0 }] })

theorem test_witness_matrix_engine : let s := engine id
    let a := engine (fun o => { o with kind := 2, afmt := .s32, dst := .scr 0 8192, pitch := 128, held := true })
    let w := engine (fun o => { o with kind := 2, afmt := .s32, dst := .scr 0 8192, pitch := 128 })
    let g := engine (fun o => { o with started := true })
    let b := engine (fun o => { o with started := true }) (fun c => { c with trayEcc := ⟨[(0, 3)]⟩ })
    let r := engine (fun o => { o with kind := 2, afmt := .s32, dst := .scr 0 8192, pitch := 128, started := true, step := 31 })
    let e := engine (fun o => { o with kind := 2, afmt := .s32, dst := .glob 0x20000, pitch := 128, started := true, step := 3, page := some 0x20000 })
    ((e.core 0).mxq.find? (fun o => o.page.isSome)).isSome ∧ (e.core 0).stepping = none ∧
    (g.core 0).mxq.find? (fun o => o.page.isSome) = none ∧
    ((w.core 0).mxq.findSome? (MxOp.takes w 0)).isSome ∧ (∀ t ∈ [s, a, g], ((t.core 0).mxq.findSome? (MxOp.takes t 0)).isNone) ∧
    (s.core 0).nextMx = (s.core 0).mxq.head? ∧ (∀ o ∈ (s.core 0).mxq, o.kind ≠ 2 ∧ canStartMx s 0 o = true ∧ o.pb = false) ∧
    (a.core 0).nextMx = (a.core 0).mxq.head? ∧ (∀ o ∈ (a.core 0).mxq, o.kind = 2 ∧ canStartMx a 0 o = true ∧ o.pb = false) ∧
    (g.core 0).stepping = (g.core 0).mxq.head? ∧ (∀ o ∈ (g.core 0).mxq, stepBad g 0 o = false ∧ o.ck = false ∧ o.pair = false) ∧
    (g.core 0).trayEcc = {} ∧ (g.core 0).accEcc = {} ∧ (b.core 0).stepping = (b.core 0).mxq.head? ∧
    (∀ o ∈ (b.core 0).mxq, stepBad b 0 o = true ∧ o.ck = false) ∧
    (r.core 0).mxq.find? (fun o => o.kind == 2 && o.started && o.page.isNone && decide (o.step < 32)) = (r.core 0).mxq.head? ∧
    ((s.core 0).stepping).isNone ∧ ((g.core 0).nextMx).isNone ∧
    (∀ o ∈ ((engine (fun o => { o with started := true, step := 1 })).core 0).mxq, o.over = true) := by decide +kernel

/-! ### Relocation -/

/-- Tables that map 0x20000 and tiles 0 to 3 of an arena at 1 MiB, each as a movable page at its address plus 0x20000. -/
def tables : Mem := [(0x100000, 0x101001), (0x101000, 0x102001), (0x102000, 0x103001), (0x103000, 0x104001), (0x104000 + 16, 0x4020F),
    (0x104000 + 128, 0x12020F), (0x104000 + 136, 0x13020F), (0x104000 + 144, 0x14020F), (0x104000 + 152, 0x15020F)].foldl
  (fun m e => m.writeN e.1 8 e.2) []

/-- Tenancy 1 with those tables, its tack table at 0x200000 with some words. -/
def mapped (s : State) (tacks : List (Nat × Nat) := []) : State := { s with
  tens := ⟨[(1, { en := true, rootEn := true, root := 0x100000, arenaBase := 1, tiles := 4, ttab := 0x200000 })]⟩
  mem := tacks.foldl (fun m e => m.writeN (0x200000 + 16 * e.1) 8 e.2) tables }

/-- A row of an `accst` to global memory, where its page is present and where it is missing. -/
theorem test_witness_accst_rows :
    let g := engine (fun o => { o with kind := 2, afmt := .s32, dst := .glob 0x20000, pitch := 128, held := true, started := true, step := 31, rows := List.replicate 1024 7 })
    let u := engine (fun o => { o with kind := 2, afmt := .s32, dst := .glob 0x20000, pitch := 128 })
    let row (s : State) : Option (Option EngStop) := ((s.core 0).mxq.find? (fun o => o.kind == 2 && o.started && o.page.isNone &&
        decide (o.step < 32))).bind (fun o => (s.register (opKey 1 0 5) (o.who 0) (accstRows o 31)).map (fun r =>
      match engWrite r (o.who 0) (0x20000 + 31 * 128) (rowData o 31) with
        | .ok _ => none
        | .error e => some e))
    row (mapped g) = some none ∧ row g = some (some (.page (0x20000 + 31 * 128))) ∧
    (((mapped u).core 0).mxq.findSome? (MxOp.takes (mapped u) 0)).isSome ∧
    (((mapped g).core 0).mxq.findSome? (MxOp.takes (mapped g) 0)).isNone := by decide +kernel

/-- A page of the arena in the TLB. -/
def tilePage (k : Nat) : TlbEnt :=
  { ten := 1, base := 0x100000 + 65536 * k, leaf := { pa := 0x120000 + 65536 * k, log := 16, acc := false, tck := false, mov := true, x := false, w := true, rd := true } }

def stR (b : Bolt) (tacks : List (Nat × Nat) := []) : State :=
  mapped (stB b { exp := 4 } (fun c => { c with tlb := [page 0x20000, tilePage 0, tilePage 1, tilePage 2, tilePage 3] })) tacks

/-- Lanes 0 and 1 move tile 0 to 1 and tile 2 to 3. -/
def moves : Bolt := cells (cells bolt0 1 (full .n64 0x100000) (full .n64 0x120000)) 2 (full .n64 0x110000) (full .n64 0x130000)

theorem test_witness_relocate : let x := { ex 0x1D0 with imm := 0x13 + 256 * 4095 }
    let s := stR moves
    let tile (l : Nat) : Nat := 2 * l
    passes (.relocate x) (fun _ => s) (fun o => o.srcs) noDst narrow = true ∧
      starts (inst 0x1D0) (fun _ => s.modSw (fun w => { w with phase := 11, hold := 5 })) = true ∧ s.sw.bad = [] ∧ s.sw.phase ≠ 11 ∧
    (s.tenOf 1).rootEn = true ∧ s.bolt.staged = false ∧ s.actLanes x = [0, 1] ∧
    (∀ l ∈ s.actLanes x, s.tileOf 1 (0x100000 + 65536 * tile l) = some (tile l) ∧
      s.tileOf 1 (0x100000 + 65536 * (tile l + 1)) = some (tile l + 1) ∧
      (match s.cc.tlbGet 1 (0x100000 + 65536 * tile l), s.cc.tlbGet 1 (0x100000 + 65536 * (tile l + 1)) with
        | some e, some f => e.leaf.rd && e.leaf.movable && f.leaf.w && f.leaf.movable && decide (e.leaf.pa + 65536 ≤ Config.hbmBytes) &&
            decide (f.leaf.pa + 65536 ≤ Config.hbmBytes)
        | _, _ => false) = true ∧
      (∀ t ∈ [tile l, tile l + 1], tackPin (s.tack 1 t) = 0 ∧ tackT (s.tack 1 t) = false ∧ tackM (s.tack 1 t) = false ∧ tackIn (s.tack 1 t) = 0)) ∧
    (s.panel.bar 3).issue 2 ≠ none ∧ (s.relOn 0).length + 2 ≤ 40 ∧ s.relFree 0 ≠ 0 ∧ s.rel = [] := by decide +kernel

/-- Tile 0 is pinned once and not tacked. -/
theorem test_witness_relocation_forms :
    let b := cells (holding [(rg true 1, full .n64 0x20000), (rg true 2, full .n32 2)]) 1 (full .n64 0x100000) (full .n64 0xFF00000000000010)
    let s := stR { b with pins := [(0, 1)] } [(0, 1)]
    let va (l : Nat) : Word := (if l = 0 then 0x100000 else 0xFF00000000000010);
    (passes (inst 0x1D1) (fun _ => s) (fun o => o.srcs) toDst narrow && passes (inst 0x1D2) (fun _ => s) (fun o => o.srcs) toDst wide &&
      passes (inst 0x1D3) (fun _ => s) (fun o => o.srcs) toDst wide && passes (inst 0x1D4) (fun _ => s) (fun o => o.srcs) noDst wide) = true ∧
    s.movableAt 1 0x100000 = some 0 ∧ tackM (s.tack 1 0) = false ∧ tackT (s.tack 1 0) = false ∧ tackPin (s.tack 1 0) = 1 ∧
    s.bolt.staged = false ∧ s.relFree 0 ≠ 0 ∧ s.actLanes (ex 0x1D1) ≠ [] ∧ (∀ l ∈ s.actLanes (ex 0x1D3), (s.txAt l).act = false) ∧
    (reachedAt s 0 (va 0) 1 .r).isSome ∧ banked s 1 (va 1) 1 = some (0, 8192 + 16) ∧
    (pinAll false [(0, 0)] s).2 = [] ∧ (pinAll true [(0, 0), (1, 0)] s).2 = [] ∧ (pinAll false [(0, 0), (1, 0)] s).2 = [1] ∧
    (pinAll true [(0, 0), (1, 0)] (stR b [(0, 65534)])).2 = [1] ∧
    (let c := stR b [(0, 2 ^ 63 + 2 ^ 32), (1, 2 ^ 63)];
      ((c.fill 1 0x100000).bind (·.tack)) = some 1 ∧ c.tileAddr 1 1 = 0x110000 ∧ ((c.fill 1 0x110000).bind (·.tack)) = some 0 ∧
        c.tileAddr 1 0 = 0x100000 ∧ (c.movableAt 1 0x110000).isSome) ∧
    (let c := stR b [(0, 2 ^ 63 + 2 ^ 32)]; ((c.fill 1 0x100000).bind (·.tack)) = some 1 ∧ ((c.fill 1 0x110000).bind (·.tack)) = none) ∧
    (match s.fill 1 0x100000 with | some e => e.tack.isNone | none => false) = true := by decide +kernel

/-- A move of tile 0 to tile 1, or a sweep of two words at 0xFF00 0000 0000 0010 of which the first points into tile 0. -/
def relState (o : RelOp → RelOp) (tacks : List (Nat × Nat) := []) : State := { stR bolt0 tacks with rel := [o
  { id := 5, die := 0, core := 0, sweep := false, ten := 1, launch := 0x100000007, panel := 0, x := 0, y := 1, holders := 4095, after := 0 }] }

theorem test_witness_relocation_engine : let s := relState id [(0, 2 ^ 62), (1, 2 ^ 62)]
    let c := relState (fun o => { o with stage := 1, done := 511, yheld := true }) [(0, 2 ^ 62), (1, 2 ^ 62)]
    let w := (relState (fun o => { o with sweep := true, arr := .scr 0 8208, n := 2 }) [(0, 2 ^ 63 + 2 ^ 32)]).modCore 0 (fun k => { k with
      scr := Mem.writeN [] 8208 8 0x100010 })
    (match s.relAt 5 with
      | some o => !o.sweep && o.stage == 0 && o.page.isNone && s.relRuns o && !s.storesDue o.core o.after && isOk 0x120000 (s.tilePa 1 0 .r) &&
          isOk 0x130000 (s.tilePa 1 1 .w) && s.cores.vals.all (fun c => c.bolts.vals.all (fun b => b.tx.ents.isEmpty)) && s.holds.isEmpty &&
          !(linesOf 0x130000 65536).any s.taken && s.canHold o.keyY (linesOf 0x130000 65536)
      | none => false) = true ∧
    (match c.relAt 5 with
      | some o => o.done + 1 == 512 && o.x != o.y && o.yheld && o.y < 2 ^ 20 && o.holders < 2 ^ 12 && isOk 0x120000 (c.tilePa 1 0 .r) && isOk 0x130000 (c.tilePa 1 1 .w) && c.ecc.ents.isEmpty
      | none => false) = true ∧
    (match w.relAt 5 with
      | some o => o.sweep && o.page.isNone && w.relRuns o && decide ((w.core 0).scr.readN (8208 + 8 * o.done) 8 = 0x100010)
      | none => false) = true ∧
    w.tileOf 1 0x100010 = some 0 ∧ tackT (w.tack 1 0) = true ∧ followTacks w 1 4 0x100010 = some 0x110010 ∧
    tacksBad w 1 4 0x100010 = false := by decide +kernel

/-- A sweep of two words at 0x20000, the first of which points into tile 0, tacked to tile 1, tacked to itself, or not. -/
theorem test_witness_global_sweep :
    let g (t : List (Nat × Nat)) : State := let s := relState (fun o => { o with sweep := true, arr := .glob 0x20000, n := 2 }) t
      { s with mem := s.mem.writeN 0x40000 8 0x100010 }
    let w := g [(0, 2 ^ 63 + 2 ^ 32)]
    let reads (s : State) : Option (Nat × Option Bool) := (s.relAt 5).bind (fun o => match engRead s o.who 0x20000 8 with
      | .ok r => some (ofLE r.1, (followTacks s 1 4 (ofLE r.1)).map (fun v => match engWrite r.2 o.who 0x20000 (toLE v 8) with
        | .ok _ => true
        | .error _ => false))
      | .error _ => none)
    reads w = some (0x100010, some true) ∧ reads (g []) = some (0x100010, some true) ∧ reads (g [(0, 2 ^ 63)]) = some (0x100010, none) ∧
    tacksBad w 1 4 0x100010 = false ∧ tacksBad { w with ecc := ⟨[(0x200010, 3)]⟩ } 1 4 0x100010 = true ∧
    reads { w with ecc := ⟨[(0x200010, 3)]⟩ } = some (0x100010, some true) ∧
    tackT ((g []).tack 1 0) = false ∧ tackT (w.tack 1 0) = true ∧ w.tileOf 1 0x100010 = some 0 ∧
    (w.relAt 5).any (fun o => o.sweep && o.page.isNone && w.relRuns o && !w.storesDue o.core o.after) = true := by decide +kernel

/-- A store that waits at a line of a tile while the tile's new page is missing waits on, and is placed once it is there (R329). -/
theorem test_moved_store_waits_for_its_page :
    let p : PStore := { id := 0, pa := 0x120010, va := 0x100010, bytes := [1], ten := 1 }
    let s := stR bolt0 [(0, 2 ^ 63 + 2 ^ 32)]
    let u := { s with mem := s.mem.writeN (0x104000 + 136) 8 0 }
    (p.placed u).again = true ∧ (p.placed u).pa = 0x120010 ∧ ((p.placed u).placed s).again = false ∧
    ((p.placed u).placed s).pa = 0x130010 := by decide +kernel

/-! ### Collectives -/

/-- A domain of two devices, its one tree the root's link 2 to the other's link 3. -/
def dom0 (f : Dom → Dom := id) : Dom := f { en := true, ten := 1, size := 1, trees := [[⟨0, 2, 1, 3⟩]], current := true
                                            links := ⟨[(2, { up := true, en := true, peerdev := 1, peerlink := 3 })]⟩ }
/-- An addition of 64 bytes from 0x20000 to the arena's first bytes. -/
def coll0 (f : CollOp → CollOp := id) : CollOp := f { seq := 0, hdr := { version := 0, seq := 0, mode := 0, op := 0, fmt := .s32, rnd := .rne, len := 64, ch := 0 }
                                                      dst := 0x100000, src := 0x20000, core := 0, panel := 0, launch := 0x100000007, bar := none, wrec := false, after := 0 }
def stC (b : Bolt) (f : Dom → Dom := id) (ops : List CollOp := []) : State := { stR b with dom := { dom0 f with ops := ops } }

theorem test_witness_collective_forms : let x := { ex 0x1D8 with imm := 0x13 }
    let s := stC (((holding [(rg true 3, full .n64 4096)]).setCell (regKey false (rg true 1) 0) (full .n64 0x100000)).setCell
      (regKey false (rg true 2) 0) (full .n64 0x20000))
    let q := stC (holding [(rg true 1, full .n32 34)])
    (passes (.coll x) (fun _ => s) (fun o => o.srcs) noDst narrow && passes (inst 0x1D9) (fun _ => q) (fun o => o.srcs) toDst wide &&
      passes (inst 0x1DA) (fun _ => q) (fun o => o.srcs) toDst wide && passes (inst 0x1DB) (fun _ => q) (fun o => o.srcs) toDst wide) = true ∧
    s.actLanes x ≠ [] ∧ s.dom.en = true ∧ s.ten = s.dom.ten ∧ s.dom.abort = false ∧ s.dom.ops.length < 4 ∧ (s.panel.bar 3).issue 1 ≠ none ∧
    s.bolt.staged = false ∧ 34 / 32 ≤ q.dom.size ∧ (q.dom.entry 0 2).isSome ∧ q.dom.trees.length ≤ 8 ∧
    (let tree := q.dom.trees.getD 0 [];
      tree.find? (fun e => e.v == 1) = some ⟨0, 2, 1, 3⟩ ∧ tree.find? (fun e => e.v == 0) = none ∧ (∀ e ∈ tree, e.i < 18 ∧ e.k < 18) ∧
      q.dom.trees.getD 2 [] = [] ∧ q.dom.trees.length = 1) ∧
    q.dom.entry 0 18 = none ∧ Config.links ≤ 18 ∧ q.dom.entry 1 0 = none ∧ q.dom.size < 2 ∧
    (∀ o ∈ q.dom.ops ++ q.dom.aborted, o.seq ≠ 34) ∧
    ((stC bolt0 id [coll0]).dom.ops ++ (stC bolt0 id [coll0]).dom.aborted).find? (fun o => o.seq == 0) = some coll0 ∧
    coll0.finals.length < 2 ^ 16 ∧ coll0.state < 16 ∧ coll0.status < 256 := by decide +kernel

theorem test_witness_link_events : let s := stC bolt0
    let o := stC bolt0 id [coll0]
    let u := stC bolt0 (fun d => { d with current := false, rows := ⟨[(1, List.replicate 18 0)]⟩ })
    s.dom.en = true ∧ (s.dom.link 2).en = true ∧ (s.dom.link 2).fail = false ∧ (s.dom.link 2).up = true ∧ (s.dom.link 2).replays.getD 7 0 ≠ 16 ∧
    (({ s with dom := { s.dom with links := ⟨[(2, { up := true, en := true, replays := ⟨[(7, 16)]⟩ })]⟩ } } : State).dom.link 2).replays.getD 7 0 = 16 ∧
    s.dom.epoch < 1 ∧ s.dom.ops = [] ∧ s.dom.past = [] ∧ o.dom.ops ≠ [] ∧ u.dom.current = false ∧ (∀ v ≤ u.dom.size, (u.dom.row v).isSome) ∧
    u.dom.changed.toNat + u.dom.settle ≤ ({ u with hb := 0x400 } : State).hb.toNat ∧ 2 < Config.links := by decide +kernel

theorem test_witness_collective_start : let s := stC bolt0 (fun d => { d with current := false }) [coll0]
    s.collAt 0 = some coll0 ∧ s.dom.early = [] ∧ coll0.started = false ∧ s.storesDue 0 0 = false ∧
    s.holds = [] ∧ s.inMove 1 0x100000 64 = false ∧
    s.engWaits (engLines s (coll0.who s.dom) (coll0.dstOf s.dom)) = false ∧ s.canHold coll0.key (engLines s (coll0.who s.dom) (coll0.dstOf s.dom)) = true := by decide +kernel

/-- The last partial of a chunk at the root, and its result at a leaf. -/
theorem test_witness_collective_messages : let o := coll0 (fun o => { o with started := true })
    let held (s : State) : State := { s with holds := [(0x120000, o.key)] }
    let s := held (stC bolt0 id [o])
    let p := coll0 (fun o => { o with started := true, notch := ⟨[(0, 1)]⟩ })
    let t := held (stC bolt0 (fun d => { d with self := 1 }) [p])
    s.collAt 0 = some o ∧ t.collAt 0 = some p ∧ o.state = 1 ∧ o.page = none ∧ o.parts = [] ∧ agrees o.hdr o.hdr = true ∧ s.dom.version = 0 ∧
    childrenOf [⟨0, 2, 1, 3⟩] 0 = [2] ∧ childrenOf [⟨0, 2, 1, 3⟩] 1 = [] ∧ o.notch.getD 0 0 = 0 ∧ p.notch.getD 0 0 = 1 ∧
    o.hdr.len ≤ o.chunk ∧ okB (engRead s (o.who s.dom) 0x20000 64) = true ∧
    (∀ u ∈ [s, t], (match u.translateNow u.dom.ten 0x100000 .w with
      | .ok pa _ _ _ => decide (pa + 64 ≤ Config.hbmBytes) && !u.engWaits (linesOf pa 64) && (linesOf pa 64).all (fun l => u.holds.contains (l, o.key))
      | _ => false) = true) := by decide +kernel

/-- An operation that exchanges, at a device with two children, one of which has not been heard; one whose subtree is done. -/
theorem test_witness_collective_ends : let o := coll0 (fun o => { o with state := 3 })
    let s := stC bolt0 (fun d => { d with trees := [[⟨0, 2, 1, 3⟩, ⟨0, 4, 2, 3⟩]] }) [o]
    let q := coll0 (fun o => { o with doneUp := true, wrec := true })
    s.collAt 0 = some o ∧ o.state = 3 ∧ 4 ∈ childrenOf (s.dom.trees.headD []) 0 ∧ (∀ e ∈ o.exch, e.1 ≠ 4) ∧ o.started = false ∧
    (stC bolt0 id [q]).collAt 0 = some q ∧ q.doneUp = true ∧ (1 : BitVec 32) ≠ s.dom.version ∧
    (∀ f ∈ [[], [(0, 2)]], (s.dom.learn 0 f).isNone = f.isEmpty) ∧ s.dom.epoch < 1 ∧ s.dom.self ≤ s.dom.size ∧ (s.dom.link 2).en = true ∧
    (s.dom.link 2).fail = false ∧ s.dom.en = true := by decide +kernel

/-! ### Work -/

def obj0 (f : Obj → Obj) : State := let s := st0 bolt0; { s with objs := s.objs.map f }

theorem test_witness_objects : let s := obj0 id
    let u := obj0 (fun o => { o with out := 1 })
    s.obj 2 0x100000009 = none ∧ (s.obj 3 0x100000004).isSome ∧ (s.obj 2 0x100000005).isSome ∧
    (match s.obj 2 0x100000005, u.obj 2 0x100000005 with
      | some o, some p => !o.sealed && decide (2 ≤ o.out) && !p.sealed && p.out == 1 && !p.complete
      | _, _ => false) = true := by decide +kernel

/-- A panel whose bolts have left, the last of its launch. -/
def donePanel (n : Nat) : State := let s := st0 { bolt0 with left := true }
  { s.modCore 0 (fun c => { c with bolts := {}, panels := ⟨[(0, { launch := 0x100000007, ten := 1, out := 0 })]⟩ }) with
    launches := s.launches.map (fun l => { l with out := n }) }

theorem test_witness_panels : (donePanel 1).panelDone 0 0 = true ∧ (st0 bolt0).panelDone 0 0 = false ∧
    (∀ l ∈ (donePanel 2).launches, 2 ≤ l.out) ∧ (∀ l ∈ (st0 bolt0).launches, (st0 bolt0).canSettle ((st0 bolt0).launchOf l.id) = false) ∧
    (∀ l ∈ (donePanel 1).launches, l.id = ((donePanel 1).panelAt 0 0).launch ∧ l.out = 1 ∧ l.sent = l.groups ∧ l.complete = false ∧
      l.cancelled = false ∧ l.requeue = false ∧ l.stages = false ∧ ((donePanel 1).panelAt 0 0).asCore = none ∧
      l.ended.contains ((donePanel 1).panelAt 0 0).at = false ∧
      (freePanel (donePanel 1) 0 0).launchBusy l.id = false) ∧
    ((st0 bolt0 (fun c => { c with psRegen := true })).core 0).psRegen = true := by decide +kernel

theorem test_witness_hcnt_cancel : let s := st0 bolt0
    (passes (inst 0x1E7) (fun _ => s) noSrc toDst wide && starts (.cancel { ex 0x1E6 with imm := 2 }) (fun _ => s) true &&
      starts (inst 0x1E6) (fun _ => s) true) = true ∧ s.nextBit s.ten s.sw.pc (s.nextPc 3) = true ∧ s.gActive (ex 0x1E6) = true ∧
    s.dry (ex 0x1E6) = false ∧ (s.obj 2 (s.ancestor 2)).any (fun o => o.complete) = false ∧ (s.obj 2 (s.ancestor 2)).isSome := by
  decide +kernel

/-- A launch record of one panel of one bolt of 8 lanes, with `nx` panels in x, at 0x40000, and its descriptor at 0x20000. -/
def record (nx : Nat) : List Byte := toLE 0x20000 8 ++ toLE 0x1000 8 ++ toLE 0 8 ++ toLE 0x100000009 8 ++ toLE 0 8 ++ toLE nx 4 ++ toLE 1 4
  ++ toLE 1 4 ++ toLE 0 2 ++ [1, 0, 0, 0, 0, 0, 96, 64, 32, 0] ++ toLE 4096 4 ++ toLE 0 4 ++ toLE 0 8 ++ toLE 0 8 ++ toLE 0x100000005 8
  ++ toLE 0x100000004 8 ++ toLE 0x100000003 8 ++ toLE 0 16
def descriptor : List Byte := toLE 0x1000 8 ++ toLE 0 8 ++ toLE 8 2 ++ [0, 0] ++ toLE 8 2 ++ toLE 8 2 ++ toLE 8 4 ++ toLE 8 4 ++ toLE 0 8 ++ toLE 1 8 ++ toLE 0 16
def queueState (nx : Nat) : State := let s := mapped { (State.reset) with codes := [code] }
  { s with mem := (s.mem.writeBytes 0x40000 descriptor).writeBytes 0x300000 (record nx)
           tens := s.tens.set 1 { s.tenOf 1 with weight := 16 }
           queues := ⟨[(4, { addr := 0x300000, log2n := 4, cons := 0, prod := 1 })]⟩
           objs := [{ level := 2, id := 0x100000005, parent := 0x100000004, out := 2 }] }

theorem test_witness_launch_records : let s := queueState 1
    let r := s.mem.bytes 0x300000 128
    let d := s.mem.bytes 0x40000 64
    let l := launchOfRecord 1 0 r d
    (s.queue 1 0).holds = true ∧ (s.tenOf 1).en = true ∧ (s.tenOf 1).busy = false ∧ (s.dispatching 1 0).isNone ∧
    (match engRead s { core := 0, ten := 1, launch := 0 } 0x20000 64 with
      | .ok e => e.1 == d
      | .error _ => false) = true ∧
    (match engRead { s with ecc := ⟨[(0x300008, 3)]⟩ } { core := 0, ten := 1, launch := 0 } 0x20000 64 with
      | .ok e => (wordsOf 0x300000 128).any e.2.l2Bad
      | .error _ => false) = true ∧ (wordsOf 0x300000 128).any s.l2Bad = false ∧ refused 0 r d l = false ∧ s.cancelledAbove l = false ∧
    s.launches = [] ∧ refused 0 (record 0) d (launchOfRecord 1 0 (record 0) d) = true ∧ (s.queue 1 0).prod ≤ 16 ∧
    (16 : Nat) ≤ (s.queue 1 0).cons + 2 ^ (s.queue 1 0).log2n ∧ (s.queue 1 0).cons + 2 ^ (s.queue 1 0).log2n < 17 := by decide +kernel

/-- The launch of that record, with nothing dispatched. -/
def waitingLaunch : State := let s := queueState 1
  { s with launches := [launchOfRecord 1 0 (record 1) descriptor], queues := ⟨[(4, { addr := 0x300000, log2n := 4, cons := 1, prod := 1 })]⟩ }

theorem test_witness_admission : let s := waitingLaunch
    (match s.dispatching 1 0 with
      | some l => decide (s.launchOf l.id = l) && l.group == 0 && !l.twins && decide (l.nbolt * l.stitches ≤ 16) && l.nbolt == 1 &&
          ((s.modTen 1 (fun t => { t with deficit := 16 })).groupPlaces l (l.groupAt l.sent)).any (fun ps => ps.length == 1)
      | none => false) = true ∧
    (s.readyRestore 1 0).isNone ∧ s.loaded 1 0 = none ∧ (s.tenOf 1).en = true ∧ (s.tenOf 1).busy = false ∧ (s.tenOf 1).weight = 16 ∧ s.classOf 1 = some 0 ∧
    s.visiting 1 = false ∧ (s.tenOf 1).deficit = 0 := by decide +kernel

/-! ### System -/

/-- Swatch 0 of the bolt is parked, or held back, on a record of this cause at 0x1000. -/
def parkedOn (st : Wait) (c : Nat) (tr : Trap := { vec := 0x1080 }) : State := st0 { bolt0 with
  trap := tr, sw := ⟨[(0, { mask := 3, pc := 0x1000, st := st, frec := some { cause := c, pc := 0x1000 }, vec := tr.vec })]⟩ }

theorem test_witness_fault_answers : let at_ (s : State) : Swatch := (s.boltAt 0 0).sw.getD 0 {}
    (at_ (st0 bolt0)).st ≠ .parked ∧ (at_ (parkedOn .parked 0x0B)).st = .parked ∧
    (at_ (parkedOn .parked 0x0B)).frec = some { cause := 0x0B, pc := 0x1000 } ∧
    (parkedOn .parked 0x0B).nextBit 1 0x1000 ((parkedOn .parked 0x0B).afterInstr 1 0x1000) = true ∧
    ({ parkedOn .parked 0x0B with codes := [{ code with starts := [] }] } : State).nextBit 1 0x1000
      (({ parkedOn .parked 0x0B with codes := [{ code with starts := [] }] } : State).afterInstr 1 0x1000) = false ∧
    ((parkedOn .parked 0x0B { vec := 0x1080, act := true }).boltAt 0 0).trap.act = true ∧ (at_ (parkedOn .parked 0x0B)).hand = false ∧
    ((parkedOn .parked 0x0B).boltAt 0 0).trap.act = false ∧ (parkedOn .parked 0x0B).startBit 1 0x1080 = true ∧ (at_ (parkedOn .parked 0x0B)).vec = 0x1080 ∧ (at_ (parkedOn .parked 0x0B {})).vec = 0 ∧
    ({ parkedOn .parked 0x0B with codes := [] } : State).startBit 1 0x1080 = false ∧
    (at_ (parkedOn .deferred 0x03)).st = .deferred := by decide +kernel

/-- A bolt that is privileged, and one that is not, at HB.NOW, UB.REG and the pattern store's owner. -/
theorem test_witness_special_registers : let priv (o : Op) : State := st0 { readyFor o 0x1080 with priv := true }
    let user (o : Op) : State := st0 (readyFor o 0x1080)
    let g (i : Nat) (t : Tag) : Ext := mk 0x1E2 false t 0 (BitVec.ofNat 22 i)
    let w (i : Nat) : Ext := mk 0x1E3 true .bits32 0 (BitVec.ofNat 22 i)
    ([(0x000, Tag.bits64), (0x001, .n64), (0x017, .n32), (0x100, .n32), (0x121, .n64)].all (fun p =>
        (sysTag p.1).any (fun t => passes (.getsp (g p.1 t)) priv noSrc toDst w64F)) &&
      [0x000, 0x010, 0x011, 0x013, 0x100, 0x120].all (fun i => passes (.setsp (w i)) priv (fun o => o.srcs) noDst narrow) &&
      (sysTag 0x100).any (fun t => starts (.getsp (g 0x100 t)) user) && starts (.setsp (w 0x100)) user) = true ∧
    (priv ⟨0x1E3, 3, w 0⟩).sw.phase = 0 ∧ (priv ⟨0x1E3, 3, w 0⟩).dlv = [] ∧ (priv ⟨0x1E3, 3, w 0⟩).bolt.flagLog = [] ∧ (priv ⟨0x1E3, 3, w 0⟩).actLanes (w 0) = [0] ∧
    (priv ⟨0x1E3, 3, w 0⟩).bolt.priv = true ∧ (user ⟨0x1E3, 3, w 0⟩).bolt.priv = false ∧
    (user ⟨0x1E2, 3, g 0x100 .n32⟩).actLanes (g 0x100 .n32) ≠ [] := by decide +kernel

/-- A service that ends the launch, and one that answers. -/
theorem test_witness_services : let s (o : Op) : State := st0 (readyFor o)
    let x := ex 0x1E0
    let u (c : Nat) : State := { st0 (waiting .empty) with services := [{ dlv := 9, code := c, arg := 0, ten := 1, launch := 0x100000007 }]
                                                           dlv := [dlv9 (.await .n64)], serial := 10 }
    passes (.svc x) s (fun o => o.srcs) toDst wide = true ∧
    (let v := s ⟨0x1E0, 3, x⟩; v.liveLanes x (v.actLanes x) = v.actLanes x ∧ v.actLanes x ≠ [] ∧ v.sw.phase = 0 ∧ v.loadsDue 0 = false ∧ v.cc.stq = []) ∧
    ((u 4).services.find? (fun q => q.dlv == 9)).isSome ∧ svcError 0 = false ∧
    (u 3).dlv.find? (fun d => d.id == 9) = some (dlv9 (.await .n64)) ∧ (((u 3).boltAt 0 0).regs.getD 1024 {}).st = .empty ∧
    (((u 3).boltAt 0 0).regs.getD 1024 {}).pend = 9 ∧ (((u 3).boltAt 0 0).regs.getD 1024 {}).flip = 0 := by decide +kernel

/-- A `.lko` of one `nop`, at 0x20000, that is placed at 0x20800, in a page that is executable besides. -/
def lko : List Byte := toLE 0x004F4B4C 4 ++ toLE 1 2 ++ toLE 4 2 ++ toLE 64 8 ++ toLE 128 8 ++ toLE 0 32 ++ toLE 1 8
  ++ toLE 136 8 ++ toLE 4 8 ++ toLE 0 48 ++ toLE 1 8 ++ toLE 0 4
theorem test_witness_code_object : let q : Service := { dlv := 9, code := 1, arg := 0x20000, ten := 1, launch := 0x100000007 }
    let s := mapped { st0 (waiting .empty) with services := [q] }
    (match installCode { s with mem := (s.mem.writeN 0x104010 8 0x4021F).writeBytes 0x40000 lko } q 0x20800 with
      | .done u => u.codes.length == 2
      | _ => false) = true ∧ svcError 0x20800 = false ∧ svcError 0xFFFFFFFFFFFFFF03 = true := by decide +kernel

/-- The boundary registers of a core with nothing resident, at the least UB.REG and the largest sum, and past each bound; a busy core. -/
theorem test_witness_boundary_writes : let c := State.reset.core 0
    c.busy = false ∧ 12 % 6 = 0 ∧ 12 + c.ubScr + c.ubL1 ≤ 192 ∧ 96 + c.ubScr + 32 = 192 ∧ ¬(12 ≤ 6) ∧ 13 % 6 ≠ 0 ∧ ¬(4 ≤ 3) ∧
    192 < c.ubReg + 65 + c.ubL1 ∧ ((st0 bolt0).core 0).busy = true := by decide +kernel

/-- A save may start; one waits; one waits for its page; `ctxsave` and `ctxload` with their checks. -/
theorem test_witness_saves : let s := stB bolt0
    let v : Save := { panel := 0, addr := 0x20000, slot := 0 }
    let t := s.modCore 0 (fun c => { c with save := some v })
    let x := ex 0x1E4
    let y := ex 0x1E5
    let u := stR (holding [(rg true 1, full .n64 0x20000)])
    let p := stR { holding [(rg true 1, full .n64 0x20000)] with priv := true }
    ((1 : Word).getLsbD 0 = true ∧ (s.core 0).save = none ∧ ((s.core 0).bolts.get? 0).any (fun b => !b.left && (s.core 0).panels.has b.panel)
      ∧ s.saving 0 0 = false) ∧
    ((t.core 0).save = some v ∧ v.page = false ∧ t.saveReady (t.groupOf 0 0) = true ∧ (t.launchOf (t.panelAt 0 0).launch).id = (t.panelAt 0 0).launch ∧
      (∀ l ∈ t.launches, l.complete = true ∨ l.out ≠ 0) ∧ ({ t with dlv := [dlv9 (.await .n64)] } : State).saveReady (t.groupOf 0 0) = false) ∧
    (starts (.ctxsave x) (fun _ => u) && starts (.ctxload y) (fun _ => u) && passes (.ctxload y) (fun _ => p) (fun o => o.srcs) toDst wide) = true ∧
    isOk [0] (u.ready x (srcsOf 0x1E4 x) [] false) = true ∧ u.liveLanes x (u.actLanes x) = u.actLanes x ∧
    (∀ pm ∈ [Perm.w, .r], (match u.translate 0 1 0x20000 pm u.sw with | .ok pa _ _ _ => decide (pa + 4096 ≤ Config.hbmBytes) | _ => false) = true) ∧
    u.cc.save = none ∧ u.saving 0 0 = false ∧ u.bolt.sw.has 0 = true ∧ u.bolt.priv = false ∧ p.bolt.priv = true ∧
    okB (engRead p { core := 0, ten := 1, launch := 0x100000007 } 0x20000 64) = true := by decide +kernel

/-- An image that its header names, of a panel that is not resident. -/
def savedImage : Image := { ten := 1, addr := 0x20000, launch := 0x100000007, time := 0, members := [
  { cidx := 0, panel := { x := 1 }, bolts := {}, scr := [], trays := [], tray := [], regions := {}, acc := {} }] }

theorem test_witness_image :
    let h : List Byte := imageMagic ++ toLE 1 2 ++ toLE 1 2 ++ toLE 1 8 ++ toLE 4096 8 ++ toLE 0x100000007 8 ++ toLE 0 32
    isOk savedImage (checkImage { stR { bolt0 with priv := true } with images := [savedImage] } 0x20000 h) = true := by decide +kernel

/-- The save of the panel of `stR` to 0x20000, about to write its image. -/
def saving0 : State := (stR bolt0).modCore 0 (fun c => { c with save := some { panel := 0, addr := 0x20000, slot := 0 } })

/-- What the writes of an image leave of the machine: the tables that translate 0x20000, the cores and the launches. -/
structure Kept (cs : Tab Core) (s : State) : Prop where
  cores : s.cores = cs
  ecc : s.ecc = {}
  holds : s.holds = []
  codes : s.codes = [code]
  launches : s.launches = saving0.launches
  ten : (s.tenOf 1).still = (saving0.tenOf 1).still
  mem : ∀ a, 0x50000 ≤ a → s.mem.read a = saving0.mem.read a

/-- Cores that hold no word of the L1 and no transaction. -/
def Bare (cs : Tab Core) : Prop :=
  (∀ c ∈ cs.vals, c.l1.ents = [] ∧ ∀ b ∈ c.bolts.vals, b.tx.ents = [])

theorem readN_eq {m n : Mem} {a k : Nat} (h : ∀ j, a ≤ j → m.read j = n.read j) : m.readN a k = n.readN a k := by
  unfold Mem.readN
  congr 1
  induction k generalizing a with
  | zero => rfl
  | succ k ih => rw [Mem.bytes, Mem.bytes, h a (Nat.le_refl a), ih (fun j hj => h j (by omega))]

theorem Kept.walk {cs : Tab Core} {s : State} (k : Kept cs s) {va : Nat} (h : 0x20000 ≤ va) (h2 : va < 0x30000) :
    s.walk 1 va = some { pa := 0x40000, log := 16, acc := false, tck := false, mov := true, x := false, w := true, rd := true } := by
  have ht := k.ten
  have hr : (s.tenOf 1).rootEn = true := by have := congrArg Tenancy.rootEn ht; exact this
  have hb : (s.tenOf 1).root = 0x100000 := by have := congrArg Tenancy.root ht; exact this
  have e : ∀ a, s.l2Bad a = false := fun a => by rw [State.l2Bad, k.ecc]; show decide (2 ≤ ones 0) = false; decide
  have r : ∀ a, 0x50000 ≤ a → s.mem.readN a 8 = saving0.mem.readN a 8 := fun a ha => readN_eq (fun j hj => k.mem j (by omega))
  have i0 : pteIndex va 0 = 0 := by simp only [pteIndex]; omega
  have i1 : pteIndex va 1 = 0 := by simp only [pteIndex]; omega
  have i2 : pteIndex va 2 = 0 := by simp only [pteIndex]; omega
  have i3 : pteIndex va 3 = 0 := by simp only [pteIndex]; omega
  have i4 : pteIndex va 4 = 2 := by simp only [pteIndex]; omega
  have v0 : readPte (s.mem.readN 0x100000 8) 0 = some (.next 0x101000) := by rw [r _ (by decide)]; decide +kernel
  have v1 : readPte (s.mem.readN 0x101000 8) 1 = some (.next 0x102000) := by rw [r _ (by decide)]; decide +kernel
  have v2 : readPte (s.mem.readN 0x102000 8) 2 = some (.next 0x103000) := by rw [r _ (by decide)]; decide +kernel
  have v3 : readPte (s.mem.readN 0x103000 8) 3 = some (.next 0x104000) := by rw [r _ (by decide)]; decide +kernel
  have v4 : readPte (s.mem.readN 0x104010 8) 4 = some (.leaf { pa := 0x40000, log := 16, acc := false, tck := false, mov := true, x := false, w := true, rd := true }) := by
    rw [r _ (by decide)]; decide +kernel
  have big : va < 72057594037927936 := by omega
  simp [State.walk, hr, hb, Nat.not_le.2 big, walkFrom, i0, i1, i2, i3, i4, e, v0, v1, v2, v3, v4, Config.hbmBytes]

/-- The leaf of 0x20000. -/
def leaf0 : Leaf := { pa := 0x40000, log := 16, acc := false, tck := false, mov := true, x := false, w := true, rd := true }

theorem Kept.fill {cs : Tab Core} {s : State} (k : Kept cs s) {va : Nat} (h : 0x20000 ≤ va) (h2 : va < 0x30000) :
    s.fill 1 va = some { ten := 1, base := 0x20000, leaf := leaf0 } := by
  have ha : (s.tenOf 1).arenaBase = 1 := by have := congrArg Tenancy.arenaBase k.ten; exact this
  have t : s.tileOf 1 va = none := by simp only [State.tileOf, ha]; rw [if_neg (by omega)]
  have b : va / 2 ^ leaf0.log * 2 ^ leaf0.log = 0x20000 := by show va / 2 ^ 16 * 2 ^ 16 = _; omega
  unfold State.fill
  rw [k.walk h h2, t]
  show some ({ ten := 1, base := va / 2 ^ leaf0.log * 2 ^ leaf0.log, leaf := leaf0 } : TlbEnt) = _
  rw [b]

theorem Kept.place {cs : Tab Core} {s : State} (k : Kept cs s) {va : Nat} (h : 0x20000 ≤ va) (h2 : va < 0x30000) :
    s.translateNow 1 va .w = .ok (va + 0x20000) false va 0 := by
  have hd : s.codeIn 1 0x20000 (2 ^ leaf0.log) = false := by unfold State.codeIn; rw [k.codes]; decide +kernel
  have hb : ¬ Config.hbmBytes ≤ leaf0.pa + (va - 0x20000) := by show ¬ 8 * 48 * 10 ^ 9 ≤ 0x40000 + (va - 0x20000); omega
  unfold State.translateNow translateBy
  simp only [k.fill h h2, hd]
  rw [if_neg (by decide), if_neg hb]
  show Tr.ok (0x40000 + (va - 0x20000)) _ _ _ = _
  rw [show 0x40000 + (va - 0x20000) = va + 0x20000 by omega]
  rfl

/-- Whom that save writes for. -/
def forSave : Who := { core := 0, ten := 1, launch := 0x100000007 }

theorem Kept.engPa {cs : Tab Core} (hc : Bare cs) {s : State} (k : Kept cs s) {va : Nat} (n : Nat) (h : 0x20000 ≤ va) (h2 : va < 0x30000) :
    engPa s forSave .w va n = .ok (va + 0x20000, va) := by
  have hl : ∀ p, s.txLines p = [] := by
    intro p
    simp only [State.txLines, k.cores, List.flatMap_eq_nil_iff]
    intro c hm b hb t hh
    have := (hc c.2 (List.mem_map.2 ⟨c, hm, rfl⟩)).2 b.2 (List.mem_map.2 ⟨b, hb, rfl⟩)
    rw [this] at hh; cases hh
  have hw : s.engWaits (linesOf (va + 0x20000) n) = false := by
    have ht : ∀ x, s.taken x = false := fun x => by simp [State.taken, k.holds]
    simp [State.engWaits, ht, hl]
  unfold Machine.engPa
  show (match s.translateNow 1 va .w with | .ok pa _ za _ => _ | .miss v => _ | .bad c v => _) = _
  rw [k.place h h2]
  simp [hw]

theorem foldl_kept {α : Type} {P : State → Prop} {f : State → α → State} (h : ∀ s a, P s → P (f s a)) (l : List α) {s : State}
    (hs : P s) : P (l.foldl f s) := by
  induction l generalizing s with
  | nil => exact hs
  | cons a l ih => exact ih (h s a hs)

theorem Kept.moveOwner {cs : Tab Core} (hc : Bare cs) {s : State} (k : Kept cs s) (w : Nat) : Kept cs (s.moveOwner w 0xFE) := by
  have hl : (s.cores.vals.all fun c => !c.l1.has w) = true := by
    rw [k.cores, List.all_eq_true]
    intro c hm
    simp [Tab.has, (hc c hm).1, lookup]
  unfold State.moveOwner
  rw [if_neg (by omega)]
  simp only [hl, if_true]
  exact ⟨k.cores, k.ecc, k.holds, k.codes, k.launches, k.ten, k.mem⟩

theorem Kept.charge {cs : Tab Core} {s : State} (k : Kept cs s) (i n : Nat) : Kept cs (s.charge 1 i n) :=
  ⟨k.cores, k.ecc, k.holds, k.codes, k.launches, ((Frame.charge s 1 i n).tens 1).trans k.ten, k.mem⟩

theorem Kept.valid {cs : Tab Core} {s : State} (k : Kept cs s) (pa n w : Nat) : Kept cs (s.l2Valid pa n w 1) := by
  have e (f : Tab Bool) : Kept cs { s with l2in := f } := ⟨k.cores, k.ecc, k.holds, k.codes, k.launches, k.ten, k.mem⟩
  unfold State.l2Valid
  split
  · exact k
  · split
    · exact e _
    · unfold State.l2Fill
      split
      · exact k
      · exact (e _).charge 2 128

theorem Kept.writeL2 {cs : Tab Core} (hc : Bare cs) {s : State} (k : Kept cs s) (pa : Nat) (bs : List Byte) (h : pa + bs.length ≤ 0x50000) :
    Kept cs (s.writeL2 pa bs 0xFE 1) := by
  have k1 : Kept cs { s with mem := s.mem.writeBytes pa bs, ecc := writeEcc s.ecc 8 pa bs.length } :=
    ⟨k.cores, by rw [k.ecc]; rfl, k.holds, k.codes, k.launches, k.ten, fun a ha => by
      show (s.mem.writeBytes pa bs).read a = _
      rw [Mem.read_writeBytes_of_outside _ _ _ _ (by omega)]; exact k.mem a ha⟩
  have k2 := foldl_kept (P := Kept cs) (f := fun s w => (s.moveOwner w 0xFE).l2Valid pa bs.length w 1)
    (fun s a hs => (hs.moveOwner hc a).valid pa bs.length a) (wordsOf pa bs.length) k1
  have hd : ∀ t : State, Kept cs t → ∀ ws, t.doomWords ws 1 (fun c _ _ => c == 0xFE) = t := by
    intro t kt ws
    unfold State.doomWords
    rw [if_pos]
    rw [kt.cores, List.all_eq_true]
    intro c hm
    rw [List.all_eq_true]
    intro b hb
    rw [(hc c hm).2 b hb]; rfl
  have k3 : ∀ t : State, Kept cs t → ∀ f : Tab Nat, Kept cs { t with lineTen := f } :=
    fun t k f => ⟨k.cores, k.ecc, k.holds, k.codes, k.launches, k.ten, k.mem⟩
  have e : s.writeL2 pa bs 0xFE 1 = (fun t : State => ({ t with
      lineTen := ((wordsOf pa bs.length).map lineOf).eraseDups.foldl (fun u l => u.set l 1) t.lineTen } : State).doomWords
        (wordsOf pa bs.length) 1 (fun c _ _ => c == 0xFE))
      ((wordsOf pa bs.length).foldl (fun s w => (s.moveOwner w 0xFE).l2Valid pa bs.length w 1)
        { s with mem := s.mem.writeBytes pa bs, ecc := writeEcc s.ecc 8 pa bs.length }) := rfl
  rw [e]
  generalize (wordsOf pa bs.length).foldl (fun (s : State) (w : Nat) => (s.moveOwner w 0xFE).l2Valid pa bs.length w 1)
    { s with mem := s.mem.writeBytes pa bs, ecc := writeEcc s.ecc 8 pa bs.length } = t at k2 ⊢
  have kt := k3 t k2
  show Kept cs (State.doomWords _ _ _ _)
  rw [hd _ (kt _)]
  exact kt _

theorem segsOf_page {va n : Nat} (h : va % 65536 + n ≤ 65536) : segsOf va n = if n = 0 then [] else [(0, va, n)] := by
  unfold segsOf
  rw [show n / 65536 + 2 = (n / 65536 + 1) + 1 by omega, pageSegs]
  split
  · rfl
  · rw [show min n (65536 - va % 65536) = n by omega]
    simp [pageSegs]

theorem Kept.engWrite {cs : Tab Core} (hc : Bare cs) {s : State} (k : Kept cs s) {va : Nat} (bs : List Byte) (h : 0x20000 ≤ va)
    (h2 : va + bs.length ≤ 0x30000) (h3 : va < 0x30000) : ∃ t, engWrite s forSave va bs = .ok t ∧ Kept cs t := by
  unfold Machine.engWrite
  rw [segsOf_page (by omega)]
  split
  · exact ⟨s, rfl, k⟩
  · refine ⟨s.writeL2 (va + 0x20000) bs 0xFE 1, ?_, k.writeL2 hc _ _ (by omega)⟩
    simp only [List.foldlM, k.engPa hc bs.length h h3]
    have put : engPut s forSave va (va + 0x20000) ((bs.drop 0).take bs.length) = s.writeL2 (va + 0x20000) bs 0xFE 1 := by
      simp [engPut, forSave, k.holds]
    exact congrArg Except.ok put

theorem Kept.writeAll {cs : Tab Core} (hc : Bare cs) (ws : List (Nat × List Byte)) {s : State} (k : Kept cs s)
    (h : ∀ e ∈ ws, 0x20000 ≤ e.1 ∧ e.1 + e.2.length ≤ 0x30000 ∧ e.1 < 0x30000) :
    ∃ u, writeAll forSave ws s = (u, none) ∧ Kept cs u := by
  induction ws generalizing s with
  | nil => exact ⟨s, rfl, k⟩
  | cons e ws ih =>
    have he := h e (by simp)
    obtain ⟨t, ht, kt⟩ := k.engWrite hc e.2 he.1 he.2.1 he.2.2
    obtain ⟨u, hu, ku⟩ := ih kt (fun f hf => h f (by simp [hf]))
    exact ⟨u, by rw [Machine.writeAll, ht]; exact hu, ku⟩

theorem header_length (s : State) (l : Launch) (n size : Nat) (t : Bool) : (imageHeader s l n size t).length = 60 := by
  simp [imageHeader, toLE_length]

/-- A save whose image, of any size and bytes, is written. -/
theorem test_witness_image_written : let s := saving0
    let ms := s.groupOf 0 0
    let p := s.panelAt 0 0
    let size := 64 + Config.imageBytes s.fresh % (s.imageBound ms - 63)
    let t0 : State := { preempt s ms with fresh := s.fresh + size }
    let table := ms.any (fun m => (s.core m.1).psOwner == some p.launch)
    (s.core 0).save = some { panel := 0, addr := 0x20000, slot := 0 } ∧ s.saveReady ms = true ∧
    (s.launchOf p.launch).id = p.launch ∧ p.cancelled = false ∧
    ∃ u, writeAll { core := 0, ten := p.ten, launch := p.launch } (imageWrites 0x20000
        ((List.range (size - 64)).map (fun i => Config.freeByte (s.fresh + i)))
        (imageHeader t0 (s.launchOf p.launch) ms.length size table)) t0 = (u, none) ∧ u.panelAt 0 0 = p ∧
      (u.launchOf p.launch).id = p.launch ∧ (u.launchOf p.launch).cancelled = false ∧
      ∀ l ∈ u.launches, l.complete = true ∨ l.out ≠ 0 := by
  intro s ms p size t0 table
  have hp : p.ten = 1 ∧ p.launch = 0x100000007 ∧ p.cancelled = false := by decide +kernel
  refine ⟨by decide +kernel, by decide +kernel, by decide +kernel, hp.2.2, ?_⟩
  have hb : s.imageBound ms ≤ 65536 := by decide +kernel
  have hs : size ≤ 65536 := by
    have := Nat.mod_lt (Config.imageBytes s.fresh) (show 0 < s.imageBound ms - 63 by decide +kernel)
    show 64 + Config.imageBytes s.fresh % (s.imageBound ms - 63) ≤ _
    omega
  have k : Kept t0.cores t0 := ⟨rfl, by decide +kernel, by decide +kernel, by decide +kernel, by decide +kernel, by decide +kernel, fun _ _ => rfl⟩
  have hc : Bare t0.cores := by unfold Bare; decide +kernel
  obtain ⟨u, hu, ku⟩ := Kept.writeAll hc (imageWrites 0x20000 ((List.range (size - 64)).map (fun i => Config.freeByte (s.fresh + i)))
    (imageHeader t0 (s.launchOf p.launch) ms.length size table)) k (by
      intro e he
      unfold imageWrites at he
      rw [segsOf_page (by simp; omega)] at he
      simp only [List.cons_append, List.mem_cons, List.mem_append, List.not_mem_nil, or_false] at he
      obtain rfl | he | rfl | rfl := he
      · simp [toLE_length]
      · split at he
        · cases he
        · simp only [List.map_cons, List.map_nil, List.mem_singleton] at he
          subst he; simp; omega
      · rw [header_length]; decide
      · decide)
  refine ⟨u, ?_, ?_, ?_, ?_, ?_⟩
  · rw [hp.1, hp.2.1]; exact hu
  · have : u.panelAt 0 0 = t0.panelAt 0 0 := by unfold State.panelAt State.core; rw [ku.cores]
    rw [this]; show t0.panelAt 0 0 = s.panelAt 0 0; decide +kernel
  · unfold State.launchOf; rw [ku.launches]; decide +kernel
  · unfold State.launchOf; rw [ku.launches]; decide +kernel
  · rw [ku.launches]; decide +kernel

/-- As `stB`, with the pages of `stM`. -/
def stE (b : Bolt) : State := stB b { exp := 4 } (fun c => { c with tlb := [page 0x20000, page 0x30000] })

/-- `errinj` on a region, a tray, a name, a bank word and a global word. -/
theorem test_witness_injection : let e (b : Bolt) : State := stE { b with errinj := true }
    let x (md : BitVec 2) (imm : BitVec 22) : Ext := mk 0x1E8 true .bits32 md imm
    let reg : Ext := mk 0x1E8 false .bits32 3 31
    (starts (.errinj (x 0 31)) (fun _ => stB bolt0) && starts (.errinj (x 0 (2 ^ 21))) (fun _ => e bolt0) && starts (.errinj (x 1 (32 * 1023))) (fun _ => e bolt0) &&
      starts (.errinj reg) (fun _ => e (holding [(1, full .n32 5)])) &&
      passes (.errinj (x 2 31)) (fun _ => e (holding [(rg true 1, full .n64 0xFF00000000000010)])) (fun o => o.srcs) noDst narrow &&
      passes (.errinj (x 2 63)) (fun _ => e (holding [(rg true 1, full .n64 0x20000)])) (fun o => o.srcs) noDst narrow) = true ∧
    (stB bolt0).bolt.errinj = false ∧ (e bolt0).bolt.errinj = true ∧ (e bolt0).cc.regOwn.get? 0 = some 0 ∧ (e bolt0).cc.trayOwn.get? 0 = some 0 ∧
    (e bolt0).regInUse 0 0 = false ∧ (e bolt0).trayBusy 0 0 = false ∧ (e bolt0).liveLanes (x 0 0) ((e bolt0).actLanes (x 0 0)) = [0] ∧
    banked (e bolt0) 0 0xFF00000000000010 4 = some (0, 8208) ∧ reachedAt (e bolt0) 0 0x20000 4 .w = some 0x40000 ∧
    (e bolt0).lineBusy 0x40000 none = false ∧ ((e (holding [(1, full .n32 5)])).cell 1 0).st = .full := by decide +kernel

/-- Words and start bits that the instruction cache keeps stand before the installed ones (R36, R247). -/
theorem test_cached_start_bit : let s := st0 bolt0
    let u := st0 bolt0 (fun c => { c with icache := ⟨[(0x41000, { word := 0, start := false, key := some (1, 0x1000), obj := some (0x1000, 0x1004) })]⟩ })
    s.startBit 1 0x1000 = true ∧ u.startBit 1 0x1000 = false ∧ u.startBit 1 0x1004 = true ∧
    s.nextBit 1 0x1000 0x1004 = true ∧ u.nextBit 1 0x1000 0x1004 = false := by decide +kernel

theorem test_witness_storage_error_records : let s := joining 7 0 0x1000
    let u := st0 { bolt0 with rets := ⟨[(0, { addr := 0x1040 })]⟩ }
    ((s.boltAt 0 0).joins.get? 0).isSome ∧ ((s.boltAt 0 0).sw.get? 0).isSome ∧
    ((u.boltAt 0 0).rets.get? 0).any (fun r => !r.spilled) = true := by decide +kernel
theorem test_witness_storage_errors : let s := st0 (holding [(1, full .n32 5)]) (fun c => { c with l1 := ⟨[(0x40000, { val := 1 })]⟩ })
    ((s.boltAt 0 0).regs.get? 1024).any (fun d => d.st == .full) = true ∧ (s.core 0).l1.has (0x40000 / 8 * 8) = true ∧
    (s.core 0).panels.has 0 = true ∧ ones (2 ^ 5) = 1 ∧ ones (2 ^ 5 ||| 1) = 2 ∧ (s.panelAt 0 0).ecc = 0 ∧
    (s.boltAt 0 0).ten = 1 ∧ ((s.boltAt 0 0).sw.get? 0).any (fun w => decide (0x1000 ≤ w.pc.toNat) && decide (w.pc.toNat ≤ 0x10FC)) = true := by
  decide +kernel

/-! ### Register pools -/

/-- A bolt that may be wound out, one that may be wound in, one that is protected, within and past its limits. -/
theorem test_witness_winding : let s := st0 bolt0
    let p := st0 { bolt0 with parked := true }
    (s.core 0).bolts.has 0 = true ∧ (s.boltAt 0 0).left = false ∧ (s.boltAt 0 0).parked = false ∧ (s.boltAt 0 0).protect = none ∧ s.dlv = [] ∧
    (∀ w ∈ (s.boltAt 0 0).sw.vals, w.midway = false) ∧ (writeBobbin s 0 (s.boltAt 0 0)).isSome ∧ (s.boltAt 0 0).gents = 0 ∧
    (s.boltAt 0 0).rows ≤ (s.core 0).cacheRows ∧
    (p.boltAt 0 0).parked = true ∧ (p.boltAt 0 0).rows ≤ (p.core 0).freeRows 0 ∧ (p.boltAt 0 0).gents ≤ (p.core 0).freeGroup ∧
    ((st0 { bolt0 with protect := some 1024 }).core 0).unprotects { bolt0 with protect := some 1024 } = true ∧
    ((st0 { bolt0 with protect := some 1023 }).core 0).unprotects { bolt0 with protect := some 1023 } = false := by decide +kernel

/-- A stalled allocation of the oldest bolt that fits or not, a parked oldest bolt, a younger parked bolt beside one that asks
for nothing, a shuttle with none; a missing word of code. -/
theorem test_witness_progress_rule : let s := st0 bolt0
    let w (n : Nat) : State := st0 { bolt0 with sw := ⟨[(0, { mask := 3, pc := 0x1000, st := .retry 4, short := some (n, 0) })]⟩ }
    let p := st0 { bolt0 with parked := true }
    let two := s.modCore 0 (fun c => { c with bolts := c.bolts.set 1 { bolt0 with age := 1, parked := true } })
    let gets (c : Core) (o : Bolt) : Bool := o.asks.any (fun q => decide (q.1 ≤ c.freeRows 0))
    let f := stM { bolt0 with sw := ⟨[(0, { mask := 3, pc := 0x20000, st := .retry 7 })]⟩ }
    (w 3).bolt.sw.ents = [] ++ (0, (w 3).sw) :: [] ∧ (w 3).sw.asks = some (3, 0) ∧
    (∀ n ∈ [3, 1000000], (w n).bolt.asks = [(n, 0)] ∧ ((w n).core 0).byAge 0 = [(0, (w n).bolt)] ∧
      gets ((w n).core 0) (w n).bolt = decide (n = 3) ∧ ((w n).core 0).served 0 = if n = 3 then some (0, (w n).bolt) else none) ∧
    (p.core 0).served 0 = some (0, p.bolt) ∧ p.bolt.parked = true ∧
    s.bolt.asks = [] ∧ (s.core 0).served 0 = none ∧ (s.core 0).byAge 1 = [] ∧
    (two.core 0).byAge 0 = (0, two.boltAt 0 0) :: ([] ++ (1, two.boltAt 0 1) :: []) ∧ (two.boltAt 0 0).asks = [] ∧
    (two.boltAt 0 1).parked = true ∧ gets (two.core 0) (two.boltAt 0 1) = true ∧ (∀ q ∈ (two.boltAt 0 1).asks, q.2 = 0) ∧
    ((f.boltAt 0 0).sw.getD 0 {}).st = .retry 7 ∧ missingWord { f with cur := { core := 0, slot := 0, ent := 0 } } = some (0x20000, 0x40000) ∧
    0x40000 + 4 ≤ Config.hbmBytes := by decide +kernel

/-! ### Debug -/

theorem test_witness_debug_forms : let s (d : Nat) (r : List Nat) : State := st0 { bolt0 with rdepth := d, regions := r }
    let f := st0 { bolt0 with sw := ⟨[(0, { mask := 3, pc := 0x1080, safe := some { probe := 0, pc := 0x1000, k := {}, q := 0 } })]⟩ }
    (starts (inst 0x1F0) (fun _ => s 0 []) && starts (inst 0x1F0) (fun _ => s 255 [1]) && starts (inst 0x1F1) (fun _ => s 0 []) &&
      starts (inst 0x1F1) (fun _ => s 1 [1]) && starts (.leave { ex 0x1F1 with mod := 1, imm := 2 }) (fun _ => s 1 [1]) &&
      starts (inst 0x1F2) (fun _ => f) true && starts (.pmret { ex 0x1F2 with pred := 1 }) (fun _ => f) true) = true ∧
    (s 255 [1]).bolt.rdepth = 255 ∧ (s 0 []).gActive (ex 0x1F0) = true ∧ f.actLanes (ex 0x1F2) ≠ [] ∧ f.sw.safe.isSome ∧
    f.nextBit f.ten f.sw.pc (f.nextPc 3) = true ∧ f.actLanes { ex 0x1F2 with pred := 1 } = [] := by decide +kernel

theorem test_witness_stops : let s (st : Stop) : State := st0 { bolt0 with stop := st }
    let p (a : Nat) : State := let u := st0 bolt0; { u with tens := ⟨[(1, { en := true, plaunch := 0, probes := ⟨[(2, { act := a, pc := 0x1000, hnd := 0x1080 })]⟩ })]⟩ }
    ((s {}).core 0).bolts.has 0 = true ∧ ((s {}).boltAt 0 0).left = false ∧
    (s { request := some 1, edge := true }).bolt.stop.request = some 1 ∧ (s { request := some 1, skid := 256 }).bolt.stop.skid = 256 ∧
    (s { request := some 1, skid := 255 }).cc.stopRecs = [] ∧ (s {}).cc.stq = [] ∧
    (let u := st0 bolt0 (fun c => { c with stq := [{ id := 0, pa := 0x40000, va := 0x20000, bytes := [1], ten := 1 }] }); ∃ p ∈ u.cc.stq, p.id < u.serial) ∧ (∀ w ∈ (s {}).bolt.sw.vals, w.safe = none ∧ w.phase % 16 ≠ 11) ∧
    (let u := st0 { bolt0 with stop := { request := some 1 } } (fun c => { c with clock := ⟨[(0, 64)]⟩ });
      u.bolt.lastClk + 64 ≤ u.cc.clockOf u.bolt ∧ u.bolt.stop.since + 64 ≤ u.cc.clockOf u.bolt) ∧
    (s { stopped := true }).bolt.stop.stopped = true ∧ (s {}).bolt.sw.has 0 = true ∧ (0 : Nat) / 8 = 0 ∧ (s {}).cores.has 0 = true ∧
    (∀ a ∈ [1, 2], ((p a).probeOf 0 0 0).any (fun i => (((p a).tenOf 1).probes.getD i {}).act == a) = true) ∧
    (p 2).startBit 1 0x1080 = true ∧ ((s {}).probeOf 0 0 0).isNone := by decide +kernel

theorem test_witness_profile : let s := { st0 (readyFor ⟨0x1F4, 3, mk 0x1F4 true .bits32 1⟩) with
      dens := ⟨[(0, { ten := 1, src := 7 }), (1, { ten := 2, src := 3, cores := 0xFF })]⟩ }
    let p := st0 { bolt0 with priv := true }
    (passes (inst 0x1F3) (fun _ => s) noSrc toDst narrow && passes (.stallrd { ex 0x1F3 with mod := 2 }) (fun _ => p) noSrc toDst narrow &&
      starts (.stallrd { ex 0x1F3 with mod := 2 }) (fun _ => s) && passes (inst 0x1F4) (fun _ => s) noSrc toDst wide &&
      passes (.dens (mk 0x1F4 true .bits32 1)) (fun _ => s) (fun o => o.srcs) noDst narrow && starts (.dens (mk 0x1F4 true .bits32 2)) (fun _ => s) &&
      starts (.dens { ex 0x1F4 with imm := 1 }) (fun _ => s)) = true ∧
    (s.densAt 0 0).ten = s.ten ∧ (s.densAt 0 0).src = 7 ∧ (s.densAt 0 1).ten ≠ s.ten ∧ s.actLanes (mk 0x1F4 true .bits32 1) = [0] ∧
    s.cores.has 0 = true ∧ (s.bolt.shuttle = 0 ∧ s.bolt.left = false) ∧ (copyStall s 0).isNone ∧
    copyStall (copy0 (fun k => { k with started := true })) 0 = some 3 ∧ (s.densAt 0 1).count + 4 < 2 ^ 64 := by decide +kernel

/-! ### Host, boot, tenancies -/

theorem test_witness_host_and_starts : let s := State.reset
    s.plat.hwBase * 2 ^ 36 + 0 + 64 ≤ Config.hbmBytes ∧ Config.hbmBytes < s.plat.hwBase * 2 ^ 36 + Config.hbmBytes + 1 ∧
    (∀ j < 64, s.lineBusy ((0 + j) / 8 * 8) none = false) ∧
    s.plat.keyed = false ∧ ({ s with plat := { s.plat with keyed := true } } : State).plat.keyed = true ∧ s.plat.btKind < 2 := by
  decide +kernel

/-- Reserved HBM holds the image of no bytes that was kept, or another; a start runs, or waits for its image, or none does. -/
theorem test_witness_starts : let s := State.reset
    let w (f : Platform → Platform) : State := { s with plat := f s.plat }
    ofLE (Sha.sha384 ((w (fun p => { p with imgHash := ofLE (Sha.sha384 []) })).hbm.bytes Config.reservedBase 0))
      = (w (fun p => { p with imgHash := ofLE (Sha.sha384 []) })).plat.imgHash ∧
    ofLE (Sha.sha384 (s.hbm.bytes Config.reservedBase 0)) ≠ s.plat.imgHash ∧
    s.plat.tripped = false ∧ s.plat.running = false ∧ s.plat.fetching = false ∧ s.plat.failedWarm < 3 ∧ s.plat.ms = {} ∧ s.agenda = [] ∧
    s.plat.imgLen = 0 ∧ (∀ i < 4, s.plat.ms.getD (i + 1) 0 = 0) ∧ s.plat.btDone = false ∧ 3 ≤ (w (fun p => { p with failedWarm := 3 })).plat.failedWarm ∧
    (w (fun p => { p with running := true, fetching := true, btKind := 2 })).plat.fetching = true ∧
    (w (fun p => { p with running := true, fetching := true, btKind := 2 })).plat.running = true ∧
    (w (fun p => { p with waiting := [.cold []] })).plat.waiting = .cold [] :: [] := by decide +kernel

/-- Whether an image verifies is the implementation's: either answer may be that of a given one. -/
theorem test_witness_image_verifies (image : List Byte) :
    Config.imageVerifies image = true ∨ Config.imageVerifies image = false := by cases Config.imageVerifies image <;> simp

theorem test_witness_tenancies : let s := mapped (stB bolt0)
    let idle : State := { State.reset with tens := ⟨[(1, { busy := true, rootEn := true, root := 0x100000 })]⟩, mem := tables }
    (s.tenOf 1).busy = false ∧ idle.resetOver 1 = true ∧ (idle.tenOf 1).rootEn = true ∧ pagesUnder idle.mem 5 0x100000 0 ≠ [] ∧
    s.resetOver 1 = false ∧ s.lineBusy 0x40000 none = false ∧ lineOf 0x40000 + 128 ≤ Config.hbmBytes ∧ s.relocating 1 = false ∧ (relState id).relocating 1 = true := by decide +kernel

/-! ### What instructions do: one step each, the results worked out from the rules -/

/-- The state after a step of an instruction, or the state before it where that ends otherwise. -/
def after (i : Instr) (s : State) : State := match exec i s with
  | .next t => t
  | _ => s

/-- What two operands in lane 0 give, in lane 0 of the destination. -/
def on2 (i : Instr) (t : Tag) (a b : Word) (u : Tag := t) : Cell :=
  (after i (st0 (holding [(1, full t a), (2, full u b)]))).cell 5 0

/-- R123: 0x7FFFFFFF + 1 wraps to the least number, and saturates to the greatest. -/
theorem test_add : (on2 (inst 0x060) .s32 0x7FFFFFFF 1).val = 0x80000000 ∧
    (on2 (.add { ex 0x060 with mod := 1 }) .s32 0x7FFFFFFF 1).val = 0x7FFFFFFF := by decide +kernel
theorem test_sub_unsigned : (on2 (.sub { mk 0x061 false .n32 with mod := 1 }) .n32 1 2).val = 0 ∧
    (on2 (.sub (mk 0x061 false .n32)) .n32 1 2).val = 0xFFFFFFFF := by decide +kernel
theorem test_mulhi : (on2 (inst 0x063) .s32 0x80000000 2).val = 0xFFFFFFFF ∧
    (on2 (.mulhi (mk 0x063 false .n32)) .n32 0x80000000 2).val = 1 := by decide +kernel
/-- R125: bits 7 to 4 of 0x80, signed and unsigned; 0x5 put there. -/
theorem test_bfx : (on2 (.bfx (mk 0x078 false .s32 0 (4 + 64 * 4))) .s32 0x80 0).val = 0xFFFFFFF8 ∧
    (on2 (.bfx (mk 0x078 false .n32 0 (4 + 64 * 4))) .s32 0x80 0).val = 8 := by decide +kernel
theorem test_bfi : (on2 (.bfi { mk 0x079 false .bits32 0 (4 + 64 * 4) with b := 2 }) .bits32 0xFFFF 0xA5).val = 0xFF5F := by decide +kernel
/-- R128: a scaled index below zero; 100 - 2 * 5 + 2 * 4 - 1 * 3 + 1 * 2. -/
theorem test_lea : (on2 (.lea { mk 0x07B false .s32 0 3 with b := 2 }) .n64 0x1000 0xFFFFFFFF .s32).val = 0xFF8 := by decide +kernel
theorem test_dot4 : (Alu.dot4 (mk 0x07C) { val := 0x01FF02FE } { val := 0x02030405 } { val := 100 }).val = 97 := by decide +kernel
/-- R124: the width and more. -/
theorem test_shl : (on2 (.shl (mk 0x070 false .bits32)) .bits32 1 32 .n32).val = 0 ∧
    (on2 (.shl (mk 0x070 false .bits32)) .bits32 1 31 .n32).val = 0x80000000 := by decide +kernel
theorem test_sar : (on2 (inst 0x072) .s32 0xFFFFFFF8 40 .n32).val = 0xFFFFFFFF ∧ (on2 (inst 0x072) .s32 0xFFFFFFF8 2 .n32).val = 0xFFFFFFFE := by
  decide +kernel
theorem test_rotl : (on2 (.rotl (mk 0x073 false .bits32)) .bits32 0x80000001 33 .n32).val = 3 := by decide +kernel
theorem test_clz : (on2 (.clz (mk 0x075 false .bits32)) .bits32 0 0).val = 32 ∧ (on2 (.clz (mk 0x075 false .bits32)) .bits32 0 0).tag = .n32 := by decide +kernel
theorem test_min : (on2 (inst 0x069) .s32 0xFFFFFFFF 1).val = 0xFFFFFFFF ∧ (on2 (.minI (mk 0x069 false .n32)) .n32 0xFFFFFFFF 1).val = 1 := by decide +kernel

/-- What the delivery of an X-pipe form brings. -/
def brought (i : Instr) (t : Tag) (a b : Word) : List Bring :=
  ((after i (st0 (holding [(1, full t a), (2, full t b)]))).dlv.map Delivery.bring).take 1

/-- R126: −7 by 0, −7 by 2. -/
theorem test_div : brought (inst 0x065) .s32 0xFFFFFFF9 0 = [.value 0xFFFFFFFF .s32 Fp.DZ false] ∧
    brought (inst 0x065) .s32 0xFFFFFFF9 2 = [.value 0xFFFFFFFD .s32 0 false] := by decide +kernel
theorem test_rem : brought (inst 0x066) .s32 0xFFFFFFF9 0 = [.value 0xFFFFFFF9 .s32 Fp.DZ false] ∧
    brought (inst 0x066) .s32 0xFFFFFFF9 2 = [.value 0xFFFFFFFF .s32 0 false] := by decide +kernel

/-- R129 to R131: 1 + 2^-24 ties to even; ∞ − ∞ is the canonical NaN of R93 and sets NV. -/
theorem test_fadd : (on2 (inst 0x0C0) .f32 0x3F800000 0x33800000).val = 0x3F800000 ∧
    (on2 (inst 0x0C0) .f32 0x7F800000 0xFF800000).val = 0x7FC00000 := by decide +kernel
theorem test_fadd_flags : (after (inst 0x0C0) (st0 (holding [(1, full .f32 0x3F800000), (2, full .f32 0x33800000)]))).bolt.flags = Fp.NX ∧
    (after (inst 0x0C0) (st0 (holding [(1, full .f32 0x7F800000), (2, full .f32 0xFF800000)]))).bolt.flags = Fp.NV := by decide +kernel
theorem test_fdiv : brought (inst 0x0C8) .f32 0x3F800000 0x80000000 = [.value 0xFF800000 .f32 Fp.DZ false] := by decide +kernel
theorem test_fsqrt : brought (inst 0x0C9) .f32 0x40800000 0 = [.value 0x40000000 .f32 0 false] := by decide +kernel
theorem test_fexp2 : brought (inst 0x0CC) .f32 0x40400000 0 = [.value 0x41000000 .f32 0 false] := by decide +kernel
theorem test_fmin_nan : (on2 (inst 0x0C4) .f32 0x7FC00000 0x3F800000).val = 0x3F800000 := by decide +kernel
/-- (1 + 2^-12)^2 − 1 keeps the 2^-24 that two roundings would lose. -/
theorem test_fma : ((after (inst 0x0C3) (st0 (holding [(1, full .f32 0x3F800800), (2, full .f32 0x3F800800), (3, full .f32 0xBF800000)]))).cell 5 0).val
    = 0x3A000400 := by decide +kernel

/-- R85, R62: two reads of one name; a held name ends at one drop. -/
theorem test_drop : ((after (.drop { ex 0x002 with mod := 1, b := 1 }) (three false 2)).cell 1 0) = {} ∧
    ((after (inst 0x002) (three false 15)).cell 1 0) = {} := by decide +kernel
theorem test_nstat : ((after (inst 0x007) (three false 9)).cell 5 0).val = 9 + 2 * 16 + (Tag.s32.code.toNat : Nat) * 256 := by decide +kernel
theorem test_hold : ((after (inst 0x004) (three false 2)).cell 1 0).cnt = 15 := by decide +kernel
theorem test_rebind : let t := after (.rebind { ex 0x006 with dst := 5, a := 1 }) (three false 2)
    t.cell 5 0 = full .s32 0 2 ∧ t.cell 1 0 = {} := by decide +kernel

/-- R5, R139: lanes 0 and 1 of eight. -/
theorem test_ballot : let s := st0 { bolt0 with k := ⟨[(3, 2)]⟩ }
    ((after (.vote { mk 0x122 false .bits32 3 3 with cnt := 1, dst := 5 }) s).cell 5 0).val = 2 := by decide +kernel
theorem test_cmp : ((after (.cmp (mk 0x07A false .s32 0 (1 + 2 * 8))) (st0 (cells (cells bolt0 1 (full .s32 0xFFFFFFFF) (full .s32 5)) 2 (full .s32 0) (full .s32 0)))).kMask 1)
    = 1 := by decide +kernel
theorem test_shfl_down : ((after (.shfl (mk 0x120 false .bits32 2 3)) (st0 (cells (cells bolt0 1 (full .bits32 7) (full .bits32 9)) 2 (full .n32 1) (full .n32 1)))).cell 5 0).val
    = 9 := by decide +kernel

/-- R148: lane 0 goes on, lane 1 goes to Lelse in an entry of its own, both one deeper. -/
theorem test_fork : let t := after (.fork { ex 0x145 with pred := 1, imm := 8 * 2 ^ 11 + 16 }) (st0 split0)
    t.bolt.sw.get? 0 = some { mask := 1, pc := 0x100C, depth := 1, jtop := some 0 } ∧
    t.bolt.sw.get? 1 = some { mask := 2, pc := 0x1020, depth := 1, jtop := some 0 } ∧ (t.bolt.joins.getD 0 {}).ljoin = 0x1040 := by decide +kernel
theorem test_loop : let t := after (inst 0x149) (st0 (holding [(rg true 1, full .s32 1)]))
    t.sw.pc = 0x100C ∧ (t.cell (rg true 5) 0).st = .exhausted := by decide +kernel
theorem test_exit : let t := after (inst 0x147) (st0 bolt0)
    t.bolt.left = true ∧ t.bolt.sw.ents = [] ∧ (t.panelAt 0 0).out = 0 := by decide +kernel

/-- R216: a narrow S32 is sign-extended; R200: the highest lane's store stands. -/
theorem test_load_sign : let s := (st0 (cells bolt0 1 (full .n64 0xFF00000000000010) (full .n64 0xFF00000000000011))).modCore 0 (fun c =>
      { c with scr := Mem.writeN [] 8208 2 0x7F80 })
    let t := after (.ld { ex 0x160 with fmt := .s32, mod := 1 }) s
    (t.cell 5 0).val = 0xFFFFFF80 ∧ (t.cell 5 1).val = 0x7F := by decide +kernel
theorem test_store_order : let s := st0 (cells (cells bolt0 1 (full .n64 0xFF00000000000010) (full .n64 0xFF00000000000010)) 2 (full .bits32 1) (full .bits32 2))
    ((after (inst 0x161) s).core 0).scr.readN 8208 4 = 2 := by decide +kernel
/-- R249: two lanes add 1 to one word, the lower first. -/
theorem test_atom_add : let s := st0 (cells (cells bolt0 1 (full .n64 0xFF00000000000010) (full .n64 0xFF00000000000010)) 2 (full .n32 1) (full .n32 1))
    let t := after (.atom (mk 0x190 false .n32)) s
    (t.core 0).scr.readN 8208 4 = 2 ∧ (t.cell 5 0).val = 0 ∧ (t.cell 5 1).val = 1 := by decide +kernel
/-- R226: a global store waits in its core's queue. -/
theorem test_store_pending : let s := stM (cells (cells bolt0 1 (full .n64 0x20000) (full .n64 0x20008)) 2 (full .bits32 1) (full .bits32 2))
    let t := after (inst 0x161) s
    (t.core 0).stq.map (fun q => (q.pa, q.bytes)) = [(0x40000, [1, 0, 0, 0]), (0x40008, [2, 0, 0, 0])] ∧ t.mem = [] := by decide +kernel

/-- R376, R378: `brk 7` in a bolt that delegates 0x29. -/
theorem test_brk_delivered : let s := st0 { bolt0 with trap := { vec := 0x1080, deleg := 2 ^ 0x29 } }
    let t := after (.brk { ex 0x14B with imm := 7 }) s
    t.sw.pc = 0x1080 ∧ t.bolt.trap.pc = 0x1000 ∧ t.bolt.trap.addr = 7 ∧ t.bolt.trap.cause = 0x29 ∧ t.bolt.trap.act = true ∧ t.posts = [] := by decide +kernel
/-- R373: without a vector it parks and posts its record. -/
theorem test_brk_parked : let t := after (.brk { ex 0x14B with imm := 7 }) (st0 bolt0)
    t.sw.st = .parked ∧ t.posts.length = 1 ∧ t.sw.pc = 0x1000 := by decide +kernel
/-- R68: a read of an EXHAUSTED name, R80 its address field: position 1, operand code 1. -/
theorem test_exhausted_read : ((after (inst 0x000) (st0 bolt0)).sw.frec.map (fun r => (r.cause, r.addr))) = some (0x03, 0x10001) := by decide +kernel

/-- R336: lane 1 names one tile twice: sub-code 5 with source B's operand code, 2. -/
theorem test_relocate_one_tile : let s := stR (cells (cells bolt0 1 (full .n64 0x100000) (full .n64 0x120000)) 2 (full .n64 0x110000) (full .n64 0x120000))
    ((after (.relocate { ex 0x1D0 with imm := 0x13 + 256 * 4095 }) s).sw.frec.map (fun r => (r.cause, r.addr))) = some (0x2F, 0x20005) := by decide +kernel

/-- R270, R271: the last arrival of the phase completes it. -/
theorem test_arrive : let t := after (.arrive (bx 0x1B4)) (stB bolt0 { exp := 2, arr := 1, gen := 3 })
    let b := (t.panelAt 0 0).bars.getD 3 {}
    b.gen = 0 ∧ b.arr = 0 ∧ b.err = false := by decide +kernel

/-- SHA-384 of the empty text, as FIPS 180-4 has it. -/
theorem test_sha384 : Sha.ofBE (Sha.sha384 [])
    = 0x38b060a751ac96384cd9327eb1b1e36a21fdb71114be07434c0cc7bf63f6e1da274edebfe76f65fbd51ad2f14898b95b := by decide +kernel

end Sys2Proof.Tests
end

section
/-! PROOFS. Taking a fault and returning from it (R373, R376, R378, R379): what `raise`, the write of `TRAP.DELEG` and
`trapret` do, and the obligations on them. -/

namespace Sys2Proof.Machine

/-! ### What a fault and a return from one keep -/

/-- Names, predicates, flags, deliveries, join records, return entries and memory are what they were. -/
structure SameButTrap (s t : State) : Prop where
  names : SameNames s t
  preds : SamePreds s t
  flags : SameFlags s t
  dlv : SameDlv s t
  joins : t.bolt.joins = s.bolt.joins
  rets : t.bolt.rets = s.bolt.rets
  mem : t.mem = s.mem

theorem SameButTrap.trans {s t u : State} (h : SameButTrap s t) (h' : SameButTrap t u) : SameButTrap s u where
  names k := (h'.names k).trans (h.names k)
  preds := ⟨h'.preds.1.trans h.preds.1, h'.preds.2.1.trans h.preds.2.1, h'.preds.2.2.trans h.preds.2.2⟩
  flags := h'.flags.trans h.flags
  dlv := ⟨h'.dlv.1.trans h.dlv.1, h'.dlv.2.trans h.dlv.2⟩
  joins := h'.joins.trans h.joins
  rets := h'.rets.trans h.rets
  mem := h'.mem.trans h.mem

/-- So they are when the bolt changes only in its swatches, its stop and its TRAP registers. -/
theorem SameButTrap.of_bolt {s t : State} {w : Tab Swatch} {st : Stop} {tr : Trap}
    (hb : t.bolt = { s.bolt with sw := w, stop := st, trap := tr }) (hs : t.sw.safe = s.sw.safe) (hd : t.dlv = s.dlv)
    (hn : t.serial = s.serial) (hm : t.mem = s.mem) : SameButTrap s t where
  names k := by unfold State.cellK; rw [hb]
  preds := ⟨by rw [hb], by rw [hb], hs⟩
  flags := by unfold SameFlags; rw [hb]
  dlv := ⟨hd, hn⟩
  joins := by rw [hb]
  rets := by rw [hb]
  mem := hm

theorem SameButTrap.modSw (s : State) (f : Swatch → Swatch) (h : (f s.sw).safe = s.sw.safe) : SameButTrap s (s.modSw f) :=
  .of_bolt (State.bolt_modSw s f) (by rw [State.sw_modSw, h]) rfl rfl rfl

theorem SameButTrap.post (s : State) (p : Post) : SameButTrap s (s.post p) :=
  ⟨fun _ => rfl, ⟨rfl, rfl, rfl⟩, rfl, ⟨rfl, rfl⟩, rfl, rfl, rfl⟩

/-! ### The operations that `raise` is made of -/

@[simp] theorem State.bolt_setSw (s : State) (w : Swatch) :
    (s.setSw w).bolt = { s.bolt with sw := s.bolt.sw.set s.cur.ent w } := State.bolt_modBolt ..

@[simp] theorem State.sw_setSw (s : State) (w : Swatch) : (s.setSw w).sw = w := State.sw_modSw s (fun _ => w)

@[simp] theorem State.bolt_post (s : State) (p : Post) : (s.post p).bolt = s.bolt := rfl
@[simp] theorem State.sw_post (s : State) (p : Post) : (s.post p).sw = s.sw := rfl
@[simp] theorem State.posts_post (s : State) (p : Post) : (s.post p).posts = p :: s.posts := rfl

/-- The end of a step (R430) changes one field of the bolt's stop. -/
theorem endStep_eq (s : State) :
    endStep s = s ∨ endStep s = s.modBolt (fun b => { b with stop := { b.stop with stepEnt := none } }) := by
  unfold endStep
  split
  · exact .inr rfl
  · exact .inl rfl

theorem bolt_endStep (s : State) : ∃ st, (endStep s).bolt = { s.bolt with stop := st } := by
  rcases endStep_eq s with h | h <;> rw [h]
  · exact ⟨s.bolt.stop, rfl⟩
  · exact ⟨_, State.bolt_modBolt ..⟩

@[simp] theorem sw_endStep (s : State) : (endStep s).sw = s.sw := by
  rcases endStep_eq s with h | h <;> rw [h]
  simp [State.sw]

@[simp] theorem posts_endStep (s : State) : (endStep s).posts = s.posts := by
  rcases endStep_eq s with h | h <;> rw [h]; rfl

@[simp] theorem trap_endStep (s : State) : (endStep s).bolt.trap = s.bolt.trap := by
  obtain ⟨st, h⟩ := bolt_endStep s; rw [h]

@[simp] theorem ten_endStep (s : State) : (endStep s).ten = s.ten := by
  obtain ⟨st, h⟩ := bolt_endStep s; unfold State.ten; rw [h]

@[simp] theorem inSafe_endStep (s : State) : (endStep s).inSafe = s.inSafe := by simp [State.inSafe]

theorem SameButTrap.endStep (s : State) : SameButTrap s (endStep s) := by
  obtain ⟨st, h⟩ := bolt_endStep s
  refine .of_bolt h (by rw [sw_endStep]) ?_ ?_ ?_
  all_goals rcases endStep_eq s with h | h <;> rw [h]; rfl

/-- No start bit depends on a stop: the instruction cache and the code objects stay. -/
@[simp] theorem startBit_endStep (s : State) (n : Nat) (a : Word) : (endStep s).startBit n a = s.startBit n a := by
  rcases endStep_eq s with h | h <;> rw [h]
  have hcache : (s.modBolt fun b => { b with stop := { b.stop with stepEnt := none } }).cc.icache = s.cc.icache := by
    show ((s.modBolt _).core s.cur.core).icache = _
    rw [State.core_modBolt, if_pos rfl]
  unfold State.startBit State.cached
  rw [hcache]; rfl

@[simp] theorem faultRec_endStep (s : State) (cause : Nat) (addr : Word) (lanes : Mask) :
    faultRec (endStep s) cause addr lanes = faultRec s cause addr lanes := by
  rcases endStep_eq s with h | h <;> rw [h]
  simp [faultRec, State.nlanes, State.sw, Bolt.top3]

/-! ### `postFault` and `enterHandler` -/

@[simp] theorem posts_postFault (s : State) (r : FaultRec) (lanes : Mask) :
    (postFault s r lanes).posts = .fault r :: s.posts := by simp [postFault]

@[simp] theorem st_postFault (s : State) (r : FaultRec) (lanes : Mask) : (postFault s r lanes).sw.st = .parked := by
  simp [postFault]

@[simp] theorem pc_postFault (s : State) (r : FaultRec) (lanes : Mask) : (postFault s r lanes).sw.pc = s.sw.pc := by
  simp [postFault]

@[simp] theorem trap_postFault (s : State) (r : FaultRec) (lanes : Mask) :
    (postFault s r lanes).bolt.trap = s.bolt.trap := by simp [postFault]

theorem SameButTrap.postFault (s : State) (r : FaultRec) (lanes : Mask) : SameButTrap s (postFault s r lanes) :=
  (SameButTrap.endStep s).trans ((SameButTrap.modSw _ _ rfl).trans (SameButTrap.post _ _))

@[simp] theorem sw_enterHandler (s : State) (r : FaultRec) (lanes : Mask) (vec : Word) :
    (enterHandler s r lanes vec).sw = { s.sw with
      pc := vec, st := .ready, frec := none, ctx := lanes, phase := 0, edge := none, bad := [], walked := []
      unfin := none, hand := true, noWatch := false, noProbe := none, short := none, grant := (0, 0), native := false } := by
  simp [enterHandler]

@[simp] theorem bolt_enterHandler (s : State) (r : FaultRec) (lanes : Mask) (vec : Word) :
    (enterHandler s r lanes vec).bolt = { s.bolt with
      trap := { s.bolt.trap with
        cause := r.cause, act := true, pc := r.pc, addr := r.addr, mask := r.mask, lfail := lanes, ent := s.cur.ent
        lanes := s.sw.mask, depth := s.sw.depth, jtop := s.sw.jtop, rtop := s.sw.rtop }
      sw := s.bolt.sw.set s.cur.ent (enterHandler s r lanes vec).sw } := by
  rw [sw_enterHandler]; simp [enterHandler]

@[simp] theorem posts_enterHandler (s : State) (r : FaultRec) (lanes : Mask) (vec : Word) :
    (enterHandler s r lanes vec).posts = s.posts := rfl

theorem SameButTrap.enterHandler (s : State) (r : FaultRec) (lanes : Mask) (vec : Word) :
    SameButTrap s (enterHandler s r lanes vec) :=
  .of_bolt (bolt_enterHandler s r lanes vec) (by rw [sw_enterHandler]) rfl rfl rfl

/-! ### `raise` -/

/-- The bolt hands faults of this cause to a handler, when none runs (R373, R376). -/
def State.delegates (s : State) (cause : Nat) : Bool :=
  delegable cause && s.bolt.trap.deleg.getLsbD cause && s.bolt.trap.vec != 0 && !s.inSafe

theorem State.delegates_iff (s : State) (cause : Nat) : s.delegates cause = true ↔
    delegable cause = true ∧ s.bolt.trap.deleg.getLsbD cause = true ∧ s.bolt.trap.vec ≠ 0 ∧ s.inSafe = false := by
  simp only [State.delegates, Bool.and_eq_true, bne_iff_ne, Bool.not_eq_true', and_assoc]

/-- Where a fault goes (R373, R378): it waits for the handler that runs, enters the handler, or goes to Goloc. -/
theorem raise_eq (s : State) (cause : Nat) (addr : Word) (lanes : Mask) :
    raise s cause addr lanes =
      let r := faultRec s cause addr lanes
      if s.delegates cause && s.bolt.trap.act && !s.sw.hand then
        (endStep s).modSw (fun w => { w with
          st := .deferred, frec := some r, vec := s.bolt.trap.vec, ctx := lanes, phase := 0, edge := none, bad := []
          walked := [], grant := (0, 0) })
      else if s.delegates cause && !s.bolt.trap.act then
        if s.startBit s.ten s.bolt.trap.vec then enterHandler (endStep s) r lanes s.bolt.trap.vec
        else postFault (endStep s) { r with cause := 0x02, addr := BitVec.ofNat 64 (cause % 256) } lanes
      else postFault (endStep s) r lanes := by
  have hten : (endStep s).bolt.ten = s.ten := ten_endStep s
  simp only [raise, State.delegates, faultRec_endStep, trap_endStep, inSafe_endStep, sw_endStep, startBit_endStep, hten]
  rfl

theorem raise_of_not_delegates {s : State} {cause : Nat} (addr : Word) (lanes : Mask) (h : s.delegates cause = false) :
    raise s cause addr lanes = postFault (endStep s) (faultRec s cause addr lanes) lanes := by
  simp [raise_eq, h]

theorem raise_of_delegates {s : State} {cause : Nat} (addr : Word) (lanes : Mask) (h : s.delegates cause = true)
    (hact : s.bolt.trap.act = false) (hbit : s.startBit s.ten s.bolt.trap.vec = true) :
    raise s cause addr lanes = enterHandler (endStep s) (faultRec s cause addr lanes) lanes s.bolt.trap.vec := by
  simp [raise_eq, h, hact, hbit]

/-- A vector that no start bit marks (R37). -/
theorem raise_of_unmarked_vector {s : State} {cause : Nat} (addr : Word) (lanes : Mask) (h : s.delegates cause = true)
    (hact : s.bolt.trap.act = false) (hbit : s.startBit s.ten s.bolt.trap.vec = false) :
    raise s cause addr lanes = postFault (endStep s)
      { faultRec s cause addr lanes with cause := 0x02, addr := BitVec.ofNat 64 (cause % 256) } lanes := by
  simp [raise_eq, h, hact, hbit]

/-! ### The causes of R376 -/

theorem lt_of_delegable {c : Nat} (h : delegable c = true) : c < 64 := by
  simp only [delegable, Bool.and_eq_true, decide_eq_true_eq] at h
  exact h.1

/-- No cause under which lanes alone are replayed (R375) is delegable, so a delivered record has the swatch's stitches. -/
theorem not_unfinishedCause_of_delegable {c : Nat} (h : delegable c = true) : unfinishedCause c = false := by
  refine Bool.eq_false_iff.mpr fun hu => ?_
  simp only [unfinishedCause, Bool.or_eq_true, beq_iff_eq] at hu
  rcases hu with (rfl | rfl) | rfl <;> exact absurd h (by decide)

/-- Settles O12: a delegated fault enters the handler, or goes to Goloc when its vector is not marked. -/
theorem faultToHandler : Obligations.FaultToHandler := by
  unfold Obligations.FaultToHandler
  intro s cause addr lanes hc hdeleg hvec hsafe hact
  have hdel : s.delegates cause = true := (s.delegates_iff cause).mpr ⟨hc, hdeleg, hvec, hsafe⟩
  refine ⟨fun hbit => ?_, fun hbit => ?_⟩
  · have hmod : cause % 256 = cause := Nat.mod_eq_of_lt (by have := lt_of_delegable hc; omega)
    rw [raise_of_unmarked_vector addr lanes hdel hact hbit, hmod]
    have keeps := (SameButTrap.endStep s).trans (.postFault (endStep s)
      { faultRec s cause addr lanes with cause := 0x02, addr := BitVec.ofNat 64 cause } lanes)
    exact ⟨by simp, by simp, by simp, by simp, keeps.names, keeps.preds, keeps.flags, keeps.mem⟩
  · rw [raise_of_delegates addr lanes hdel hact hbit]
    have keeps := (SameButTrap.endStep s).trans
      (.enterHandler (endStep s) (faultRec s cause addr lanes) lanes s.bolt.trap.vec)
    have hmask : (faultRec s cause addr lanes).mask = stitchesOf s.nlanes s.sw.mask := by
      simp [faultRec, not_unfinishedCause_of_delegable hc]
    exact ⟨by simp, by simp [faultRec], by simp [faultRec], by simp [faultRec], by simp [hmask], by simp, by simp, by simp,
      by simp, by simp, by simp, keeps.names, keeps.preds, keeps.flags, keeps.dlv, keeps.joins, keeps.rets, keeps.mem,
      by simp⟩

/-- The bits that a write of `TRAP.DELEG` clears: those of the causes that no handler takes. -/
def keptBits : Word := BitVec.ofNat 64 ((List.range 64).foldl (fun a c => if delegable c then a else a + 2 ^ c) 0)

theorem getLsbD_keptBits {c : Nat} (hc : c < 64) : keptBits.getLsbD c = !delegable c := by
  have hall : ∀ c < 64, keptBits.getLsbD c = !delegable c := by decide
  exact hall c hc

theorem spWrite_deleg (s : State) (v : Word) :
    spWrite s 0x011 v = s.modBolt (fun b => { b with trap := { b.trap with deleg := v &&& ~~~keptBits } }) := rfl

/-- A write of `TRAP.DELEG` sets the bits of delegable causes alone (R376). -/
theorem getLsbD_deleg_spWrite (s : State) (v : Word) {c : Nat} (hc : c < 64) :
    (spWrite s 0x011 v).bolt.trap.deleg.getLsbD c = (v.getLsbD c && delegable c) := by
  rw [spWrite_deleg, State.bolt_modBolt]
  simp only [BitVec.getLsbD_and, BitVec.getLsbD_not, getLsbD_keptBits hc, Bool.not_not, hc, decide_true, Bool.true_and]

/-- Settles O13: `delegable` decides both where a fault goes and which bits of `TRAP.DELEG` a write sets. -/
theorem neverDelegated : Obligations.NeverDelegated := by
  unfold Obligations.NeverDelegated
  intro s addr lanes c hc kept
  have hkept : delegable c = true ↔ c ∉ kept := by simp [delegable, hc, kept]
  refine ⟨fun hin => ?_, fun hout => ?_⟩
  · have hnot : delegable c = false := Bool.eq_false_iff.mpr fun hyes => hkept.mp hyes hin
    rw [raise_of_not_delegates addr lanes (by simp [State.delegates, hnot])]
    exact ⟨by simp, by simp, fun v => by rw [getLsbD_deleg_spWrite s v hc, hnot, Bool.and_false]⟩
  · have hyes : delegable c = true := hkept.mpr hout
    refine ⟨fun v => by rw [getLsbD_deleg_spWrite s v hc, hyes, Bool.and_true], ?_⟩
    intro hdeleg hvec hsafe hact hbit
    rw [raise_of_delegates addr lanes ((s.delegates_iff c).mpr ⟨hyes, hdeleg, hvec, hsafe⟩) hact hbit]
    simp

/-! ### The end of an issue that faults -/

theorem State.txGuard_of_not_txForbidden (s : State) {opc : Nat} {x : Ext} (h : txForbidden opc x = false) :
    s.txGuard opc x = .ok s := by simp [State.txGuard, h]

/-- An instruction that transfers control and faults in its own effect raises that fault in the state at issue. -/
theorem issue_trap {opc len : Nat} {x : Ext} {body : State → R State} {s s1 : State} {cause : Nat} {addr : Word}
    {lanes : Mask}
    (hsafe : safeCheck s opc x (listed x (form opc x) (ranges opc x).1 (ranges opc x).2.1 (ranges opc x).2.2) = .ok ())
    (htx : s.txGuard opc x = .ok s1) (hb : body s1 = trap cause addr lanes) :
    issue opc len x true body s = .next (raise s cause addr lanes) := by
  have herr : issueOn opc len x true body s = .error (.trap cause addr lanes) := by
    unfold issueOn
    rw [hsafe]
    simp [bind, Except.bind, htx, hb, trap]
  unfold issue
  rw [herr]; rfl

/-! ### The completion of an instruction -/

theorem retire_trap (s : State) (x : Ext) (t : State) : (s.retire x t).bolt.trap = t.bolt.trap := by
  rcases retire_bolt s x t with h | ⟨_, h⟩ <;> rw [h] <;> rfl

theorem retire_mask (s : State) (x : Ext) (t : State) (ht : t.cur = s.cur) : (s.retire x t).sw.mask = t.sw.mask := by
  have hstill := congrArg Swatch.mask (Frame.retire s x t ht).swatch
  exact hstill

theorem SameButTrap.retire (s : State) (x : Ext) (t : State) (ht : t.cur = s.cur) : SameButTrap t (s.retire x t) where
  names k := retire_cellK s x t k
  preds := by
    refine ⟨retire_k s x t, retire_q s x t, ?_⟩
    obtain ⟨w, hw, h⟩ := retire_sw s x t ht
    have hquiet : (s.retire x t).sw.quiet.safe = w.quiet.safe := congrArg Swatch.safe h
    calc (s.retire x t).sw.safe = w.safe := hquiet
      _ = t.sw.safe := by rcases hw with rfl | rfl <;> rfl
  flags := retire_flags s x t
  dlv := ⟨rfl, rfl⟩
  joins := by have h := congrArg Bolt.joins (Frame.retire s x t ht).mine; exact h
  rets := by have h := congrArg Bolt.rets (Frame.retire s x t ht).mine; exact h
  mem := rfl

/-! ### `trapret` -/

/-- The swatch stands as it did at the delivery, with none but the delivered lanes (R379). -/
def State.asDelivered (s : State) : Prop :=
  s.sw.jtop = s.bolt.trap.jtop ∧ s.sw.depth = s.bolt.trap.depth ∧ s.sw.rtop = s.bolt.trap.rtop ∧
    s.sw.mask &&& ~~~s.bolt.trap.lanes = 0

theorem State.asDelivered_iff (s : State) : (s.sw.jtop != s.bolt.trap.jtop || s.sw.depth != s.bolt.trap.depth ||
    s.sw.rtop != s.bolt.trap.rtop || s.sw.mask &&& ~~~s.bolt.trap.lanes != 0) = false ↔ s.asDelivered := by
  unfold State.asDelivered
  simp only [Bool.or_eq_false_iff, bne_eq_false_iff_eq, and_assoc]

theorem trapReturn_no_handler {s : State} (back : Word) (hact : s.bolt.trap.act = false) :
    trapReturn s back = trap 0x32 1 s.sw.mask := by
  simp [trapReturn, hact, trap, bind, Except.bind]

theorem trapReturn_moved {s : State} (back : Word) (hact : s.bolt.trap.act = true) (h : ¬s.asDelivered) :
    trapReturn s back = trap 0x32 2 s.sw.mask := by
  unfold trapReturn
  dsimp only
  rw [if_pos (eq_true_of_ne_false (mt s.asDelivered_iff.mp h))]
  simp [hact, trap, bind, Except.bind]

/-- The state in which a handler's swatch goes on at `back` (R379). -/
def State.returned (s : State) (back : Word) : State :=
  (s.modBolt (fun b => { b with trap := { b.trap with act := false } })).modSw
    (fun w => { w with pc := back, native := false, unfin := none, hand := false })

theorem trapReturn_as_delivered {s : State} (back : Word) (hact : s.bolt.trap.act = true) (h : s.asDelivered) :
    trapReturn s back = if s.startBit s.ten back then .ok (s.returned back) else trap 0x02 back s.sw.mask := by
  unfold trapReturn
  dsimp only
  rw [if_neg (Bool.eq_false_iff.mp (s.asDelivered_iff.mpr h))]
  cases hbit : s.startBit s.ten back <;>
    simp [hact, checkTarget, hbit, trap, bind, Except.bind, State.returned]

@[simp] theorem sw_returned (s : State) (back : Word) :
    (s.returned back).sw = { s.sw with pc := back, native := false, unfin := none, hand := false } := by
  simp [State.returned, State.sw]

@[simp] theorem bolt_returned (s : State) (back : Word) :
    (s.returned back).bolt = { s.bolt with
      trap := { s.bolt.trap with act := false }
      sw := s.bolt.sw.set s.cur.ent (s.returned back).sw } := by
  rw [sw_returned]; simp [State.returned, State.sw]

theorem SameButTrap.returned (s : State) (back : Word) : SameButTrap s (s.returned back) :=
  .of_bolt (bolt_returned s back) (by rw [sw_returned]) rfl rfl rfl

/-- Where a `trapret` resumes (R379): at TRAP.PC, or at the instruction after the one there. -/
def State.trapBack (s : State) (x : Ext) : Word :=
  if x.modN = 1 then s.afterInstr s.ten s.bolt.trap.pc else s.bolt.trap.pc

/-- A lane of `trapret` that is active returns from the handler; with none it is a `nop`. -/
theorem exec_trapret (x : Ext) (s : State) : exec (.trapret x) s = issue 0x1E1 x.len x true (fun s =>
    if (s.actLanes x).isEmpty then do
      checkNext s (s.nextPc x.len)
      .ok (s.modSw (fun w => { w with pc := s.nextPc x.len }))
    else trapReturn s (s.trapBack x)) s := rfl

section
variable {x : Ext} {s : State} (hiss : Issues s ⟨0x1E1, x.len, x⟩ true) (hne : s.actLanes x ≠ [])
include hiss hne

theorem exec_trapret_fault {cause : Nat} {addr : Word} {lanes : Mask}
    (h : trapReturn s (s.trapBack x) = trap cause addr lanes) :
    exec (.trapret x) s = .next (raise s cause addr lanes) := by
  rw [exec_trapret]
  refine issue_trap hiss.admitted (s.txGuard_of_not_txForbidden rfl) ?_
  rw [if_neg (by simpa using hne)]
  exact h

theorem exec_trapret_ok {t : State} (h : trapReturn s (s.trapBack x) = .ok t) :
    exec (.trapret x) s = .next (s.retire x t) := by
  rw [exec_trapret]
  refine issue_ok (issueOn_ok (t := t) hiss.admitted nofun (s.txGuard_of_not_txForbidden rfl) ?_)
  rw [if_neg (by simpa using hne)]
  exact h

end

theorem afterInstr_of_codeWord {s : State} {ten : Nat} {a : Word} {w : W32} (h : s.codeWord ten a = some w) :
    s.afterInstr ten a = a + BitVec.ofNat 64 (4 * wordLen w) := by
  unfold State.afterInstr; rw [h]

/-- Settles O14: the checks of the return one by one, and the frame of the resumption and of its completion. -/
theorem trapReturns : Obligations.TrapReturns := by
  unfold Obligations.TrapReturns
  intro x s hiss _ hne tr back same
  refine ⟨fun hact => ?_, fun hact hmoved => ?_, fun hact hsame hbit => ?_, fun hact hsame hbit => ?_, fun w hw => ?_⟩
  · exact exec_trapret_fault hiss hne (trapReturn_no_handler _ hact)
  · exact exec_trapret_fault hiss hne (trapReturn_moved _ hact hmoved)
  · exact exec_trapret_fault hiss hne ((trapReturn_as_delivered _ hact hsame).trans (if_neg (Bool.eq_false_iff.mp hbit)))
  · have hcur : (s.returned back).cur = s.cur := rfl
    have keeps := (SameButTrap.returned s back).trans (.retire s x _ hcur)
    refine ⟨s.retire x (s.returned back),
      exec_trapret_ok hiss hne ((trapReturn_as_delivered _ hact hsame).trans (if_pos hbit)), ?_, ?_, ?_,
      keeps.names, keeps.preds, keeps.flags, keeps.dlv, keeps.mem, ?_⟩
    · rw [retire_trap, bolt_returned]
    · rw [retire_pc _ _ _ hcur, sw_returned]
    · rw [retire_mask _ _ _ hcur, sw_returned]
    · rw [retire_posts]; rfl
  · exact afterInstr_of_codeWord hw

end Sys2Proof.Machine
end
